-- ==== Sys2Proof/Word.lean ====
section
/-!
DEFINITION. The word types of the Tilmus T7 and their plainest arithmetic (spec/00 R3, R4, R10, R12).
Everything a test could show wrong is in Decode.lean or under Machine/.
-/

namespace Sys2Proof

/-- A byte of memory or of a scratchpad. -/
abbrev Byte := BitVec 8
/-- A 32-bit register word (03 R58). -/
abbrev Word := BitVec 32
/-- A 64-bit value: an address, a pair of registers, a PC. -/
abbrev Word64 := BitVec 64
/-- A lane mask: bit L is lane L of the frame (01 R19). -/
abbrev LaneMask := BitVec 64
/-- A 9-bit operand specifier (06 R148). -/
abbrev Spec := BitVec 9
/-- A 96-bit instruction slot (00 R10). -/
abbrev Slot := BitVec 96
/-- A 512-bit fetch line (06 R127). -/
abbrev Line := BitVec 512

/-- A sparse map in one canonical form: keys strictly rising. -/
abbrev Amap (α : Type) := List (Nat × α)

end Sys2Proof
end

