-- ==== Sys2Proof/Syntax.lean ====
section
/-!
DEFINITION. The instructions and events of spec/opcode_table.json, one constructor per row.
The 140 instruction rows carry the fields of their slot format (06 R138 to R147); the 110 event rows carry
the names of the objects the event is about, or the message that brings it from outside.
-/

namespace Sys2Proof

/-- Format A (06 Table 6-3). -/
structure FmtA where
  imm  : BitVec 32
  u    : Bool
  sat  : Bool
  absB : Bool
  absA : Bool
  negB : Bool
  negA : Bool
  c    : Spec
  b    : Spec
  a    : Spec
  d    : Spec
  ty   : BitVec 4
  deriving DecidableEq, Repr

/-- Format M (06 Table 6-4). -/
structure FmtM where
  off   : BitVec 40
  hint  : BitVec 4
  shift : BitVec 3
  idx   : Spec
  base  : Spec
  d     : Spec
  ty    : BitVec 4
  deriving DecidableEq, Repr

/-- Format T (06 Table 6-5). -/
structure FmtT where
  off1 : BitVec 16
  off0 : BitVec 16
  cnt  : BitVec 4
  c2   : Spec
  c1   : Spec
  c0   : Spec
  h    : BitVec 4
  d    : Spec
  ty   : BitVec 4
  deriving DecidableEq, Repr

/-- Format B (06 Table 6-6). -/
structure FmtB where
  joff  : BitVec 32
  toff  : BitVec 32
  jslot : BitVec 3
  tslot : BitVec 3
  mask  : BitVec 4
  cond  : BitVec 4
  deriving DecidableEq, Repr

/-- Format X (06 Table 6-7). -/
structure FmtX where
  neg     : Bool
  seten   : Bool
  setslot : BitVec 3
  waitm   : BitVec 8
  accrow  : BitVec 11
  bbase   : Spec
  abase   : Spec
  shape   : BitVec 4
  deriving DecidableEq, Repr

/-- Format E (06 Table 6-9). -/
structure FmtE where
  ext   : BitVec 30
  cwreg : Spec
  cwen  : Bool
  dmask : BitVec 4
  baren : Bool
  nb    : BitVec 4
  s2    : Spec
  s1    : Spec
  s0    : Spec
  var   : BitVec 4
  deriving DecidableEq, Repr

/-- Format P (06 Table 6-10). -/
structure FmtP where
  pat   : BitVec 8
  count : BitVec 3
  mask  : BitVec 4
  deriving DecidableEq, Repr

/-- Format Q (06 Table 6-11). -/
structure FmtQ where
  xw2 : BitVec 28
  xw1 : BitVec 28
  xw0 : BitVec 28
  nw  : BitVec 2
  deriving DecidableEq, Repr

/-- A message that arrives over Finien Link: its source node and its bits (04 R83, R107; a message shorter than
768 bits has zeros above). -/
structure HostMsg where
  src  : Nat
  bits : BitVec 768
  deriving DecidableEq, Repr

/-- A resource whose errors are counted (18 Table 18-14): its class and its index. -/
structure Resource where
  cls : Nat
  idx : Nat
  deriving DecidableEq, Repr

/-- What an uncorrectable error strikes (18 R425, R429, R394; 11 R339). -/
inductive ErrorSite where
  | line (pa : Nat)
  | regHalf (frame : Nat) (key : Nat) (half : Bool)
  | uniHalf (ctx : Nat) (reg : Nat) (half : Bool)
  | accColumn (cohort : Nat) (row col : Nat)
  | other (where_ : Nat)
  deriving DecidableEq, Repr

/-- A fabric operation that a device sends to this module (20 R446, R452, R453). `op`: 0 write, 1 read, 2 signal write,
3 signal add. `port` is the port it came through, none from this module itself; `done` holds the units already
performed, with the bytes of a read; `owned` the lines that a write still owns, virtual and physical line (16 R389). -/
structure FabricIn where
  port    : Option Nat
  srcNode : Nat
  srcVi   : Nat
  dstVi   : Nat
  op      : Nat
  tag     : Nat
  addr    : Word64
  len     : Nat
  payload : List Byte
  done    : List (Nat × List Byte)
  owned   : List (Nat × Nat)
  deriving DecidableEq, Repr

/-- A pull that a destination chip sends to a source chip (20 R464); `got` holds the rows already read. -/
structure PullReq where
  port    : Option Nat
  srcNode : Nat
  srcVi   : Nat
  dstVi   : Nat
  xid     : Word
  leg     : Nat
  tag     : Nat
  got     : List Byte
  deriving DecidableEq, Repr

/-- A frame on a Finien Link port (20 R447, R448). -/
structure LinkFrame where
  lane    : Nat
  seq     : Nat
  authOk  : Bool
  payload : List Byte
  deriving DecidableEq, Repr

/-- One constructor per row of spec/opcode_table.json, in the table's order. -/
inductive Instr where
  -- instructions
  | nop (f : FmtA)
  | add (f : FmtA)
  | sub (f : FmtA)
  | mul (f : FmtA)
  | mulhi (f : FmtA)
  | mad (f : FmtA)
  | addc (f : FmtA)
  | subb (f : FmtA)
  | min (f : FmtA)
  | max (f : FmtA)
  | abs (f : FmtA)
  | neg (f : FmtA)
  | and (f : FmtA)
  | or (f : FmtA)
  | xor (f : FmtA)
  | not (f : FmtA)
  | shl (f : FmtA)
  | shr (f : FmtA)
  | sar (f : FmtA)
  | rotl (f : FmtA)
  | clz (f : FmtA)
  | popc (f : FmtA)
  | brev (f : FmtA)
  | bfx (f : FmtA)
  | bfi (f : FmtA)
  | sel (f : FmtA)
  | icmp (f : FmtA)
  | fadd (f : FmtA)
  | fsub (f : FmtA)
  | fmul (f : FmtA)
  | fma (f : FmtA)
  | fmin (f : FmtA)
  | fmax (f : FmtA)
  | fabs (f : FmtA)
  | fneg (f : FmtA)
  | fcmp (f : FmtA)
  | fcls (f : FmtA)
  | frnd (f : FmtA)
  | cvt (f : FmtA)
  | cvti (f : FmtA)
  | cvtf (f : FmtA)
  | pack (f : FmtA)
  | unpk (f : FmtA)
  | qnt (f : FmtA)
  | rcp (f : FmtA)
  | rsq (f : FmtA)
  | sqrt (f : FmtA)
  | exp2 (f : FmtA)
  | log2 (f : FmtA)
  | sin (f : FmtA)
  | cos (f : FmtA)
  | tanh (f : FmtA)
  | shfl (f : FmtA)
  | shup (f : FmtA)
  | shdn (f : FmtA)
  | qswp (f : FmtA)
  | qbc (f : FmtA)
  | vote (f : FmtA)
  | ballot (f : FmtA)
  | lred (f : FmtA)
  | lscan (f : FmtA)
  | xbld (f : FmtA)
  | xbp (f : FmtA)
  | mov (f : FmtA)
  | movi (f : FmtA)
  | rsr (f : FmtA)
  | wsr (f : FmtA)
  | fmts (f : FmtA)
  | fmtr (f : FmtA)
  | rand (f : FmtA)
  | mset (f : FmtA)
  | mpop (f : FmtA)
  | ld (f : FmtM)
  | st (f : FmtM)
  | ldg (f : FmtM)
  | stg (f : FmtM)
  | ldsp (f : FmtM)
  | stsp (f : FmtM)
  | prf (f : FmtM)
  | tld (f : FmtT)
  | tst (f : FmtT)
  | tlds (f : FmtT)
  | stsh (f : FmtT)
  | redst (f : FmtM)
  | thnd (f : FmtM)
  | aadd (f : FmtM)
  | amin (f : FmtM)
  | amax (f : FmtM)
  | aand (f : FmtM)
  | aor (f : FmtM)
  | axor (f : FmtM)
  | axchg (f : FmtM)
  | acas (f : FmtM)
  | afadd (f : FmtM)
  | wait (f : FmtA)
  | nbinit (f : FmtA)
  | nbarv (f : FmtA)
  | nbwt (f : FmtA)
  | nbsync (f : FmtA)
  | waddr (f : FmtM)
  | cpy (f : FmtE)
  | cpyo (f : FmtE)
  | cpym (f : FmtE)
  | cpyacc (f : FmtE)
  | cpyacs (f : FmtE)
  | dzjob (f : FmtE)
  | mma (f : FmtX)
  | mmaz (f : FmtX)
  | accz (f : FmtX)
  | accrd (f : FmtX)
  | accwr (f : FmtX)
  | bra (f : FmtB)
  | brm (f : FmtB)
  | call (f : FmtB)
  | calli (f : FmtB)
  | ret (f : FmtB)
  | exit (f : FmtB)
  | rgn (f : FmtB)
  | wset (f : FmtB)
  | join (f : FmtB)
  | trap (f : FmtB)
  | brk (f : FmtB)
  | lyrd (f : FmtT)
  | lypin (f : FmtT)
  | lyunp (f : FmtT)
  | lyadv (f : FmtT)
  | ovtld (f : FmtA)
  | tlbinv (f : FmtA)
  | cmnt (f : FmtM)
  | ambw (f : FmtA)
  | jnlaunch (f : FmtE)
  | jnrst (f : FmtE)
  | jnrstStop (f : FmtE)
  | jnrstClose (f : FmtE)
  | jnst (f : FmtE)
  | fput (f : FmtE)
  | fget (f : FmtE)
  | fsig (f : FmtE)
  | pblk (f : FmtP)
  | xpfx (f : FmtQ)
  | notAnInstruction (w : Slot)
  -- events
  | fetchLineArrival (ctx : Nat) (noise : Line)
  | pageWalkComplete (core vi : Nat) (va : Word64)
  | regionCommit (ctx : Nat)
  | rollbackWindowExpiry (ctx : Nat)
  | lineHoldExpiry (ctx : Nat)
  | contextHalt (ctx : Nat)
  | trapRecordWrite (rec : Nat)
  | cohortEnd (tag : Nat)
  | launchCompletion (l : Nat)
  | launch (m : HostMsg)
  | resume (m : HostMsg)
  | abort (m : HostMsg)
  | memRd (m : HostMsg)
  | memWr (m : HostMsg)
  | droppedMessage (m : HostMsg)
  | regWr (m : HostMsg)
  | hdataWrite (m : HostMsg)
  | hpcloHpchiWrite (m : HostMsg)
  | tictlInvalidatePage (m : HostMsg)
  | tictlInvalidateAll (m : HostMsg)
  | tlbInvalidationComplete (n : Nat)
  | viEnable (m : HostMsg)
  | viDisable (m : HostMsg)
  | viddataWrite (m : HostMsg)
  | slotcmtWrite (m : HostMsg)
  | hbmFrameBoundary
  | gscmtWrite (m : HostMsg)
  | gangSliceInstant
  | cohortSave (tag : Nat)
  | gangSwitchRestore
  | gangSwitchOverrun (ns : Nat)
  | ptpSyncLoss (offset : Nat)
  | ptpSyncRestored
  | waitEventRead (l i : Nat)
  | waitEventRetry (l i : Nat)
  | launchSelection
  | launchPriorityAging (l : Nat)
  | cohortPlacement
  | clusterPlacement
  | copyUnitTransfer (job unit : Nat)
  | multicastDelivery (job pos : Nat)
  | multicastBoundExpiry (job : Nat)
  | copyCompletion (job : Nat)
  | dzJobEnd (job : Nat)
  | matrixInstructionCompletion (frame : Nat)
  | coordinateAccessAtHome (ctx : Nat)
  | staleRejection (ctx : Nat)
  | redstHomeAdd (op : Nat)
  | epochEnd (band : Nat)
  | windowEnd (band : Nat)
  | pinMoveStart (band : Nat)
  | paverMoveInstall (band : Nat)
  | pinApply (band : Nat)
  | unpinApply (band : Nat)
  | adviceApply (band : Nat)
  | gets (die line : Nat)
  | getm (die line : Nat)
  | wbd (die line : Nat)
  | evc (die line : Nat)
  | fwds (die line : Nat)
  | fwdm (die line : Nat)
  | inv (die line : Nat)
  | binv (line : Nat)
  | data (die line : Nat)
  | datad (die line : Nat)
  | ack (die line : Nat)
  | cmp (die line : Nat)
  | hsnp (line : Nat) (own : Bool)
  | fill (core line : Nat)
  | wrt (core line : Nat)
  | l1inv (core line : Nat)
  | own (die agent line : Nat)
  | rcl (die agent line : Nat)
  | rclack (die agent line : Nat)
  | correctableError (r : Resource)
  | uncorrectableError (r : Resource) (site : ErrorSite)
  | agentFailure (agent line : Nat)
  | faultLeakPeriod (r : Resource)
  | spareRetirementComplete (r : Resource)
  | l2gmaskWrite (m : HostMsg)
  | l2GatingTransitionComplete (die : Nat)
  | junctionPlanComplete (x : Nat)
  | junctionPullServe (p : PullReq)
  | junctionLegComplete (x leg : Nat) (payload : List Byte)
  | junctionPullRefusal (x leg reason : Nat)
  | junctionPullRetry (x leg : Nat)
  | junctionPullTimeout (x leg : Nat)
  | fabricOperationAtTarget (op : FabricIn)
  | fsigWrite (op : Nat)
  | fabricAcknowledgement (op : Nat) (payload : List Byte)
  /-- `sub` is the answer's word: the subcause in [7:0], the address that fails from bit 8 up (20 R456) -/
  | fabricRefusal (op sub : Nat)
  | fabricTimeout (op port : Nat)
  | frameReceive (port : Nat) (frame : LinkFrame)
  | frameAcknowledgement (port lane seq : Nat)
  | frameReplay (port lane : Nat) (laneError : Option Nat)
  | keyChangeover (port : Nat)
  | cxlRequestTimeout (line : Nat)
  | keyselWrite (m : HostMsg)
  | keydataWrite (m : HostMsg)
  | keycmtWrite (m : HostMsg)
  | attnonceWrite (m : HostMsg)
  | attgoWrite (m : HostMsg)
  | attestationReportComplete
  | resetctlWrite (m : HostMsg)
  | powerOn
  | thermalTrip
  | clockThrottle (mhz : Nat)
  | portUp (port : Nat)
  | powerLoss
  deriving DecidableEq, Repr

end Sys2Proof
end

