-- ==== Sys2Proof/Machine/Encoding.lean ====
section
/-!
DEFINITION. The encoding rules that a slot alone decides (06 R138 to R161 and the field tables of the instruction
chapters): which specifiers, codes, types and modifiers each instruction accepts. A slot that breaks one traps
ILLEGAL_ENCODING. Rules that need the launch, fmt or a prefix (VREGS, Table 11-1, extension words) are in the meanings.
-/

namespace Sys2Proof.Machine

/-! ## Operand specifiers (06 Table 6-13) -/

/-- What a 9-bit operand specifier names. -/
inductive Operand where
  | vreg (n : Nat)
  | greg (n : Nat)
  | special (n : Nat)
  | const (n : Nat)
  | none
  | imm
  deriving DecidableEq, Repr

/-- 06 R148, Table 6-13. -/
def operandOf (s : Spec) : Operand :=
  let n := s.toNat
  if n < 256 then .vreg n
  else if n < 384 then .greg (n - 256)
  else if n < 448 then .special n
  else if n < 510 then .const n
  else if n = 510 then .none
  else .imm

def isV (s : Spec) : Bool := s.toNat < 256
def isG (s : Spec) : Bool := 256 ≤ s.toNat && s.toNat < 384
def isSpecial (s : Spec) : Bool := 384 ≤ s.toNat && s.toNat < 448
def isConst (s : Spec) : Bool := 448 ≤ s.toNat && s.toNat < 510
/-- An integer inline constant (06 Table 6-14). -/
def isIntConst (s : Spec) : Bool := 448 ≤ s.toNat && s.toNat < 496
def isFloatConst (s : Spec) : Bool := 496 ≤ s.toNat && s.toNat < 510
def isNone (s : Spec) : Bool := s.toNat = 510
def isImm (s : Spec) : Bool := s.toNat = 511
/-- A mask, handle or barrier written as 448 + K (06 R154). -/
def isK (s : Spec) : Bool := 448 ≤ s.toNat && s.toNat < 464
/-- A mask that may be written: m0 may not (06 R154). -/
def isMaskDst (s : Spec) : Bool := 449 ≤ s.toNat && s.toNat < 464
/-- The even g register of a pair (06 R152). -/
def isEvenG (s : Spec) : Bool := isG s && s.toNat % 2 = 0
def isEvenV (s : Spec) : Bool := isV s && s.toNat % 2 = 0

/-- Width in bits of the containers that a type reads (03 R58): 32, 16 or 8. -/
def tyBits (ty : Nat) : Nat :=
  if ty = 1 || ty = 2 || ty = 7 || ty = 8 then 16
  else if ty = 3 || ty = 4 || ty = 5 || ty = 6 then 8
  else 32

/-- An integer type narrower than 32 bits: a float constant read so traps (06 Table 6-15). -/
def isNarrowInt (ty : Nat) : Bool := ty = 5 || ty = 6 || ty = 7 || ty = 8
def isIntTy (ty : Nat) : Bool := 5 ≤ ty && ty ≤ 10
def isFloatTy (ty : Nat) : Bool := ty ≤ 2
/-- A signed integer type. -/
def isSignedTy (ty : Nat) : Bool := ty = 5 || ty = 7 || ty = 9

/-- A source operand read as type `rt`: no special register (06 R150), no v register on the uniform path (06 R153),
no float constant read as a narrow integer (06 R156). -/
def srcOk (uniform : Bool) (rt : Nat) (s : Spec) : Bool :=
  !isSpecial s && !(uniform && isV s) && !(isNarrowInt rt && isFloatConst s)

/-- A destination register: v off the uniform path, g on it, or none (06 R148, R150, R153). -/
def dstOk (uniform : Bool) (s : Spec) : Bool :=
  isNone s || (if uniform then isG s else isV s)

/-- A value operand that is a g register, an inline constant or IMM32. -/
def gcOk (s : Spec) : Bool := isG s || isConst s || isImm s

/-! ## Format A -/

/-- The rules every Format A slot obeys: IMM32 is zero when nothing names it (06 R138), no modifier that is not
accepted (06 R139, 08 R208), U only where allowed (06 R153). -/
def aOk (f : FmtA) (uni sat nabA nabB : Bool) : Bool :=
  (isImm f.a || isImm f.b || isImm f.c || f.imm = 0)
  && !isImm f.d
  && (uni || !f.u) && (sat || !f.sat)
  && (nabA || (!f.negA && !f.absA)) && (nabB || (!f.negB && !f.absB))

/-- A field used as a code (08 R209): its value satisfies `p`. -/
def codeOk (s : Spec) (p : Nat → Bool) : Bool := p s.toNat

/-- D, A: one-operand integer row of Table 8-4. -/
def int1Ok (f : FmtA) (sat : Bool) : Bool :=
  aOk f true sat false false && isIntTy f.ty.toNat && dstOk f.u f.d
  && srcOk f.u f.ty.toNat f.a && isNone f.b && isNone f.c

/-- D, A, B: two-operand integer row of Table 8-4. -/
def int2Ok (f : FmtA) (sat : Bool) : Bool :=
  aOk f true sat false false && isIntTy f.ty.toNat && dstOk f.u f.d
  && srcOk f.u f.ty.toNat f.a && srcOk f.u f.ty.toNat f.b && isNone f.c

/-- D, A, B, C: `mad`. -/
def int3Ok (f : FmtA) (sat : Bool) : Bool :=
  aOk f true sat false false && isIntTy f.ty.toNat && dstOk f.u f.d
  && srcOk f.u f.ty.toNat f.a && srcOk f.u f.ty.toNat f.b && srcOk f.u f.ty.toNat f.c

def is32Ty (ty : Nat) : Bool := ty = 9 || ty = 10

/-- `addc`, `subb` (08 R213). -/
def carryOk (f : FmtA) : Bool :=
  aOk f false false false false && is32Ty f.ty.toNat && dstOk false f.d
  && srcOk false f.ty.toNat f.a && srcOk false f.ty.toNat f.b && isMaskDst f.c

/-- `sel` (08 R215): A and B are INT32 bit patterns. -/
def selOk (f : FmtA) : Bool :=
  aOk f false false false false && f.ty.toNat ≤ 10 && dstOk false f.d
  && srcOk false 9 f.a && srcOk false 9 f.b && isK f.c

/-- `icmp` (08 R216). -/
def icmpOk (f : FmtA) : Bool :=
  aOk f false false false false && isIntTy f.ty.toNat && isMaskDst f.d
  && srcOk false f.ty.toNat f.a && srcOk false f.ty.toNat f.b && codeOk f.c (· ≤ 5)

/-- Floating rows of Table 8-6 with operands A and B, and C when `three`. -/
def flt2Ok (f : FmtA) (sat three : Bool) : Bool :=
  aOk f true sat true true && isFloatTy f.ty.toNat && dstOk f.u f.d
  && srcOk f.u f.ty.toNat f.a && srcOk f.u f.ty.toNat f.b
  && (if three then srcOk f.u f.ty.toNat f.c else isNone f.c)

/-- `fabs`, `fneg`, `frnd` (no modifier) and the MAJ 0x04 row (`sf`: NEGA, ABSA and SAT accepted). -/
def flt1Ok (f : FmtA) (sf : Bool) : Bool :=
  aOk f true sf sf false && isFloatTy f.ty.toNat && dstOk f.u f.d
  && srcOk f.u f.ty.toNat f.a && isNone f.b && isNone f.c

/-- `fcmp` (08 R219). -/
def fcmpOk (f : FmtA) : Bool :=
  aOk f false false true true && isFloatTy f.ty.toNat && isMaskDst f.d
  && srcOk false f.ty.toNat f.a && srcOk false f.ty.toNat f.b && codeOk f.c (· ≤ 7)

/-- `fcls` (08 R220): B is an INT32 bit pattern. -/
def fclsOk (f : FmtA) : Bool :=
  aOk f false false false false && isFloatTy f.ty.toNat && isMaskDst f.d
  && srcOk false f.ty.toNat f.a && srcOk false 9 f.b && isNone f.c

/-- `cvt` (08 R222). -/
def cvtOk (f : FmtA) : Bool :=
  aOk f true false false false && f.ty.toNat ≤ 10 && dstOk f.u f.d
  && codeOk f.c (· ≤ 10) && srcOk f.u f.c.toNat f.a && isNone f.b

/-- `cvti` (08 R223). -/
def cvtiOk (f : FmtA) : Bool :=
  aOk f true false false false && isIntTy f.ty.toNat && dstOk f.u f.d
  && codeOk f.c (· ≤ 2) && srcOk f.u f.c.toNat f.a && srcOk f.u 9 f.b

/-- `cvtf` (08 R223). -/
def cvtfOk (f : FmtA) : Bool :=
  aOk f true false false false && isFloatTy f.ty.toNat && dstOk f.u f.d
  && codeOk f.c isIntTy && srcOk f.u f.c.toNat f.a && srcOk f.u 9 f.b

/-- `pack` (08 R224). -/
def packOk (f : FmtA) : Bool :=
  let ty := f.ty.toNat
  aOk f true false false false && (1 ≤ ty && ty ≤ 8) && dstOk f.u f.d
  && srcOk f.u 9 f.a && srcOk f.u 9 f.b && codeOk f.c (fun h => h ≤ 1 && (tyBits ty = 8 || h = 0))

/-- `unpk` (08 R225). -/
def unpkOk (f : FmtA) : Bool :=
  let ty := f.ty.toNat
  aOk f true false false false && (1 ≤ ty && ty ≤ 8) && dstOk f.u f.d
  && srcOk f.u ty f.a && isNone f.b && codeOk f.c (fun c => c < 32 / tyBits ty)

/-- `qnt` (08 R226). -/
def qntOk (f : FmtA) : Bool :=
  let ty := f.ty.toNat
  aOk f true false false false && (3 ≤ ty && ty ≤ 6) && dstOk f.u f.d
  && srcOk f.u 0 f.a && srcOk f.u 9 f.b && codeOk f.c (· = 0)

/-- `shfl` (08 R232) and `xbp` (R234): A is a v register, B and C any source. -/
def shflOk (f : FmtA) : Bool :=
  aOk f false false false false && f.ty.toNat ≤ 10 && dstOk false f.d
  && isV f.a && srcOk false 9 f.b && srcOk false 9 f.c

/-- `shup`, `shdn` (08 R232): B is a g register, an inline constant or 511. -/
def shudOk (f : FmtA) : Bool :=
  aOk f false false false false && f.ty.toNat ≤ 10 && dstOk false f.d
  && isV f.a && gcOk f.b && srcOk false 9 f.c

/-- `qswp` (lo = 449) and `qbc` (lo = 448) (08 R233). -/
def quadOk (f : FmtA) (lo : Nat) : Bool :=
  aOk f false false false false && f.ty.toNat ≤ 10 && dstOk false f.d
  && isV f.a && (lo ≤ f.b.toNat && f.b.toNat ≤ 451) && isNone f.c

/-- `vote` (08 R235). -/
def voteOk (f : FmtA) : Bool :=
  aOk f false false false false && f.ty = 0 && dstOk false f.d
  && srcOk false 9 f.a && isNone f.b && codeOk f.c (· ≤ 2)

/-- `ballot` (08 R236). -/
def ballotOk (f : FmtA) : Bool :=
  aOk f false false false false && f.ty = 0 && isMaskDst f.d
  && srcOk false 9 f.a && isNone f.b && isNone f.c

/-- `lred`, and `lscan` when `scan` (08 R237, R238, Table 8-14). -/
def lredOk (f : FmtA) (scan : Bool) : Bool :=
  let ty := f.ty.toNat
  let op := f.c.toNat % 8
  aOk f false (isIntTy ty && op = 0) false false && dstOk false f.d
  && srcOk false ty f.a && isNone f.b
  && codeOk f.c (fun c => c < (if scan then 16 else 8))
  && ((isIntTy ty && op ≤ 5) || (isFloatTy ty && op ≤ 2))

/-- `xbld` (08 R234). -/
def xbldOk (f : FmtA) : Bool :=
  aOk f true false false false && f.ty = 0 && dstOk f.u f.d
  && srcOk f.u 9 f.a && isNone f.b && codeOk f.c (· ≤ 3)

/-- `mov`, `movi` and `rsr` run on the uniform path when U = 1 or D is a g register (06 R153). -/
def movUniform (f : FmtA) : Bool := f.u || isG f.d

/-- `mov` (08 R239). -/
def movOk (f : FmtA) : Bool :=
  aOk f true false false false && f.ty.toNat ≤ 10 && dstOk (movUniform f) f.d
  && srcOk (movUniform f) 9 f.a && isNone f.b && isNone f.c

/-- `movi` (08 R239). -/
def moviOk (f : FmtA) : Bool :=
  aOk f true false false false && f.ty = 0 && dstOk (movUniform f) f.d
  && (isConst f.a || isImm f.a) && isNone f.b && isNone f.c

/-- `rsr` (08 R240, 06 R157): 384 and 385 are lane scope. -/
def rsrOk (f : FmtA) : Bool :=
  aOk f true false false false && f.ty = 0 && dstOk (movUniform f) f.d
  && (384 ≤ f.a.toNat && f.a.toNat ≤ 400)
  && !(movUniform f && f.a.toNat ≤ 385) && isNone f.b && isNone f.c

/-- `wsr` (08 R240). -/
def wsrOk (f : FmtA) : Bool :=
  aOk f false false false false && f.ty = 0 && (f.d.toNat = 397 || f.d.toNat = 398)
  && gcOk f.a && isNone f.b && isNone f.c

/-- `fmts` (08 R241). -/
def fmtsOk (f : FmtA) : Bool :=
  aOk f false false false false && f.ty = 0 && isNone f.d && gcOk f.a && isNone f.b && isNone f.c

/-- `fmtr` (08 R241). -/
def fmtrOk (f : FmtA) : Bool :=
  aOk f true false false false && f.ty = 0 && dstOk f.u f.d && isNone f.a && isNone f.b && isNone f.c

/-- `rand` (08 R244). -/
def randOk (f : FmtA) : Bool :=
  aOk f false false false false && f.ty = 0 && dstOk false f.d && isNone f.a && isNone f.b && isNone f.c

/-- `mset` (08 R242, Table 8-15). -/
def msetOk (f : FmtA) : Bool :=
  aOk f false false false false && f.ty = 0 && isMaskDst f.d
  && (match f.c.toNat with
      | 0 => (isEvenG f.a || isConst f.a || isImm f.a) && isNone f.b
      | 1 | 2 | 3 | 4 => isK f.a && isK f.b
      | 5 => isK f.a && isNone f.b
      | _ => false)

/-- `mpop` (08 R243). -/
def mpopOk (f : FmtA) : Bool :=
  aOk f true false false false && f.ty = 0 && dstOk f.u f.d && isK f.a && isNone f.b && codeOk f.c (· ≤ 3)

/-- `wait` (07 R171): IMM32 holds the limits. -/
def waitOk (f : FmtA) : Bool :=
  f.ty = 0 && !f.u && !f.sat && !f.absB && !f.absA && !f.negB && !f.negA
  && isNone f.d && isNone f.a && isNone f.b && isNone f.c

/-- `nbinit` (10 Table 10-6). -/
def nbinitOk (f : FmtA) : Bool :=
  aOk f false false false false && f.ty = 0 && isK f.d && gcOk f.a && gcOk f.b && isNone f.c

/-- `nbarv`, `nbwt`, `nbsync` (10 Table 10-6): C is the scope. -/
def nbOk (f : FmtA) : Bool :=
  aOk f false false false false && f.ty = 0 && isNone f.d && isNone f.b
  && (match f.c.toNat with
      | 0 => isK f.a
      | 1 => isNone f.a
      | _ => false)

/-- `ovtld` (18 Table 18-17). -/
def ovtldOk (f : FmtA) : Bool :=
  aOk f false false false false && f.ty = 0 && isNone f.d && gcOk f.a && isNone f.b && isNone f.c

/-- `tlbinv` (18 Table 18-17). -/
def tlbinvOk (f : FmtA) : Bool :=
  aOk f false false false false && f.ty = 0 && isNone f.d && isNone f.b
  && (match f.c.toNat with
      | 0 => isNone f.a
      | 1 => isEvenG f.a
      | _ => false)

/-- `ambw` (18 Table 18-17). -/
def ambwOk (f : FmtA) : Bool :=
  aOk f false false false false && f.ty = 0 && isNone f.d && gcOk f.a && gcOk f.b && isNone f.c

/-- `nop` is the all-zero slot (06 R149). -/
def nopOk (f : FmtA) : Bool :=
  f.imm = 0 && !f.u && !f.sat && !f.absB && !f.absA && !f.negB && !f.negA
  && f.c = 0 && f.b = 0 && f.a = 0 && f.d = 0 && f.ty = 0

/-! ## Format M (06 R140, 09 Table 9-4) -/

def baseGOk (s : Spec) : Bool := isEvenG s || isNone s
/-- An index: v, g, inline constant or 510. -/
def idxOk (s : Spec) : Bool := isV s || isG s || isConst s || isNone s
/-- A store's data: v, g or inline constant, read in format `ty`. -/
def dataOk (ty : Nat) (s : Spec) : Bool :=
  (isV s || isG s || isConst s) && !(isNarrowInt ty && isFloatConst s)

def mOk (f : FmtM) (maxHint : Nat) : Bool := f.shift.toNat ≤ 4 && f.hint.toNat ≤ maxHint && idxOk f.idx

/-- `ld`, `ldsp`; `ldg` takes an even v base. -/
def loadOk (f : FmtM) (vbase : Bool) (maxHint : Nat) : Bool :=
  mOk f maxHint && f.ty.toNat ≤ 10 && isV f.d && (if vbase then isEvenV f.base else baseGOk f.base)
/-- `st`, `stsp`; `stg` takes an even v base. -/
def storeOk (f : FmtM) (vbase : Bool) (maxHint : Nat) : Bool :=
  mOk f maxHint && f.ty.toNat ≤ 10 && dataOk f.ty.toNat f.d
  && (if vbase then isEvenV f.base else baseGOk f.base)
/-- `prf`. -/
def prfOk (f : FmtM) : Bool :=
  mOk f 3 && f.ty = 0 && isNone f.d && (baseGOk f.base || isEvenV f.base)
/-- Atomics (09 R266): D a v register, even for `acas`. -/
def atomOk (f : FmtM) (tys : Nat → Bool) (cas : Bool) : Bool :=
  mOk f 3 && tys f.ty.toNat && (baseGOk f.base || isEvenV f.base) && (if cas then isEvenV f.d else isV f.d)
/-- `redst` (09 R269). -/
def redstOk (f : FmtM) : Bool :=
  mOk f 3 && f.ty = 0 && (baseGOk f.base || isEvenV f.base) && dataOk 0 f.d
/-- `thnd` (09 R272): no v index. -/
def thndOk (f : FmtM) : Bool :=
  mOk f 3 && f.ty = 0 && baseGOk f.base && isK f.d && !isV f.idx
/-- `waddr` (10 R310). -/
def waddrOk (f : FmtM) : Bool :=
  mOk f 0 && is32Ty f.ty.toNat && baseGOk f.base && (isG f.idx || isIntConst f.idx || isNone f.idx)
  && (isG f.d || isConst f.d)
/-- `cmnt` (18 Table 18-17). -/
def cmntOk (f : FmtM) : Bool :=
  mOk f 0 && f.ty.toNat = 9 && baseGOk f.base && !isV f.idx && (isG f.d || isConst f.d)

/-! ## Format T (06 R141, 09 R274, 13 R356) -/

def coordOk (s : Spec) : Bool := isV s || isG s || isConst s || isNone s
def tOk (f : FmtT) : Bool := coordOk f.c0 && coordOk f.c1 && coordOk f.c2
/-- `tld`, `tst`, `tlds`; `stsh` needs an even handle (09 R278). -/
def coordAccessOk (f : FmtT) (evenH : Bool) : Bool :=
  tOk f && f.ty.toNat ≤ 10 && f.cnt.toNat ≤ 3 && isV f.d && (!evenH || f.h.toNat % 2 = 0)
/-- MAJ 0x0E (13 Table 13-5). -/
def layoutOk (f : FmtT) (dOk : Bool) : Bool := tOk f && f.ty = 0 && f.cnt = 0 && dOk

/-! ## Format B (07 Table 7-4) -/

def bSlots (f : FmtB) : Bool := f.jslot.toNat ≤ 4 && f.tslot.toNat ≤ 4
def bNoJoin (f : FmtB) : Bool := f.jslot = 0 && f.joff = 0
def bNoTarget (f : FmtB) : Bool := f.tslot = 0 && f.toff = 0
def braOk (f : FmtB) : Bool := bSlots f && bNoJoin f && f.cond.toNat ≤ 4 && (f.cond ≠ 0 || f.mask = 0)
def brmOk (f : FmtB) : Bool := bSlots f && f.cond = 0
def callOk (f : FmtB) : Bool := bSlots f && bNoJoin f && f.cond = 0 && f.mask = 0
/-- `calli` (06 R143): bits [72:64] name an even g register. -/
def calliOk (f : FmtB) : Bool :=
  bNoTarget f && f.jslot = 0 && f.cond = 0 && f.mask = 0
  && f.joff.toNat < 512 && isEvenG (f.joff.setWidth 9)
def plainBOk (f : FmtB) : Bool := bNoTarget f && bNoJoin f && f.cond = 0 && f.mask = 0
def wsetOk (f : FmtB) : Bool := bNoTarget f && bNoJoin f && f.cond.toNat ≤ 3 && f.mask = 0
def codeBOk (f : FmtB) : Bool := f.tslot = 0 && bNoJoin f && f.cond = 0 && f.mask = 0

/-! ## Format X (11 Table 11-4, R320, R321) -/

/-- Registers of one fragment (11 Table 11-2). -/
def fragRegs (shape : Nat) : Nat := if shape = 1 then 8 else 4
def xSet (f : FmtX) : Bool := f.seten || f.setslot = 0
def mmaOk (f : FmtX) : Bool :=
  xSet f && f.shape.toNat ≤ 2 && isV f.abase && isV f.bbase
  && f.abase.toNat % fragRegs f.shape.toNat = 0 && f.bbase.toNat % fragRegs f.shape.toNat = 0
  && f.accrow.toNat % 64 = 0
def acczOk (f : FmtX) : Bool :=
  xSet f && f.shape = 0 && f.abase = 0 && f.bbase = 0 && !f.neg && f.accrow.toNat % 64 = 0
def accrdOk (f : FmtX) : Bool :=
  xSet f && f.shape = 0 && isV f.abase && f.abase.toNat % 8 = 0 && f.bbase = 0 && !f.neg
  && f.accrow.toNat % 8 = 0
def accwrOk (f : FmtX) : Bool :=
  xSet f && f.shape = 0 && isV f.bbase && f.bbase.toNat % 8 = 0 && f.abase = 0 && !f.neg
  && f.accrow.toNat % 8 = 0

/-! ## Format E (10 R293, Tables 10-1 and 10-2; 20 Table 20-4, R466, R467) -/

/-- A scratchpad offset or accumulator row: g, integer inline constant or 510. -/
def spOk (s : Spec) : Bool := isG s || isIntConst s || isNone s
/-- A coordinate triple: an even g register n with n at most 124. -/
def tripleOk (s : Spec) : Bool := isEvenG s && s.toNat ≤ 256 + 124
def lenOk (s : Spec) : Bool := isG s || isNone s
/-- BAREN, NB, CWEN, CWREG of a copy or fabric operation. -/
def eBar (f : FmtE) : Bool :=
  (f.baren || f.nb = 0) && (if f.cwen then isEvenG f.cwreg else f.cwreg = 0)
def eNoBar (f : FmtE) : Bool := !f.baren && f.nb = 0 && !f.cwen && f.cwreg = 0
/-- LEN in EXT bits [86:66], used when S2 = 510. -/
def eLen (f : FmtE) : Nat := (f.ext.extractLsb' 0 21).toNat
def eLenOk (f : FmtE) : Bool :=
  f.ext.extractLsb' 21 9 = 0 && eLen f ≤ 1048576 && (isNone f.s2 || eLen f = 0)
def eBoxOk (f : FmtE) : Bool := f.ext.extractLsb' 24 6 = 0
def copyOk (f : FmtE) (multicast : Bool) : Bool :=
  eBar f && (if multicast then f.dmask ≠ 0 else f.dmask = 0) && spOk f.s0
  && (match f.var.toNat with
      | 0 => isEvenG f.s1 && lenOk f.s2 && eLenOk f
      | 1 => isK f.s1 && tripleOk f.s2 && eBoxOk f
      | _ => false)
/-- `cpyacc` (memory) and `cpyacs` (scratchpad). -/
def accCopyOk (f : FmtE) (scratch : Bool) : Bool :=
  eNoBar f && f.dmask = 0 && spOk f.s0 && (if scratch then spOk f.s1 else isEvenG f.s1) && isNone f.s2
  && f.var.toNat ≤ 1 && f.ext.extractLsb' 25 5 = 0
  && (let cvt := (f.ext.extractLsb' 23 2).toNat; cvt ≠ 3 && (f.var = 0 || cvt = 0))
  && (f.ext.getLsbD 11 || f.ext.extractLsb' 8 3 = 0)
def dzjobOk (f : FmtE) : Bool :=
  eBar f && f.dmask = 0 && isEvenG f.s1 && lenOk f.s2 && eLenOk f
  && (match f.var.toNat with
      | 0 => spOk f.s0
      | 1 => isNone f.s0
      | _ => false)
/-- A node word: g register or integer inline constant (20 R451). -/
def nodeOk (s : Spec) : Bool := isG s || isIntConst s
/-- Fields of `fput` and `fget`: the scratchpad offset of `fput` is a g register or a constant (20 Table 20-4), that of
`fget` as for copies (10 R293). -/
def putGetOk (put : Bool) (f : FmtE) : Bool :=
  eBar f && f.dmask = 0 && isEvenG f.s0 && nodeOk f.s2
  && f.ext.extractLsb' 21 9 = 0 && eLen f ≤ 1048576
  && (match f.var.toNat with
      | 0 => isEvenG f.s1
      | 1 => if put then nodeOk f.s1 else spOk f.s1
      | _ => false)
def fsigOk (f : FmtE) : Bool :=
  eBar f && f.dmask = 0 && isEvenG f.s0 && isEvenG f.s1 && nodeOk f.s2 && f.ext = 0 && f.var.toNat ≤ 1
def jnOk (f : FmtE) (var : Nat) : Bool :=
  eNoBar f && f.dmask = 0 && f.ext = 0 && f.var.toNat = var && isNone f.s0 && isEvenG f.s1 && isNone f.s2
def jnstOk (f : FmtE) : Bool :=
  eNoBar f && f.dmask = 0 && f.ext = 0 && f.var = 0 && isEvenG f.s0 && isEvenG f.s1 && isNone f.s2

/-! ## Formats P and Q (06 R146, R147) -/

def pblkOk (f : FmtP) : Bool := f.pat.toNat < 2 ^ (f.count.toNat + 1)
/-- One extension word (06 Table 6-12): its fourth operand is a source specifier (06 R150). -/
def xwordOk (w : BitVec 28) : Bool :=
  w.extractLsb' 18 10 = 0
  && (let r := (w.extractLsb' 4 3).toNat; r ≠ 5 && r ≠ 6)
  && (let op4 := (w.extractLsb' 7 9).toNat; op4 ≠ 511 && !(384 ≤ op4 && op4 < 448))
def xpfxOk (f : FmtQ) : Bool :=
  match f.nw.toNat with
  | 0 => xwordOk f.xw0 && f.xw1 = 0 && f.xw2 = 0
  | 1 => xwordOk f.xw0 && xwordOk f.xw1 && f.xw2 = 0
  | 2 => xwordOk f.xw0 && xwordOk f.xw1 && xwordOk f.xw2
  | _ => false

/-! ## The map -/

def intTys (t : Nat) : Bool := is32Ty t
def xchgTys (t : Nat) : Bool := t = 0 || is32Ty t

/-- Whether every encoding rule that the slot alone decides holds. `notAnInstruction` never holds it (06 R161);
an event has no encoding. -/
def encodingOk : Instr → Bool
  | .nop f => nopOk f
  | .add f | .sub f | .mul f => int2Ok f true
  | .mulhi f | .min f | .max f | .and f | .or f | .xor f
  | .shl f | .shr f | .sar f | .rotl f => int2Ok f false
  | .mad f => int3Ok f true
  | .addc f | .subb f => carryOk f
  | .abs f | .neg f => int1Ok f true
  | .not f | .clz f | .popc f | .brev f => int1Ok f false
  | .bfx f => int2Ok f false && is32Ty f.ty.toNat
  | .bfi f => int3Ok f false && is32Ty f.ty.toNat
  | .sel f => selOk f
  | .icmp f => icmpOk f
  | .fadd f | .fsub f | .fmul f => flt2Ok f true false
  | .fma f => flt2Ok f true true
  | .fmin f | .fmax f => flt2Ok f false false
  | .fabs f | .fneg f | .frnd f => flt1Ok f false
  | .fcmp f => fcmpOk f
  | .fcls f => fclsOk f
  | .cvt f => cvtOk f
  | .cvti f => cvtiOk f
  | .cvtf f => cvtfOk f
  | .pack f => packOk f
  | .unpk f => unpkOk f
  | .qnt f => qntOk f
  | .rcp f | .rsq f | .sqrt f | .exp2 f | .log2 f | .sin f | .cos f | .tanh f => flt1Ok f true
  | .shfl f | .xbp f => shflOk f
  | .shup f | .shdn f => shudOk f
  | .qswp f => quadOk f 449
  | .qbc f => quadOk f 448
  | .vote f => voteOk f
  | .ballot f => ballotOk f
  | .lred f => lredOk f false
  | .lscan f => lredOk f true
  | .xbld f => xbldOk f
  | .mov f => movOk f
  | .movi f => moviOk f
  | .rsr f => rsrOk f
  | .wsr f => wsrOk f
  | .fmts f => fmtsOk f
  | .fmtr f => fmtrOk f
  | .rand f => randOk f
  | .mset f => msetOk f
  | .mpop f => mpopOk f
  | .ld f => loadOk f false 3
  | .ldg f => loadOk f true 3
  | .ldsp f => loadOk f false 0
  | .st f => storeOk f false 3
  | .stg f => storeOk f true 3
  | .stsp f => storeOk f false 0
  | .prf f => prfOk f
  | .tld f | .tst f | .tlds f => coordAccessOk f false
  | .stsh f => coordAccessOk f true
  | .redst f => redstOk f
  | .thnd f => thndOk f
  | .aadd f | .amin f | .amax f | .aand f | .aor f | .axor f => atomOk f intTys false
  | .axchg f => atomOk f xchgTys false
  | .acas f => atomOk f xchgTys true
  | .afadd f => atomOk f (· = 0) false
  | .wait f => waitOk f
  | .nbinit f => nbinitOk f
  | .nbarv f | .nbwt f | .nbsync f => nbOk f
  | .waddr f => waddrOk f
  | .cpy f | .cpyo f => copyOk f false
  | .cpym f => copyOk f true
  | .cpyacc f => accCopyOk f false
  | .cpyacs f => accCopyOk f true
  | .dzjob f => dzjobOk f
  | .mma f | .mmaz f => mmaOk f
  | .accz f => acczOk f
  | .accrd f => accrdOk f
  | .accwr f => accwrOk f
  | .bra f => braOk f
  | .brm f => brmOk f
  | .call f => callOk f
  | .calli f => calliOk f
  | .ret f | .exit f | .rgn f | .join f => plainBOk f
  | .wset f => wsetOk f
  | .trap f | .brk f => codeBOk f
  | .lyrd f => layoutOk f (isV f.d)
  | .lypin f | .lyadv f => layoutOk f (isV f.d || isG f.d || isIntConst f.d)
  | .lyunp f => layoutOk f (isNone f.d)
  | .ovtld f => ovtldOk f
  | .tlbinv f => tlbinvOk f
  | .cmnt f => cmntOk f
  | .ambw f => ambwOk f
  | .jnlaunch f => jnOk f 0
  | .jnrst f => jnOk f 0
  | .jnrstStop f => jnOk f 1
  | .jnrstClose f => jnOk f 2
  | .jnst f => jnstOk f
  | .fput f => putGetOk true f
  | .fget f => putGetOk false f
  | .fsig f => fsigOk f
  | .pblk f => pblkOk f
  | .xpfx f => xpfxOk f
  | _ => false

/-- Whether the constructor is an event of the table (it has no encoding). -/
def isEvent : Instr → Bool
  | .fetchLineArrival .. | .pageWalkComplete .. | .regionCommit .. | .rollbackWindowExpiry ..
  | .lineHoldExpiry .. | .contextHalt .. | .trapRecordWrite .. | .cohortEnd .. | .launchCompletion ..
  | .launch .. | .resume .. | .abort .. | .memRd .. | .memWr .. | .droppedMessage .. | .regWr ..
  | .hdataWrite .. | .hpcloHpchiWrite .. | .tictlInvalidatePage .. | .tictlInvalidateAll ..
  | .tlbInvalidationComplete .. | .viEnable .. | .viDisable .. | .viddataWrite .. | .slotcmtWrite ..
  | .hbmFrameBoundary .. | .gscmtWrite .. | .gangSliceInstant .. | .cohortSave .. | .gangSwitchRestore ..
  | .gangSwitchOverrun .. | .ptpSyncLoss .. | .ptpSyncRestored .. | .waitEventRead .. | .waitEventRetry ..
  | .launchSelection .. | .launchPriorityAging .. | .cohortPlacement .. | .clusterPlacement ..
  | .copyUnitTransfer .. | .multicastDelivery .. | .multicastBoundExpiry .. | .copyCompletion ..
  | .dzJobEnd .. | .matrixInstructionCompletion .. | .coordinateAccessAtHome .. | .staleRejection ..
  | .redstHomeAdd .. | .epochEnd .. | .windowEnd .. | .pinMoveStart .. | .paverMoveInstall ..
  | .pinApply .. | .unpinApply .. | .adviceApply .. | .gets .. | .getm .. | .wbd .. | .evc .. | .fwds ..
  | .fwdm .. | .inv .. | .binv .. | .data .. | .datad .. | .ack .. | .cmp .. | .hsnp .. | .fill .. | .wrt ..
  | .l1inv .. | .own .. | .rcl .. | .rclack .. | .correctableError .. | .uncorrectableError ..
  | .agentFailure .. | .faultLeakPeriod .. | .spareRetirementComplete .. | .l2gmaskWrite ..
  | .l2GatingTransitionComplete .. | .junctionPlanComplete .. | .junctionPullServe ..
  | .junctionLegComplete .. | .junctionPullRefusal .. | .junctionPullRetry .. | .junctionPullTimeout ..
  | .fabricOperationAtTarget .. | .fsigWrite .. | .fabricAcknowledgement .. | .fabricRefusal ..
  | .fabricTimeout .. | .frameReceive .. | .frameAcknowledgement .. | .frameReplay .. | .keyChangeover ..
  | .cxlRequestTimeout .. | .keyselWrite .. | .keydataWrite .. | .keycmtWrite .. | .attnonceWrite ..
  | .attgoWrite .. | .attestationReportComplete .. | .resetctlWrite .. | .powerOn .. | .thermalTrip ..
  | .clockThrottle .. | .portUp .. | .powerLoss .. => true
  | _ => false

end Sys2Proof.Machine
end

