-- ==== Sys2Proof/Config.lean ====
section
/-!
DEFINITION. What an implementation fixes and the free values: every `opaque` constant here has no body, so no proof
can see its value and a statement holds whatever it is (log entries 2 to 4, 9 to
13, 71, 83).
-/

namespace Sys2Proof.Config

/-- Which of the agents that can move moves next (15 R369 gives no rule); applied to the tick. -/
opaque arbiter : Nat → Nat
/-- Cycles of the module time count that a step takes (06 R158; the manual gives no figure a program may rely on). -/
opaque cyclesOfStep : Nat → Nat
/-- A choice the manual leaves open, taken with the tick and a place in the step: which unit of a copy goes next
(10 R297), whether a translation uses a cached entry that a changed table entry has replaced (09 R250), whether a
tolerant page's line is read from memory (15 R375). -/
opaque choice : Nat → Nat → Nat
/-- Where a faithful FP32 result turns from one neighbour to the other (08 R227, R229, R490): function, encoding of the
neighbour nearer zero; an exact value whose place between the neighbours, in units of 2^-64, is at or above the cut
takes the other. So results are monotonic in the exact value, and nothing else is fixed. -/
opaque faithfulCut : Nat → Nat → Nat
/-- The device's own FP32 `sin` or `cos` value (08 R230, R490), used where it meets the bound. -/
opaque trigResult : Nat → Word → Word
/-- The set of an L2 slice in which a line lies (04 R96 gives no index), by line number. -/
opaque l2Index : Nat → Nat
/-- How many frames beyond one the receive buffer of a virtual lane holds (20 R447 gives no size). -/
opaque rxRoom : Nat
/-- Contents of MON, the monitor state of a region record (02 R49, 13 R347). -/
opaque monitorState : Nat → BitVec 256
/-- What a byte of a line reads as whose key is cleared (23 R487): number of resets, address. -/
opaque unreadableByte : Nat → Nat → BitVec 8
/-- Measurement words of the attestation report (23 R486): word index, RESETS. -/
opaque reportWord : Nat → Nat → Word
/-- Signature words of the attestation report (23 R486): word index, the words of bytes 0 to 415. -/
opaque reportSig : Nat → List Word → Word
/-- The random key of slot 0 that firmware loads (23 R487), by the tick of the boot. -/
opaque bootKey : Nat → List Word
/-- The die of an HBM row or of a die-link lane (18 Table 18-14 gives no numbering), by class and index. -/
opaque resourceDie : Nat → Nat → Nat
/-- Whether the firmware image's signature is good (23 R485), by number of resets. -/
opaque firmwareGood : Nat → Bool
/-- The management node of the signed configuration (23 R484). -/
opaque mgmtNode : Nat

end Sys2Proof.Config
end

