-- ==== Sys2Proof/Machine/State.lean ====
section
/-!
DEFINITION. The state of the module: every piece of state the spec names (INVENTORY.md, State), as plain data, and the
state right after reset. Objects that come and go (contexts, cohorts, launches, jobs) are lists keyed by number.
-/

namespace Sys2Proof.Machine

/-! ## A context -/

/-- A divergence-stack entry (07 R189). -/
structure DivEntry where
  jpc       : Word64
  depth     : Nat
  mask      : LaneMask
  epc       : Word64
  emask     : LaneMask
  fmt       : Word
  elsePhase : Bool
  deriving DecidableEq, Repr

/-- The split record of a group (07 R188); `lanesT` and `lanesF` are the lanes that the taken and the fall-through arm
hold (07 Table 7-6). -/
structure SplitRec where
  jpc    : Word64
  depth  : Nat
  fmt    : Word
  mask   : LaneMask
  lanesT : LaneMask
  lanesF : LaneMask
  deriving DecidableEq, Repr

/-- The state of a `pblk` prefix (07 R175, R178). -/
structure PblkState where
  left : Nat
  pat  : BitVec 8
  mask : LaneMask
  deriving DecidableEq, Repr

/-- The registers and stacks of a context that region entry records and a rollback restores (07 R198); the v registers
are in the frame. Masks m1 to m15, g registers and handles are sparse maps: an absent mask or g register holds zero,
an absent handle is empty (02 R37). Stacks have their top first. -/
structure CtxRegs where
  pc        : Word64
  m0        : LaneMask
  masks     : Amap LaneMask
  g         : Amap Word
  gpoison   : Amap (BitVec 2)
  handles   : Amap (BitVec 1024)
  fmt       : Word
  seed      : Word64
  randCnt   : Nat
  latch     : Option Word
  ovt       : Word
  rstack    : List (Amap Word64)
  dstack    : List DivEntry
  pblk      : Option PblkState
  xwords    : List (BitVec 28)
  pend      : BitVec 17
  arrph     : BitVec 17
  /-- written since the split: 256 + n for gn, 512 + k for hk, 600 and 601 for the seed halves (07 Table 7-6) -/
  wroteG    : List Nat
  /-- masks written whole since the split (07 Table 7-6) -/
  wroteM    : List Nat
  /-- executions of `rand` since the split, and whether a `wsr` ran since it (07 Table 7-6) -/
  randRuns  : Nat
  seedReset : Bool
  deriving DecidableEq, Repr

/-- The four outstanding-operation classes (07 Table 7-3). -/
inductive CntClass where
  | none | ld | st | cp | tl
  deriving DecidableEq, Repr

/-- What a write of memory goes by on a line: the class of the page (04 R96) and, on a tolerant page, the code of the
format stored (09 R286). -/
structure LineMark where
  line   : Nat
  pclass : Nat
  tol    : Option Nat
  deriving DecidableEq, Repr

/-- One element of a coordinate store: the record it goes through, its region coordinates, the place that they were
translated to (the band's key and index, the line's physical address, the element in it, the line's page) and the version
that translated them (09 R279), its bits. `part` is 1 for the transposed write of `stsh` (09 R278). -/
structure ElemStore where
  part  : Nat
  hrec  : BitVec 1024
  x     : Nat
  y     : Nat
  z     : Nat
  key   : Nat
  band  : Nat
  pa    : Nat
  ix    : Nat
  mark  : LineMark
  ver   : Word
  value : Nat
  deriving DecidableEq, Repr

/-- `lypin`, `lyunp`, `lyadv` of one lane (13 R360): kind 0, 1, 2; the band's key, its index in the region, the record
of the handle, operand X, and the contexts (both arms of one that has split, 07 R188) and the VI that gave it. -/
structure LayoutOp where
  kind   : Nat
  band   : Nat
  bandIx : Nat
  hrec   : BitVec 1024
  x      : Word
  ctxs   : List Nat
  vi     : Nat
  deriving DecidableEq, Repr

/-- An entry of the store buffer (09 R264): one store instruction. Memory cells are physical addresses, scratchpad
cells are offsets, in the order in which they are performed. `marks` go with the lines. -/
inductive StoreEntry where
  | mem (cells : List Host.Cell) (marks : List LineMark)
  | scratch (cells : List Host.Cell)
  | coord (elems : List ElemStore)
  | layout (ops : List LayoutOp)
  deriving DecidableEq, Repr

/-- What a copy job does (10 Table 10-1, R302, R316). -/
inductive JobKind where
  | linIn | linOut | boxIn | boxOut | accOutMem | accInMem | accOutSp | accInSp | dzSp | dzMem
  deriving DecidableEq, Repr

/-- A DZ job under way (10 R314 to R316): its card, the place in the stream, the output so far, its status, and the pieces
of the output that are not yet written: offset, length. -/
structure DzState where
  card   : BitVec 512
  pos    : Nat
  out    : List Byte
  status : Option Nat
  todo   : List (Nat × Nat)
  deriving DecidableEq, Repr

/-- A copy, accumulator copy or DZ job: every operand as taken at issue (10 R292). `owners` are the contexts in whose CP
count it is (07 R170, R188); `group` is the group that issued it. -/
structure Job where
  kind     : JobKind
  owners   : List Nat
  group    : Nat
  tag      : Nat
  vi       : Nat
  pc       : Word64
  so       : Nat
  addr     : Word64
  hrec     : BitVec 1024
  c0       : Nat
  c1       : Nat
  c2       : Nat
  cols     : Nat
  rows     : Nat
  len      : Nat
  accRow   : Nat
  cvt      : Nat
  ovt      : Word
  /-- destinations of a multicast: position, core, tag (05 R122); empty for a plain copy -/
  dests    : List (Nat × Nat × Nat)
  multi    : Bool
  bar      : Option Nat
  cw       : Option (Nat × Word)
  setSlot  : Option Nat
  core     : Nat
  /-- units of the payload not yet moved -/
  left     : List Nat
  /-- deliveries of a multicast under way: position, offset, bytes -/
  inflight : List (Nat × Nat × List Byte)
  /-- positions already found stale (10 R312) -/
  stale    : List Nat
  /-- positions of a multicast whose completion word is written (15 R372) -/
  cwDone   : List Nat
  /-- owners whose CP count an ENGINE_FAULT has cleared (10 R301) -/
  uncounted : List Nat
  /-- lines that the engine owns for the job: virtual and physical line (16 R389) -/
  owned    : List (Nat × Nat)
  dz       : Option DzState
  deriving DecidableEq, Repr

/-- Kind of an accumulator write (11 R331). -/
inductive AccKind where
  | mma | mmaz | accz | accwr
  deriving DecidableEq, Repr

/-- An accumulator write, with the register values read at issue (11 R325, R330): `a` and `b` hold the fragment words
of each lane, `as_` and `bs` the scale words. -/
structure AccOp where
  kind    : AccKind
  owners  : List Nat
  tag     : Nat
  row     : Nat
  shape   : Nat
  fmt     : Word
  neg     : Bool
  ovt     : Word
  a       : List (List Word)
  as_     : List (List Word)
  b       : List (List Word)
  bs      : List (List Word)
  setSlot : Option Nat
  deriving DecidableEq, Repr

/-- What a Junction instruction asks for (20 Table 20-11): 0 launch, 1 restart, 2 stop, 3 close. -/
structure JnOp where
  op   : Nat
  ctx  : Nat
  vi   : Nat
  card : Word64
  deriving DecidableEq, Repr

/-- The context just before a barrier operation: what it goes back to when the operation fails (10 R307). -/
structure Snap where
  regs    : CtxRegs
  v       : Amap Word
  vpoison : Amap (BitVec 2)
  deriving DecidableEq, Repr

/-- A held instruction or barrier operation of a region (07 R199, 10 R292, R307). -/
inductive Held where
  | job (j : Job)
  | acc (a : AccOp)
  | jn (j : JnOp)
  | barInit (k em eb : Nat) (before : Snap)
  | barArrive (k : Nat) (before : Snap)
  deriving DecidableEq, Repr

/-- What a region has to do at its commit, in program order (07 R200, 10 R292). -/
inductive Item where
  | store (en : StoreEntry)
  | held (h : Held)
  deriving DecidableEq, Repr

/-- An uncommitted region (07 R197 to R201). -/
structure Region where
  entry    : CtxRegs
  vold     : Amap Word
  vpold    : Amap (BitVec 2)
  /-- registers shadowed so far: n for vn, 256 + n for gn, 512 + k for hk, 600 and 601 for the seed halves -/
  shadows  : List Nat
  items    : List Item
  reads    : List Nat
  granules : List Nat
  writes   : List Nat
  nSt      : Nat
  nCp      : Nat
  nTl      : Nat
  ended    : Bool
  nonspec  : Bool
  holds    : Bool
  deriving DecidableEq, Repr

/-- The fields that a trap puts into its record (18 Tables 18-2 and 18-3). -/
structure TrapInfo where
  cause : Nat
  sub   : Nat
  lane  : Nat
  kind  : Nat
  level : Nat
  code  : Word
  addr  : Word64
  ipc   : Word64
  pc    : Word64
  deriving DecidableEq, Repr

/-- What a context is doing (07 Table 7-1). -/
inductive Status where
  | running
  /-- `nbsync`, an `nbwt` after a barrier operation of its own region, or a `wait` for operations that its own region holds
  has ended its region: its wait begins once the region has committed (07 R172; 10 R307) -/
  | barEnd
  /-- waits in `nbwt` or `nbsync` for barrier `k` to leave phase `p` (10 R306) -/
  | waitBar (k : Nat) (p : Bool)
  | parkedJoin
  | parkedWset (w : Nat)
  | halted (t : TrapInfo)
  | resuming (t : TrapInfo)
  deriving DecidableEq, Repr

/-- Which arm of a split a context is (07 R188). -/
inductive Arm where
  | whole | taken | fall
  deriving DecidableEq, Repr

/-- An issue context (07 R164). `group` is the key of its group; `live` its live lanes. -/
structure Ctx where
  r       : CtxRegs
  region  : Option Region
  status  : Status
  /-- a trap whose halt waits for the earlier part of the region (07 R202) -/
  fault   : Option TrapInfo
  arm     : Arm
  group   : Nat
  live    : LaneMask
  gen     : BitVec 12
  nLd     : Nat
  nSt     : Nat
  nCp     : Nat
  nTl     : Nat
  same    : Nat
  win     : Nat
  winOpen : Bool
  /-- what a committed region has still to do: stores not yet performed, operations not yet released (07 R200, R203) -/
  drain   : List Item
  /-- fetched line: its address and bits (06 R130, R136) -/
  ibuf    : Option (Nat × Line)
  /-- control arrived at the PC by a transfer: the TGT bit is still to be checked (06 R133) -/
  arrived : Bool
  /-- the slot of the trap record of a halted context (18 R423) -/
  recSlot : Option Nat
  /-- the barrier wait in which a halt met the context, taken up again at RESUME (10 R306) -/
  paused  : Option (Nat × Bool)
  /-- the barrier for which it waits has left the phase that it waits for (10 R306) -/
  woken   : Bool
  /-- a coordinate access that waits at the homes of its lines: the bands it goes to, each with the VERSION that
  translated it (09 R279, R280) -/
  carried : List (Nat × Word)
  /-- the core from which committed stores were handed to the L2 of its die (16 R402) -/
  handed  : Option Nat
  deriving DecidableEq, Repr

/-- A group (02 R30, 07 R173, R188, R196). -/
structure Group where
  core   : Nat
  frame  : Nat
  first  : Nat
  width  : Nat
  gid    : Word
  prod   : Bool
  slots  : BitVec 8
  split  : Option SplitRec
  deriving DecidableEq, Repr

/-- A group frame (05 R108 to R110): v register n of lane L has key 64 n + L. -/
structure Frame where
  core    : Nat
  phys    : Nat
  tag     : Nat
  no      : Nat
  regBase : Nat
  v       : Amap Word
  vpoison : Amap (BitVec 2)
  live    : LaneMask
  deriving DecidableEq, Repr

/-- A named barrier (10 Table 10-5). -/
structure Barrier where
  init   : Bool
  misuse : Bool
  phase  : Bool
  em     : Nat
  cm     : Nat
  eb     : Nat
  cb     : Nat
  deriving DecidableEq, Repr

/-- A cohort (05 R112 to R116, R121, R122). Its key modulo 2^32 is its generation tag; a multiple of 2^32 is added while an
older cohort of the same tag lives. -/
structure Cohort where
  launch  : Nat
  x       : Nat
  y       : Nat
  z       : Nat
  core    : Nat
  slot    : Nat
  spBase  : Nat
  accBase : Nat
  sp      : Amap Byte
  acc     : Amap Word
  accPoison : Amap Bool
  bars    : Amap Barrier
  sibs    : List (Nat × Nat)
  /-- key of the cluster barrier, for a launch with CLUSTER = 1 -/
  cluster : Option Nat
  saved   : Bool
  /-- to be saved at the gang switch under way (04 R102) -/
  saving  : Bool
  deriving DecidableEq, Repr

/-! ## Tollgate -/

/-- Launch states (04 Table 4-5); a launch that is DONE has left the list of launches. -/
inductive LaunchState where
  | queued | ready | dispatching | running
  deriving DecidableEq, Repr

/-- A launch (04 R85, R86, R91 to R95). Its key is its number of acceptance. -/
structure Launch where
  vi        : Nat
  queue     : Nat
  prio      : Nat
  serial    : Bool
  seq       : Word64
  pkt       : BitVec 2048
  st        : LaunchState
  satisfied : List Nat
  poisonSeen : List Nat
  boost     : Nat
  next      : Nat
  aborted   : Bool
  /-- the launch of its queue that was accepted before it (04 R91) -/
  prev      : Option Nat
  deriving DecidableEq, Repr

/-- A message from the device to a host (04 Table 4-1): node, bits. -/
structure OutMsg where
  node : Nat
  bits : BitVec 768
  deriving DecidableEq, Repr

/-- A trap record that waits to be written (18 R411, R415, R416). -/
structure PendingRec where
  vi     : Nat
  ctxid  : Word
  record : BitVec 2048
  second : Bool
  deriving DecidableEq, Repr

/-- A virtual interface (04 R89, 03 R78, 18 R412, R418, 20 R446). -/
structure Vi where
  en       : Bool
  gang     : Nat
  reshard  : Bool
  priv     : Bool
  gangNew  : Option Nat
  desc     : BitVec 512
  ovt      : Word
  peers    : Amap Word
  trapNext : Nat
  hsel     : Word
  hidx     : Word
  hrefused : Bool
  tiva     : Word64
  ticBusy  : Bool
  deriving DecidableEq, Repr

/-! ## Memory side -/

/-- A snoop-filter entry (16 Table 16-2); its key is the line number PA / 128. State: 1 S, 2 EM, 3 O. POISON and HOST are
read from the line itself. -/
structure SfEntry where
  st      : Nat
  owner   : Nat
  sharers : BitVec 8
  age     : Nat
  deriving DecidableEq, Repr

/-- State of a line in a die's L2 (16 Table 16-3). -/
inductive L2State where
  | m | o | e | s
  deriving DecidableEq, Repr

/-- On whose behalf a line is filled: the ways that it may take (04 R96), its eviction class (09 Table 9-6: 0 first to
evict, 1 as usual, 2 last to evict), and whether the L1 of a reading core keeps the data. -/
structure Fill where
  ways : BitVec 32
  rank : Nat
  l1   : Bool
  deriving DecidableEq, Repr

/-- An L2 line of a die with its sharer vector (16 Table 16-1), its set and way (04 R96) and its eviction class; its key
is line × 8 + die. -/
structure L2Line where
  st     : L2State
  agents : BitVec 44
  set    : Nat
  way    : Nat
  rank   : Nat
  deriving DecidableEq, Repr

/-- What a home is asked for (16 R384): a die's GetS or GetM with the fill it makes, a die's WbD (dirty) or EvC, a host's
snoop. -/
inductive HomeReq where
  | get (die : Nat) (getm : Bool) (fill : Fill)
  | evict (die : Nat) (dirty : Bool)
  | snoop (own : Bool)
  deriving DecidableEq, Repr

/-- A transaction that a home has in service for a line (16 R384): the request, whether it waits for room in the snoop
filter, the dies whose Ack is awaited, whether the requester has what it asked for, and the requests that wait, in order of
arrival. -/
structure Txn where
  cur   : HomeReq
  room  : Bool
  acks  : List Nat
  data  : Bool
  queue : List HomeReq
  deriving DecidableEq, Repr

/-- The answer of a proxy home to a host's snoop (16 R391): the line, whether the host takes it, and its bytes when the
device held it modified. -/
structure SnoopRsp where
  line : Nat
  own  : Bool
  data : Option (List Byte)
  deriving DecidableEq, Repr

/-- A cached translation (09 R250): core, ASID, page number at its level, entry. -/
structure TlbEntry where
  core  : Nat
  asid  : Nat
  level : Nat
  page  : Nat
  pte   : Word64
  deriving DecidableEq, Repr

/-- An invalidation under way (18 R420, R435): its VI when it came through TICTL, else the context that waits. -/
structure TlbInv where
  asid  : Nat
  page  : Option Word64
  vi    : Option Nat
  ctx   : Option Nat
  deriving DecidableEq, Repr

/-- A move of a band, under way or waiting for an engine (13 R350, R351): the new order, the state after it, whether it is
a pin move, the geometry and VI on whose behalf it is made (02 R48, 13 R353), the band's index, the contexts of a pin, the
physical lines of the band's data as they were translated before the band entered MOVING (13 R353). -/
structure MoveJob where
  order  : BitVec 4
  target : Nat
  pin    : Bool
  geom   : BitVec 1024
  vi     : Nat
  bandIx : Nat
  ctxs   : List Nat
  lines  : List Nat
  /-- the reversal flag once the move is made (13 R355) -/
  flag   : Bool
  deriving DecidableEq, Repr

/-- A band's monitor (13 R343 to R361); its key is the physical address of the band's region record / 64.
State: 0 FREE, 1 MOVING, 2 SETTLED, 3 PINNED. -/
structure Band where
  order   : BitVec 4
  prev    : BitVec 4
  st      : Nat
  flips   : Nat
  version : Word
  epoch   : Nat
  hyst    : Nat
  epcnt   : Nat
  wincnt  : Nat
  advord  : BitVec 4
  advwt   : Nat
  advign  : Nat
  sums    : Amap Nat
  flag    : Bool
  /-- geometry and VI of the band access that may end the epoch (02 R48, 13 R353) -/
  geom    : BitVec 1024
  geomVi  : Nat
  bandIx  : Nat
  epochDue  : Bool
  windowDue : Bool
  move    : Option MoveJob
  /-- a pin move that waits for a Paver engine (13 R351) -/
  pinWait : Option MoveJob
  /-- operations of `lypin`, `lyunp`, `lyadv` that wait to be applied, oldest first -/
  queue   : List LayoutOp
  deriving DecidableEq, Repr

/-- Adds of one `redst` that are under way (09 R270): physical address, value and the mark of the line, in lane order. -/
structure RedOp where
  owners : List Nat
  tag  : Nat
  ovt  : Word
  adds : List (Nat × Word × List LineMark)
  deriving DecidableEq, Repr

/-! ## Fabric and Junction -/

/-- A released fabric operation (20 R452 to R456). `op`: 0 fput, 1 fget, 2 fsig, 3 fsig.add. -/
structure FabOp where
  op     : Nat
  owners : List Nat
  tag    : Nat
  vi     : Nat
  pc     : Word64
  remote : Word64
  node   : Word
  scratch : Bool
  so     : Nat
  addr   : Word64
  len    : Nat
  value  : Word64
  bar    : Option Nat
  cw     : Option (Nat × Word)
  sent   : Bool
  /-- it has faulted: a later `fsig` to its node still waits for it (20 R453) -/
  failed : Bool
  /-- lines that the engine owns for its local writes: virtual and physical line (16 R389) -/
  owned  : List (Nat × Nat)
  /-- local units not yet moved, and the bytes of units that are to be sent or have arrived -/
  left   : List Nat
  data   : Amap (List Byte)
  deriving DecidableEq, Repr

/-- A leg of a Junction plan (20 R462): ranks, the node word of the source, a box of one plane in global coordinates,
and the origins of the two ranks' boxes. -/
structure Leg where
  src  : Nat
  dst  : Nat
  node : Word
  x0   : Nat
  y0   : Nat
  z0   : Nat
  ext0 : Nat
  ext1 : Nat
  sOrg : Nat × Nat × Nat
  dOrg : Nat × Nat × Nat
  deriving DecidableEq, Repr

/-- A Junction transfer on this chip (20 Table 20-11, Table 20-9). State: 0 IDLE, 1 PLANNING, 2 RUNNING, 3 DONE,
4 STOPPED, 5 FAULT. -/
structure Xfer where
  vi       : Nat
  /-- die whose Junction runs it -/
  die      : Nat
  card     : BitVec 2048
  ms       : Word64
  st       : Nat
  cause    : Nat
  legs     : List Leg
  srcRec   : BitVec 1024
  dstRec   : BitVec 1024
  srank    : Option Nat
  drank    : Option Nat
  fleg     : Word
  restarts : Nat
  /-- being planned again after `jnrst` -/
  again    : Bool
  /-- incoming legs whose bit is set, and legs in flight -/
  marked   : List Nat
  flying   : List Nat
  /-- the milestone record could not be written (20 R466) -/
  noRec    : Bool
  /-- the header of PLANNING is written (20 R465; 21 R471) -/
  hdr      : Bool
  /-- bits of legs that `jnlaunch` has still to clear: as many as the plan before it had, and those of its own plan as soon
  as it is known (20 R465) -/
  clear    : Option Nat
  /-- lines of scale bytes that the engine owns for a leg: leg, virtual and physical line (16 R389) -/
  owned    : List (Nat × Nat × Nat)
  deriving DecidableEq, Repr

/-- A message of this module to another device (20 R452, R464): kind 0 write, 1 read, 2 signal, 3 add, 4 pull,
5 pull answer, 6 operation answer, 7 refusal. -/
structure FabOut where
  node    : Nat
  vi      : Nat
  kind    : Nat
  tag     : Nat
  addr    : Word64
  len     : Nat
  payload : List Byte
  deriving DecidableEq, Repr

/-- A Finien Link port (20 R447 to R450). Counters in the order of Table 20-3. -/
structure Port where
  up       : Bool
  longHaul : Bool
  lhBase   : Word64
  keyCur   : List Word
  keyNext  : List Word
  authRun  : Nat
  rxSeq    : Amap Nat
  txSeq    : Amap Nat
  replay   : List LinkFrame
  /-- frames of a long-haul port in its window of HBM: lane, number, offset, length (20 R449) -/
  window   : List (Nat × Nat × Nat × Nat)
  /-- the next free offset of the window -/
  winNext  : Nat
  /-- frames received and not yet delivered, lanes paused by this receiver, acknowledgements sent: lane, number (20 R447) -/
  rxBuf    : List LinkFrame
  paused   : List Nat
  acks     : List (Nat × Nat)
  counters : Amap Nat
  laneFaults : Amap Nat
  lanesLost : Nat
  delivered : List LinkFrame
  deriving DecidableEq, Repr

/-! ## Module -/

/-- An Amber event (18 Table 18-15). -/
structure AmberEvent where
  seq    : Nat
  time   : Nat
  resets : Nat
  code   : Nat
  die    : Nat
  unit   : Nat
  arg0   : Word64
  arg1   : Word64
  arg2   : Word64
  arg3   : Word64
  deriving DecidableEq, Repr

/-- A gang schedule (04 R100): entries (gang, slice in µs), anchor T0. -/
structure Schedule where
  entries : List (Nat × Nat)
  t0      : Word64
  deriving DecidableEq, Repr

/-- Management registers with no behaviour of their own, and the shadow tables (23 Table 23-1). -/
structure Mgmt where
  nodeId   : Word
  visel    : Word
  vididx   : Word
  slotidx  : Word
  slotShadow : Amap Word
  gsidx    : Word
  gsShadow : Amap Word
  gscount  : Word
  t0lo     : Word
  t0hi     : Word
  keysel   : Word
  keyWords : List Word
  ambsel   : Word
  cntsel   : Word
  savelo   : Word
  savehi   : Word
  savesize : Word
  portsel  : Word
  pwrlim   : Word
  temp     : Word
  l2gsel   : Word
  attidx   : Word
  nonce    : Amap Word
  /-- the next of the twelve nonce words to be written -/
  nonceIx  : Nat
  report   : List Word
  deriving DecidableEq, Repr

/-- The state of the module. -/
structure State where
  -- the model's own fields
  tick     : Nat
  cur      : Nat
  agenda   : List Instr
  nextId   : Nat
  -- time and module status
  time     : Nat
  powered  : Bool
  bootOk   : Bool
  syncLoss : Bool
  throttle : Bool
  attBusy  : Bool
  clockMhz : Nat
  resets   : Nat
  -- work
  ctxs     : Amap Ctx
  groups   : Amap Group
  frames   : Amap Frame
  cohorts  : Amap Cohort
  clusters : Amap Barrier
  gens     : Amap (BitVec 12)
  launches : Amap Launch
  /-- the launch that each queue accepted last: 16 × VI + queue (04 R91) -/
  accepted : Amap Nat
  lastSel  : Nat
  diePtr   : Nat
  genCtr   : BitVec 32
  outbox   : List OutMsg
  recs     : Amap PendingRec
  vis      : Amap Vi
  -- memory, translation, coherence
  mem      : List Host.Cell
  dirty    : Amap Byte
  poison   : List Nat
  tolFmt   : Amap (Option Nat)
  /-- latest values of bytes whose write-back a tolerance has dropped (09 R286; 15 R375) -/
  exact    : Amap Byte
  /-- L2 copies (line × 8 + die) that hold those values (15 R375) -/
  keptBy   : List Nat
  /-- key slot under which a line of HBM or CXL memory was last written (23 R487) -/
  lineKey  : Amap Nat
  /-- lines that stay unreadable until this key is installed again: slot and key words (23 R487) -/
  sealed   : Amap (Nat × List Word)
  sf       : Amap SfEntry
  sfAge    : Nat
  l2       : Amap L2Line
  txns     : Amap Txn
  engOwn   : List (Nat × Nat × Nat)
  /-- lines that the host holds in its caches after a snoop that took them (16 R391, R394) -/
  hostOwn  : List Nat
  snoopRsps : List SnoopRsp
  l2gmask  : Amap (BitVec 16)
  l2gPend  : Amap (BitVec 16)
  tlb      : List TlbEntry
  tlbInvs  : Amap TlbInv
  boc      : Amap (BitVec 4 × Word)
  bands    : Amap Band
  -- engines
  jobs     : Amap Job
  accQ     : Amap (List AccOp)
  redsts   : Amap RedOp
  fabs     : Amap FabOp
  xfers    : Amap Xfer
  fabOut   : List FabOut
  /-- frames of messages that wait for a port that carries traffic (20 R448); `outbox` and `fabOut` list every message handed
  to the ports, in order -/
  unsent   : List (List Byte)
  -- gangs, slot table
  sched    : Schedule
  /-- PTP time, in nanoseconds, up to which slice instants have passed (04 R100, R101) -/
  ptp      : Nat
  /-- schedules written that have not taken effect, oldest first (04 R100) -/
  pendScheds : List Schedule
  runGang  : Nat
  switching : Option Nat
  /-- VIs that ran when the switch under way began (04 R102) -/
  leaving  : List Nat
  slotTab  : Amap (BitVec 3)
  slotPend : Option (Amap (BitVec 3))
  -- management
  mgmt     : Mgmt
  keys     : Amap (List Word)
  ports    : Amap Port
  -- errors
  amber    : List AmberEvent
  amberSeq : Nat
  faultCnt : List (Resource × Nat)
  retired  : List Resource
  retiring : List Resource
  spares   : Amap Nat
  discards : Amap Nat
  msgDrop  : Nat
  deriving DecidableEq, Repr

/-! ## Reset -/

/-- The reset slot table (04 R98): class of slot i. -/
def resetSlot (i : Nat) : BitVec 3 :=
  match i % 16 with
  | 3 => 2
  | 7 => 1
  | 15 => 4
  | 1 | 5 | 11 => 3
  | _ => 0

/-- The slot table in force after reset; an absent slot is demand (04 R98). -/
def resetSlots : Amap (BitVec 3) :=
  ((List.range 64).map (fun i => (i, resetSlot i))).filter (fun p => p.2 ≠ 0)

/-- The eight words of a slot table: entry j of word k at [3j+2:3j] (23 Table 23-1). -/
def slotWords (t : Nat → BitVec 3) : Amap Word :=
  (List.range 8).map (fun k =>
    (k, (List.range 8).foldl (fun acc j => acc ||| ((t (8 * k + j)).setWidth 32 <<< (3 * j))) (0 : Word)))

/-- A VI after reset (04 R89, R106; 03 R78). -/
def Vi.reset : Vi :=
  { en := false, gang := 0, reshard := false, priv := false, gangNew := none, desc := 0, ovt := 0x00155555#32,
    peers := [], trapNext := 0, hsel := 0, hidx := 0, hrefused := false, tiva := 0, ticBusy := false }

/-- A port after reset. -/
def Port.reset : Port :=
  { up := false, longHaul := false, lhBase := 0, keyCur := [], keyNext := [], authRun := 0,
    rxSeq := [], txSeq := [], replay := [], window := [], winNext := 0, rxBuf := [], paused := [], acks := [],
    counters := [], laneFaults := [], lanesLost := 0, delivered := [] }

/-- Management registers after reset (23 Table 23-1; log entry 7). -/
def Mgmt.reset : Mgmt :=
  { nodeId := 0, visel := 0, vididx := 0, slotidx := 0, slotShadow := slotWords resetSlot, gsidx := 0,
    gsShadow := [(0, 0xF4240000#32)], gscount := 1, t0lo := 0, t0hi := 0, keysel := 0, keyWords := [], ambsel := 0, cntsel := 0,
    savelo := 0, savehi := 0, savesize := 0, portsel := 0, pwrlim := 3600, temp := 40, l2gsel := 0, attidx := 0,
    nonce := [], nonceIx := 0, report := [] }

/-- The gang schedule after reset (04 R106). -/
def Schedule.reset : Schedule := { entries := [(0, 1000000)], t0 := 0 }

/-- The module right after reset (23 R488; values the spec does not give are those of log entries 1 to 8). -/
def State.reset : State :=
  { tick := 0, cur := 0, agenda := [], nextId := 0,
    time := 0, powered := true, bootOk := true, syncLoss := false, throttle := false, attBusy := false,
    clockMhz := 600, resets := 1,
    ctxs := [], groups := [], frames := [], cohorts := [], clusters := [], gens := [], launches := [], accepted := [],
    lastSel := 4095, diePtr := 0, genCtr := 0, outbox := [], recs := [], vis := [],
    mem := [], dirty := [], poison := [], tolFmt := [], exact := [], keptBy := [], lineKey := [], sealed := [],
    sf := [], sfAge := 0, l2 := [], txns := [], engOwn := [], hostOwn := [], snoopRsps := [],
    l2gmask := [], l2gPend := [], tlb := [], tlbInvs := [], boc := [], bands := [],
    jobs := [], accQ := [], redsts := [], fabs := [], xfers := [], fabOut := [], unsent := [],
    sched := Schedule.reset, ptp := 0, pendScheds := [], runGang := 0, switching := none, leaving := [],
    slotTab := resetSlots, slotPend := none,
    mgmt := Mgmt.reset, keys := [(0, Config.bootKey 0)], ports := [],
    amber := [{ seq := 0, time := 0, resets := 1, code := 0x0C, die := Config.choice 0 9000 % 8, unit := 0x1FF,
                arg0 := BitVec.ofNat 64 (Config.choice 0 9001), arg1 := 0, arg2 := 0, arg3 := 0 }],
    amberSeq := 1, faultCnt := [], retired := [], retiring := [], spares := [], discards := [],
    msgDrop := 0 }

/-! ## Why a step can stop -/

/-- Faults of the model. Every trap of the spec is a next state, not a fault. -/
inductive Fault where
  /-- Raised by the meaning of an instruction of a context when `cur` names no context: no such step exists on the
  hardware. Safe. -/
  | noContext
  deriving DecidableEq, Repr

/-- Refusals of the model. -/
inductive Refusal where
  /-- Raised by an arm of `exec` whose instruction has no meaning yet. Safe. -/
  | notModelled (mnemonic : String)
  deriving DecidableEq, Repr

end Sys2Proof.Machine
end

