-- ==== Sys2Proof/Machine/Store.lean ====
section
/-!
DEFINITION. Sparse maps and byte memory: the one home of look-up, update and canonical form; little-endian values
(00 R3); the coherent memory of the module (16 R385): the bytes modified in caches lie over the bytes in memory.
-/

namespace Sys2Proof.Machine

/-! ## Sparse maps -/

/-- The entry at key `k`. -/
def aget {α : Type} : Amap α → Nat → Option α
  | [], _ => none
  | (j, v) :: r, k => if k = j then some v else aget r k

/-- The map with entry `v` at key `k`. -/
def aput {α : Type} : Amap α → Nat → α → Amap α
  | [], k, v => [(k, v)]
  | (j, w) :: r, k, v =>
    if k < j then (k, v) :: (j, w) :: r
    else if k = j then (k, v) :: r
    else (j, w) :: aput r k v

/-- The map without an entry at key `k`. -/
def aerase {α : Type} : Amap α → Nat → Amap α
  | [], _ => []
  | (j, w) :: r, k => if k = j then aerase r k else (j, w) :: aerase r k

/-- The value at key `k` in a map whose absent entries read as `d`. -/
def agetD {α : Type} (m : Amap α) (d : α) (k : Nat) : α := (aget m k).getD d

/-- Set the value at `k` where absent entries read as `d`: the value `d` is never listed. -/
def asetD {α : Type} [DecidableEq α] (m : Amap α) (d : α) (k : Nat) (v : α) : Amap α :=
  if v = d then aerase m k else aput m k v

/-- Change the entry at `k` if there is one. -/
def amod {α : Type} (m : Amap α) (k : Nat) (f : α → α) : Amap α :=
  match aget m k with
  | some v => aput m k (f v)
  | none => m

/-- Keys strictly rising: the canonical form of a sparse map. -/
def arising {α : Type} : Amap α → Bool
  | [] => true
  | [_] => true
  | (a, _) :: (b, w) :: r => a < b && arising ((b, w) :: r)

/-- No listed entry equals the value of an absent one. -/
def aclean {α : Type} [DecidableEq α] (m : Amap α) (d : α) : Bool := m.all (fun p => !(p.2 = d))

/-! ## Little-endian values -/

/-- The number that a list of bytes holds, lowest byte first (00 R3). -/
def leNat : List Byte → Nat
  | [] => 0
  | b :: r => b.toNat + 256 * leNat r

/-- The `n` low bytes of a number, lowest first. -/
def natLe : Nat → Nat → List Byte
  | 0, _ => []
  | n + 1, v => BitVec.ofNat 8 v :: natLe n (v / 256)

/-! ## Memory -/

/-- The memory that nothing has written reads as zero (log entry 1). -/
def memDefault : Byte := 0

/-- The canonical form of memory: addresses strictly rising, no listed byte zero. -/
def memWf (m : List Host.Cell) : Bool := arising m && aclean m memDefault

/-- A byte in memory; what a line holds under a cleared key is open (23 R487). -/
def memByte (s : State) (pa : Nat) : Byte :=
  if (aget s.sealed (pa / 128)).isSome then Config.unreadableByte s.resets pa else agetD s.mem memDefault pa

/-- The latest value of a byte of memory: a byte modified in a cache, else the byte in memory. -/
def readByte (s : State) (pa : Nat) : Byte :=
  match aget s.dirty pa with
  | some b => b
  | none => memByte s pa

/-- Write one byte: it is modified in a cache until its line is written back. -/
def writeByte (s : State) (pa : Nat) (b : Byte) : State :=
  { s with dirty := aput s.dirty pa b, exact := aerase s.exact pa }

/-- The latest value written to a byte, also where a tolerance has dropped its write-back (15 R375). -/
def exactByte (s : State) (pa : Nat) : Byte := (aget s.exact pa).getD (readByte s pa)

/-- The word of the latest values written to its bytes: what a read-modify-write reads (15 R375). -/
def exactWord (s : State) (pa : Nat) : Word := BitVec.ofNat 32 (leNat ((List.range 4).map (fun k => exactByte s (pa + k))))

/-- `n` bytes from `pa` upward. -/
def readBytes (s : State) (pa : Nat) : Nat → List Byte
  | 0 => []
  | n + 1 => readByte s pa :: readBytes s (pa + 1) n

/-- Write bytes from `pa` upward. -/
def writeBytes (s : State) (pa : Nat) : List Byte → State
  | [] => s
  | b :: r => writeBytes (writeByte s pa b) (pa + 1) r

/-- Write cells in order: a later cell of the same address remains (09 R258). -/
def writeCells (s : State) : List Host.Cell → State
  | [] => s
  | (a, b) :: r => writeCells (writeByte s a b) r

/-- The number of `n` bytes at `pa`. -/
def readNat (s : State) (pa n : Nat) : Nat := leNat (readBytes s pa n)
def readWord (s : State) (pa : Nat) : Word := BitVec.ofNat 32 (readNat s pa 4)
def readWord64 (s : State) (pa : Nat) : Word64 := BitVec.ofNat 64 (readNat s pa 8)
def writeNat (s : State) (pa n v : Nat) : State := writeBytes s pa (natLe n v)

/-- The line of a physical address: 128 bytes (16 R382). -/
def lineOf (pa : Nat) : Nat := pa / 128
def isPoisoned (s : State) (line : Nat) : Bool := s.poison.contains line
def setPoison (s : State) (line : Nat) : State :=
  if s.poison.contains line then s else { s with poison := line :: s.poison }
def clearPoison (s : State) (line : Nat) : State := { s with poison := s.poison.filter (· ≠ line) }
/-- Some line of `n` bytes from `pa` is poisoned. -/
def anyPoison (s : State) (pa n : Nat) : Bool :=
  s.poison.any (fun l => lineOf pa ≤ l && l ≤ lineOf (pa + n - 1) && 0 < n)

/-- The bytes of a line that are modified in a cache. -/
def dirtyOf (s : State) (line : Nat) : Amap Byte := s.dirty.filter (fun p => lineOf p.1 = line)

/-- A line under a cleared key is written back: it is encrypted with the key that its slot holds now (23 R487). -/
def rekeyLine (s : State) (line : Nat) : State :=
  match aget s.sealed line with
  | some p => if (dirtyOf s line).isEmpty then s
    else { s with sealed := aerase s.sealed line, lineKey := aput s.lineKey line p.1 }
  | none => s

/-- Move the modified bytes of one line into memory (16 R387, WbD). -/
def writeBackLine (s : State) (line : Nat) : State :=
  { rekeyLine s line with
    mem := (dirtyOf s line).foldl (fun m p => asetD m memDefault p.1 p.2) s.mem
    dirty := s.dirty.filter (fun p => lineOf p.1 ≠ line) }

/-- A free choice below `n` (the value itself is never chosen by the model). -/
def free (s : State) (place n : Nat) : Nat := if n ≤ 1 then 0 else Config.choice s.tick place % n

/-- The first `n` elements whose index is `k`, removed: the element and the rest. -/
def pickAt {α : Type} : List α → Nat → Option (α × List α)
  | [], _ => none
  | a :: r, 0 => some (a, r)
  | a :: r, k + 1 => (pickAt r k).map (fun p => (p.1, a :: p.2))

/-- Lanes of a mask, ascending. -/
def lanesOf (m : LaneMask) : List Nat := (List.range 64).filter (fun l => m.getLsbD l)

/-- The mask of `w` lanes from `first`. -/
def laneWindow (first w : Nat) : LaneMask :=
  ((List.range 64).filter (fun l => first ≤ l && l < first + w)).foldl
    (fun m l => m ||| (1#64 <<< l)) 0

/-- Set or clear one bit of a mask. -/
def setBit (m : LaneMask) (l : Nat) (b : Bool) : LaneMask :=
  if b then m ||| (1#64 <<< l) else m &&& ~~~(1#64 <<< l)

/-- Add an event to the agenda. -/
def later (s : State) (i : Instr) : State := { s with agenda := s.agenda ++ [i] }
/-- Put an event before the others: a message that has to wait keeps its place (04 R88). -/
def sooner (s : State) (i : Instr) : State := { s with agenda := i :: s.agenda }
/-- Add an event unless it is there already. -/
def laterOnce (s : State) (i : Instr) : State := if s.agenda.contains i then s else later s i
/-- A fresh number for a new object. -/
def fresh (s : State) : Nat × State := (s.nextId, { s with nextId := s.nextId + 1 })

/-- Write an event of the Amber record: the newest 4,096 are kept (18 R431, R432). -/
def amber (s : State) (code die unit_ : Nat) (a0 a1 a2 a3 : Nat) : State :=
  let e : AmberEvent :=
    { seq := s.amberSeq, time := s.time, resets := Nat.min s.resets 0xFFFF, code := code, die := die, unit := unit_,
      arg0 := BitVec.ofNat 64 a0, arg1 := BitVec.ofNat 64 a1, arg2 := BitVec.ofNat 64 a2,
      arg3 := BitVec.ofNat 64 a3 }
  { s with amber := (e :: s.amber).take 4096, amberSeq := s.amberSeq + 1 }

/-- Two 32-bit items of one argument (18 R432). -/
def two32 (hi lo : Nat) : Nat := (hi % 2 ^ 32) * 2 ^ 32 + lo % 2 ^ 32

/-- A line under a cleared key is written again: what was unreadable in it stays as it reads. -/
def unsealLine (s : State) (line : Nat) : State :=
  if (aget s.sealed line).isSome then
    { s with mem := (List.range 128).foldl (fun m k => asetD m memDefault (128 * line + k) (memByte s (128 * line + k))) s.mem,
             sealed := aerase s.sealed line }
  else s

/-- The size of a replay window (20 R449). -/
def windowBytes : Nat := 2 ^ 28

/-- Bytes of a port's replay window in HBM, which no VI maps: they are written under key 0 (20 R449; 23 R487). -/
def writeWindow (s : State) (base off : Nat) (bytes : List Byte) : State :=
  let cells := (List.range bytes.length).map (fun k => (base + (off + k) % windowBytes, bytes.getD k 0))
  let s := cells.foldl (fun s c => { unsealLine s (lineOf c.1) with lineKey := aput s.lineKey (lineOf c.1) 0 }) s
  { s with mem := cells.foldl (fun m c => asetD m memDefault c.1 c.2) s.mem }

/-- The port carries traffic: it is up and has a key (20 R448). -/
def carries (p : Port) : Bool := p.up && !p.keyCur.isEmpty

/-- A port keeps a frame until it is acknowledged: in its replay buffer, or on a long-haul port in its window of HBM (20
R447, R449). -/
def keepFrame (s : State) (n : Nat) (p : Port) (f : LinkFrame) : State :=
  if p.longHaul then
    let p := { p with window := p.window ++ [(f.lane, f.seq, p.winNext, f.payload.length)]
                      winNext := (p.winNext + f.payload.length) % windowBytes }
    writeWindow { s with ports := aput s.ports n p } p.lhBase.toNat
      ((p.winNext + windowBytes - f.payload.length) % windowBytes) f.payload
  else { s with ports := aput s.ports n { p with replay := p.replay ++ [f] } }

/-- Traffic leaves as a frame on some port that carries traffic; which port and lane is open. While there is none, the frame
waits (20 R447, R448). -/
def frameOut (s : State) (payload : List Byte) : State :=
  let ps := s.ports.filter (fun p => carries p.2)
  match ps[free s 7000 ps.length]? with
  | none => { s with unsent := s.unsent ++ [payload] }
  | some (n, p) =>
    let lane := free s 7001 8
    let seq := agetD p.txSeq 0 lane
    keepFrame s n { p with txSeq := aput p.txSeq lane (seq + 1) } { lane := lane, seq := seq, authOk := true, payload := payload }

/-- A port has begun to carry traffic: the frames that waited leave. -/
def sendUnsent (s : State) : State := s.unsent.foldl frameOut { s with unsent := [] }

/-- The bytes of a message to a host: MEM_RSP is 768 bits long, the others are 256 (04 R107). -/
def messageBytes (bits : BitVec 768) : List Byte :=
  natLe (if bits.extractLsb' 0 8 = 0x0C then 96 else 32) bits.toNat

/-- Send a message to a node (04 R83). -/
def send (s : State) (node : Nat) (bits : BitVec 768) : State :=
  frameOut { s with outbox := s.outbox ++ [{ node := node, bits := bits }] } (messageBytes bits)

/-- Send a message to another device (20 R452, R464). -/
def sendOut (s : State) (m : FabOut) : State := frameOut { s with fabOut := s.fabOut ++ [m] } m.payload

/-- Field [lo + n - 1 : lo] of a message, as a number. -/
def msgField (m : HostMsg) (lo n : Nat) : Nat := (m.bits.toNat >>> lo) % 2 ^ n

/-- Place a number at bit `lo` of a record. -/
def at_ (w lo v : Nat) : BitVec w := BitVec.ofNat w (v <<< lo)

end Sys2Proof.Machine
end

