-- ==== Sys2Proof/Machine/Numeric.lean ====
section
/-!
DEFINITION. The element formats as exact numbers, and the one rounding into each format (03 R57 to R81).
-/

namespace Sys2Proof.Machine

/-- An exact value: a NaN (or NaR), an infinity, or ± m × 2^e. -/
inductive Num where
  | nan
  | inf (neg : Bool)
  | fin (neg : Bool) (m : Nat) (e : Int)
  deriving DecidableEq, Repr

/-! ## Formats -/

/-- Precision in bits of an IEEE format (03 Table 3-2). -/
def prec (f : Nat) : Nat := match f with | 1 => 8 | 2 => 11 | _ => 24
/-- Exponent of the unit of the subnormals. -/
def qmin (f : Nat) : Int := match f with | 1 => -133 | 2 => -24 | _ => -149
/-- Encoding of +∞. -/
def infBits (f : Nat) : Nat := match f with | 1 => 0x7F80 | 2 => 0x7C00 | _ => 0x7F800000
/-- The canonical NaN (03 R62). -/
def nanBits (f : Nat) : Nat := match f with | 1 => 0x7FC0 | 2 => 0x7E00 | _ => 0x7FC00000
def signBit (f : Nat) : Nat := match f with | 1 => 0x8000 | 2 => 0x8000 | _ => 0x80000000
/-- 1.0. -/
def oneBits (f : Nat) : Nat := match f with | 1 => 0x3F80 | 2 => 0x3C00 | _ => 0x3F800000

/-- Element width in bits of a format in a register container (03 R58): 32, 16 or 8. -/
def elemBits (f : Nat) : Nat :=
  if f = 1 || f = 2 || f = 7 || f = 8 then 16 else if f = 3 || f = 4 || f = 5 || f = 6 then 8 else 32
/-- Containers of a 32-bit register (08 R207). -/
def nc (f : Nat) : Nat := 32 / elemBits f
def fmtSigned (f : Nat) : Bool := f = 5 || f = 7 || f = 9
def fmtInt (f : Nat) : Bool := 5 ≤ f && f ≤ 10
def fmtIeee (f : Nat) : Bool := f ≤ 2
def fmtT (f : Nat) : Bool := f = 3 || f = 4

/-! ## Decoding -/

def powI (m : Nat) (e : Int) : Nat := m * 2 ^ e.toNat

/-- Value of an IEEE encoding (03 R60). -/
def ieeeVal (f bits : Nat) : Num :=
  let neg := signBit f ≤ bits % (2 * signBit f)
  let mag := bits % signBit f
  if mag > infBits f then .nan
  else if mag = infBits f then .inf neg
  else
    let p := prec f
    let ex := mag / 2 ^ (p - 1)
    let fr := mag % 2 ^ (p - 1)
    if ex = 0 then .fin neg fr (qmin f) else .fin neg (fr + 2 ^ (p - 1)) (qmin f + (ex : Int) - 1)

/-- Length of the run of bits equal to `b` from bit `i - 1` of `c` downward. -/
def runLen (c : Nat) (b : Bool) : Nat → Nat
  | 0 => 0
  | i + 1 => if c.testBit i = b then 1 + runLen c b i else 0

/-- Magnitude of a T8 code in units of 2^-12, or of a T6 code in units of 2^-4 (03 R66). -/
def tMag (f c : Nat) : Nat :=
  let w := if f = 3 then 7 else 5
  if c = 0 then 0
  else
    let b := c.testBit (w - 1)
    let k := runLen c b w
    let r : Int := if b then (k : Int) - 1 else -(k : Int)
    let rest := w - k - 1
    if f = 3 then
      let e := if rest ≥ 1 then (c / 2 ^ (rest - 1)) % 2 else 0
      let nf := rest - 1
      let fr := if rest ≥ 1 then c % 2 ^ nf else 0
      ((2 ^ nf + fr) * 2 ^ (2 * r + e + 12).toNat) / 2 ^ nf
    else
      let nf := rest
      let fr := c % 2 ^ nf
      ((2 ^ nf + fr) * 2 ^ (r + 4).toNat) / 2 ^ nf

/-- Exponent of the unit of `tMag`. -/
def tUnit (f : Nat) : Int := if f = 3 then -12 else -4
/-- The sign bit of a T code. -/
def tSign (f : Nat) : Nat := if f = 3 then 0x80 else 0x20

/-- Value of a T8 or T6 code (03 R66); bits above the code are ignored (03 R58). -/
def tVal (f bits : Nat) : Num :=
  let neg := tSign f ≤ bits % (2 * tSign f)
  let c := bits % tSign f
  if c = 0 then (if neg then .nan else .fin false 0 0) else .fin neg (tMag f c) (tUnit f)

/-- Value of a two's-complement or unsigned integer element. -/
def intVal (f bits : Nat) : Int :=
  let n := elemBits f
  let u := bits % 2 ^ n
  if fmtSigned f && u ≥ 2 ^ (n - 1) then (u : Int) - (2 ^ n : Nat) else u

/-- An integer as an exact number. -/
def numOfInt (x : Int) : Num := .fin (x < 0) x.natAbs 0

/-- Exact value of an element encoding in any format (08 R207). -/
def numVal (f bits : Nat) : Num :=
  if fmtInt f then numOfInt (intVal f bits) else if fmtT f then tVal f bits else ieeeVal f bits

/-! ## Rounding modes (03 Table 3-7) -/

/-- Whether the rounding goes to the larger magnitude: mode, sign, comparison of the remainder with one half of the
unit (`half`: lt, eq, gt), whether the smaller magnitude has an odd encoding. -/
def roundUp (mode : Nat) (neg : Bool) (half : Ordering) (odd : Bool) : Bool :=
  match mode with
  | 1 => false
  | 2 => !neg
  | 3 => neg
  | 4 => half ≠ .lt
  | _ => half = .gt || (half = .eq && odd)

/-- A mode that sends a magnitude beyond the largest finite value to that value (03 R76, R77). -/
def toLargest (mode : Nat) (neg : Bool) : Bool := mode = 1 || (mode = 2 && neg) || (mode = 3 && !neg)

/-! ## Overflow table (03 Tables 3-8 and 3-9) -/

/-- The entry of format f in an overflow table. -/
def ovEntry (ovt : Word) (f : Nat) : Nat := (ovt.extractLsb' (2 * f) 2).toNat

/-- The result of an overflow (03 R77). -/
def overflow (ovt : Word) (f : Nat) (neg : Bool) : Nat :=
  if fmtT f then
    match ovEntry ovt f with
    | 1 | 2 => tSign f
    | _ => (if neg then tSign f else 0) + (tSign f - 1)
  else
    let s := if neg then signBit f else 0
    match ovEntry ovt f with
    | 1 => s + infBits f
    | 2 => nanBits f
    | _ => s + (infBits f - 1)

/-! ## Rounding into a format -/

/-- Round ± m × 2^e into an IEEE format (03 R75, R77). -/
def roundIeee (f mode : Nat) (ovt : Word) (neg : Bool) (m : Nat) (e : Int) : Nat :=
  let s := if neg then signBit f else 0
  if m = 0 then s
  else
    let p := prec f
    let q := max (e + (Nat.log2 m + 1 : Nat) - p) (qmin f)
    let n :=
      if q ≤ e then m * 2 ^ (e - q).toNat
      else
        let d := (q - e).toNat
        let t := m / 2 ^ d
        let half := compare (2 * (m % 2 ^ d)) (2 ^ d)
        if m % 2 ^ d ≠ 0 && roundUp mode neg half (t % 2 = 1) then t + 1 else t
    let mag := (q - qmin f).toNat * 2 ^ (p - 1) + n
    if mag < infBits f then s + mag
    else if toLargest mode neg then s + (infBits f - 1)
    else overflow ovt f neg

/-- Round ± m × 2^e into T8 or T6 (03 R76). -/
def roundT (f mode : Nat) (ovt : Word) (neg : Bool) (m : Nat) (e : Int) : Nat :=
  if m = 0 then 0
  else
    let top := tSign f - 1
    let d := e - tUnit f
    let sh := (-d).toNat
    let x := m * 2 ^ d.toNat
    let mag (c : Nat) := tMag f c * 2 ^ sh
    let s := if neg then tSign f else 0
    if x > mag top then
      if toLargest mode neg then s + top else overflow ovt f neg
    else
      let lo := ((List.range top).filter (fun c => mag (c + 1) ≤ x)).length
      let c :=
        if x = mag lo then lo
        else
          let half := compare (2 * (x - mag lo)) (mag (lo + 1) - mag lo)
          if roundUp mode neg half (lo % 2 = 1) then lo + 1 else lo
      if c = 0 then 0 else s + c

/-- Round to an integer in a mode (08 R223). -/
def roundInt (mode : Nat) (neg : Bool) (m : Nat) (e : Int) : Int :=
  let n :=
    if 0 ≤ e then m * 2 ^ e.toNat
    else
      let d := (-e).toNat
      let t := m / 2 ^ d
      if m % 2 ^ d ≠ 0 && roundUp mode neg (compare (2 * (m % 2 ^ d)) (2 ^ d)) (t % 2 = 1) then t + 1 else t
  if neg then -(n : Int) else n

def intMin (f : Nat) : Int := if fmtSigned f then -(2 ^ (elemBits f - 1) : Nat) else 0
def intMax (f : Nat) : Int :=
  if fmtSigned f then (2 ^ (elemBits f - 1) : Nat) - 1 else (2 ^ elemBits f : Nat) - 1
/-- x limited to the range of an integer format (08 R207). -/
def clampi (f : Nat) (x : Int) : Int := max (intMin f) (min (intMax f) x)
/-- The low bits of an integer: wrapping (08 R212). -/
def wrapBits (f : Nat) (x : Int) : Nat := (x % (2 ^ elemBits f : Nat)).toNat

/-- One rounding of an exact value into any format, with the special sources of Table 3-10 (03 R81). -/
def roundTo (f mode : Nat) (ovt : Word) (x : Num) : Nat :=
  if fmtInt f then
    match x with
    | .nan => 0
    | .inf neg => wrapBits f (if neg then intMin f else intMax f)
    | .fin neg m e => wrapBits f (clampi f (roundInt mode neg m e))
  else if fmtT f then
    match x with
    | .nan => tSign f
    | .inf neg => overflow ovt f neg
    | .fin neg m e => roundT f mode ovt neg m e
  else
    match x with
    | .nan => nanBits f
    | .inf neg => (if neg then signBit f else 0) + infBits f
    | .fin neg m e => roundIeee f mode ovt neg m e

/-! ## Exact arithmetic (IEEE 754 with 03 R62; 08 R217) -/

def numNeg : Num → Num
  | .nan => .nan
  | .inf n => .inf (!n)
  | .fin n m e => .fin (!n) m e
def numAbs : Num → Num
  | .nan => .nan
  | .inf _ => .inf false
  | .fin _ m e => .fin false m e
/-- 08 R139: the absolute value first, then the sign. -/
def modify (ab ng : Bool) (x : Num) : Num :=
  let y := if ab then numAbs x else x
  if ng then numNeg y else y

/-- A signed mantissa over a common exponent. -/
def signedMant (n : Bool) (m : Nat) : Int := if n then -(m : Int) else m

/-- a + b; an exact zero sum of opposite signs is −0 only when rounding down (08 R217). -/
def numAdd (rdn : Bool) : Num → Num → Num
  | .nan, _ => .nan
  | _, .nan => .nan
  | .inf a, .inf b => if a = b then .inf a else .nan
  | .inf a, _ => .inf a
  | _, .inf b => .inf b
  | .fin na ma ea, .fin nb mb eb =>
    let e := min ea eb
    let x := signedMant na (ma * 2 ^ (ea - e).toNat) + signedMant nb (mb * 2 ^ (eb - e).toNat)
    if x = 0 then .fin (if na = nb then na else rdn) 0 e else .fin (x < 0) x.natAbs e

def numMul : Num → Num → Num
  | .nan, _ => .nan
  | _, .nan => .nan
  | .inf a, .inf b => .inf (a != b)
  | .inf a, .fin nb mb _ => if mb = 0 then .nan else .inf (a != nb)
  | .fin na ma _, .inf b => if ma = 0 then .nan else .inf (na != b)
  | .fin na ma ea, .fin nb mb eb => .fin (na != nb) (ma * mb) (ea + eb)

/-- x × 2^k. -/
def numScale (k : Int) : Num → Num
  | .fin n m e => .fin n m (e + k)
  | x => x

/-- Comparison of two numbers that are not NaN; −0 equals +0. -/
def numCmp : Num → Num → Ordering
  | .inf a, .inf b => if a = b then .eq else if a then .lt else .gt
  | .inf a, _ => if a then .lt else .gt
  | _, .inf b => if b then .gt else .lt
  | .fin na ma ea, .fin nb mb eb =>
    let e := min ea eb
    compare (signedMant na (ma * 2 ^ (ea - e).toNat)) (signedMant nb (mb * 2 ^ (eb - e).toNat))
  | _, _ => .eq

def numIsNan : Num → Bool
  | .nan => true
  | _ => false
def numNegSign : Num → Bool
  | .nan => false
  | .inf n => n
  | .fin n _ _ => n

/-- −0 lies below +0 (08 R218). -/
def numLt (a b : Num) : Bool :=
  match numCmp a b with
  | .lt => true
  | .gt => false
  | .eq => numNegSign a && !numNegSign b

/-- `fmin`, or `fmax` when `mx` (08 R218). -/
def numMinMax (mx : Bool) (a b : Num) : Num :=
  if numIsNan a then b
  else if numIsNan b then a
  else if mx then (if numLt a b then b else a) else (if numLt b a then b else a)

/-- An FP32 addition of the homes and of `afadd` (09 R266, R270): RNE and the FP32 overflow entry. -/
def fp32AddRne (ovt a b : Word) : Word :=
  BitVec.ofNat 32 (roundTo 0 0 ovt (numAdd false (ieeeVal 0 a.toNat) (ieeeVal 0 b.toNat)))

/-! ## Tolerance (09 R286) -/

/-- Distance from |old| to the next larger magnitude of its format, as m × 2^e (09 R286). The largest finite magnitude has no
larger one: there it is 0 in a T format and the unit of its binade in the others, the model's choice (log entry 19). -/
def gapOf (f bits : Nat) : Nat × Int :=
  if fmtInt f then (1, 0)
  else if fmtT f then
    let c := bits % tSign f
    (if c + 1 < tSign f then tMag f (c + 1) - tMag f c else 0, tUnit f)
  else
    let ex := (bits % signBit f) / 2 ^ (prec f - 1)
    (1, qmin f + max (ex : Int) 1 - 1)

/-- 09 R286: within 2^tolc gaps of the old element. -/
def within (f tolc new old : Nat) : Bool :=
  match numVal f new, numVal f old with
  | .fin na ma ea, .fin nb mb eb =>
    let g := gapOf f old
    let e := min (min ea eb) g.2
    let d := signedMant na (ma * 2 ^ (ea - e).toNat) - signedMant nb (mb * 2 ^ (eb - e).toNat)
    decide (d.natAbs ≤ g.1 * 2 ^ (g.2 - e).toNat * 2 ^ tolc)
  | _, _ => new = old

end Sys2Proof.Machine
end

