-- ==== Sys2Proof/Machine/Objects.lean ====
section
/-!
DEFINITION. Access to the objects of the state: contexts, groups, frames, cohorts, launches, virtual interfaces, the
fields of a launch packet (02 Table 2-2), of a VI descriptor (04 Table 4-4) and of a layout record (02 Table 2-7).
-/

namespace Sys2Proof.Machine

/-! ## Updates of one object -/

def setCtx (s : State) (k : Nat) (c : Ctx) : State := { s with ctxs := aput s.ctxs k c }
def modCtx (s : State) (k : Nat) (f : Ctx → Ctx) : State := { s with ctxs := amod s.ctxs k f }
def modGroup (s : State) (k : Nat) (f : Group → Group) : State := { s with groups := amod s.groups k f }
def modFrame (s : State) (k : Nat) (f : Frame → Frame) : State := { s with frames := amod s.frames k f }
def modCohort (s : State) (k : Nat) (f : Cohort → Cohort) : State := { s with cohorts := amod s.cohorts k f }
def modLaunch (s : State) (k : Nat) (f : Launch → Launch) : State := { s with launches := amod s.launches k f }
/-- The virtual interface of a number; one never touched is as after reset. -/
def viOf (s : State) (n : Nat) : Vi := (aget s.vis n).getD Vi.reset
def modVi (s : State) (n : Nat) (f : Vi → Vi) : State := { s with vis := aput s.vis n (f (viOf s n)) }
def portOf (s : State) (n : Nat) : Port := (aget s.ports n).getD Port.reset
def modPort (s : State) (n : Nat) (f : Port → Port) : State := { s with ports := aput s.ports n (f (portOf s n)) }

/-! ## Regions -/

/-- Store-buffer entries among items, oldest first. -/
def storesOf (l : List Item) : List StoreEntry :=
  l.filterMap (fun i => match i with | .store en => some en | .held _ => none)
/-- Held operations among items, oldest first. -/
def heldOf (l : List Item) : List Held :=
  l.filterMap (fun i => match i with | .held h => some h | .store _ => none)
/-- Items of the uncommitted region of a context. -/
def regionItems (c : Ctx) : List Item := match c.region with | some r => r.items | none => []

/-! ## Keys -/

/-- The frame key of a context key: core and physical frame (18 Table 18-6, bits [15:0]); the objects of a saved cohort
keep the place in which they were under a key that also names the cohort. -/
def frameKeyOf (ctxKey : Nat) : Nat := ctxKey % 65536 + ctxKey / 2 ^ 20 * 2 ^ 20
/-- The key of an object of a saved cohort. -/
def savedKey (tag key : Nat) : Nat := key + (tag + 1) * 2 ^ 20
/-- The core of a context or frame key. -/
def coreOf (key : Nat) : Nat := key % 512
/-- The die of a core (00 R9). -/
def dieOfCore (core : Nat) : Nat := core / 36
/-- The key of a context: core, physical frame, context index (18 Table 18-6). -/
def ctxKey (core phys index : Nat) : Nat := core + 512 * phys + 65536 * index
/-- The context index of a group's first lane; the fall-through arm takes the next (18 R418). -/
def ctxIndex (first : Nat) (arm : Arm) : Nat :=
  2 * (first / 8) + (match arm with | .fall => 1 | _ => 0)
/-- CTXID of a context (18 Table 18-6). -/
def ctxidOf (key : Nat) (c : Ctx) : Word := BitVec.ofNat 32 (c.gen.toNat * 2 ^ 20 + key % 2 ^ 20)

/-! ## Launch packet fields (02 Table 2-2) -/

def pkField (p : BitVec 2048) (lo n : Nat) : Nat := (p.toNat >>> lo) % 2 ^ n
def pkTag (p : BitVec 2048) : Word64 := p.extractLsb' 1984 64
def pkInline (p : BitVec 2048) (k : Nat) : Word := p.extractLsb' (960 + 32 * k) 32
def pkWaitAddr (p : BitVec 2048) (i : Nat) : Word64 := p.extractLsb' (448 + 128 * i) 64
def pkWaitVal (p : BitVec 2048) (i : Nat) : Word64 := p.extractLsb' (512 + 128 * i) 64
def pkCmplVal (p : BitVec 2048) : Word64 := p.extractLsb' 384 64
def pkCmplAddr (p : BitVec 2048) : Word64 := p.extractLsb' 320 64
def pkArgPtr (p : BitVec 2048) : Word64 := p.extractLsb' 256 64
def pkFmt (p : BitVec 2048) : Word := p.extractLsb' 224 32
def pkSpBytes (p : BitVec 2048) : Nat := pkField p 192 21
def pkGz (p : BitVec 2048) : Nat := pkField p 176 16
def pkGy (p : BitVec 2048) : Nat := pkField p 160 16
def pkGx (p : BitVec 2048) : Nat := pkField p 128 32
def pkEntry (p : BitVec 2048) : Word64 := p.extractLsb' 64 64
def pkEntrySlot (p : BitVec 2048) : Nat := pkField p 64 3
def pkAcct (p : BitVec 2048) : Nat := pkField p 53 6
def pkNbar (p : BitVec 2048) : Nat := pkField p 48 5
def pkVregs (p : BitVec 2048) : Nat := pkField p 32 9
def pkFrames (p : BitVec 2048) : Nat := pkField p 24 5
def pkProd (p : BitVec 2048) : Nat := pkField p 16 8
def pkProdEn (p : BitVec 2048) : Bool := p.getLsbD 15
def pkNwait (p : BitVec 2048) : Nat := pkField p 12 3
def pkCmplEn (p : BitVec 2048) : Bool := p.getLsbD 11
/-- The initial group width in lanes. -/
def pkWidth (p : BitVec 2048) : Nat := 8 * 2 ^ pkField p 9 2
def pkCluster (p : BitVec 2048) : Bool := p.getLsbD 8
def pkFormat (p : BitVec 2048) : Nat := pkField p 0 8
/-- The cohorts of a grid. -/
def pkCohorts (p : BitVec 2048) : Nat := pkGx p * pkGy p * pkGz p

/-! ## VI descriptor fields (04 Table 4-4) -/

def descWays (d : BitVec 512) (p : Nat) : Nat := (d.extractLsb' (384 + 32 * p) 32).toNat
def descTrapBase (d : BitVec 512) : Word64 := d.extractLsb' 320 64
def descPtRoot (d : BitVec 512) : Nat := (d.extractLsb' 256 64).toNat
def descTier (d : BitVec 512) (p : Nat) : Nat := (d.extractLsb' (64 + 2 * p) 2).toNat
def descKey (d : BitVec 512) : Nat := (d.extractLsb' 38 13).toNat
def descAsid (d : BitVec 512) : Nat := (d.extractLsb' 22 16).toNat
def descOwner (d : BitVec 512) : Nat := (d.extractLsb' 0 22).toNat

/-! ## Layout record fields (02 Table 2-7) -/

def recFormat (h : BitVec 1024) : Nat := (h.extractLsb' 0 4).toNat
def recNdim (h : BitVec 1024) : Nat := (h.extractLsb' 4 2).toNat
def recScales (h : BitVec 1024) : Bool := h.getLsbD 6
def recRdim (h : BitVec 1024) (k : Nat) : Nat := (h.extractLsb' (64 + 32 * k) 32).toNat
def recBc (h : BitVec 1024) : Nat := (h.extractLsb' 160 16).toNat
def recBr (h : BitVec 1024) : Nat := (h.extractLsb' 176 16).toNat
def recDim (h : BitVec 1024) (k : Nat) : Nat := (h.extractLsb' (192 + 32 * k) 32).toNat
def recOrigin (h : BitVec 1024) (k : Nat) : Nat := (h.extractLsb' (288 + 32 * k) 32).toNat
def recRegBase (h : BitVec 1024) : Word64 := h.extractLsb' 384 64
def recRegRec (h : BitVec 1024) : Word64 := h.extractLsb' 448 64
def recScBase (h : BitVec 1024) : Word64 := h.extractLsb' 512 64

/-! ## Page class bits (02 Table 2-10) and permissions (09 Table 9-1) of a leaf -/

def pteTolc (e : Word64) : Nat := (e.extractLsb' 62 2).toNat
def pteLyrec (e : Word64) : Bool := e.getLsbD 61
def pteTensor (e : Word64) : Bool := e.getLsbD 60
def pteTol (e : Word64) : Bool := e.getLsbD 59
def pteCmpr (e : Word64) : Bool := e.getLsbD 58
def ptePclass (e : Word64) : Nat := (e.extractLsb' 56 2).toNat
def pteLeaf (e : Word64) : Bool := e.getLsbD 5
def pteEx (e : Word64) : Bool := e.getLsbD 3
def pteWr (e : Word64) : Bool := e.getLsbD 2
def pteRd (e : Word64) : Bool := e.getLsbD 1
def pteValid (e : Word64) : Bool := e.getLsbD 0
def pteAddr (e : Word64) : Nat := (e.extractLsb' 12 40).toNat * 4096

/-! ## The PC (06 R132) -/

/-- Line address of a PC. -/
def pcLine (pc : Word64) : Nat := pc.toNat / 64 * 64
def pcSlot (pc : Word64) : Nat := pc.toNat % 8
/-- The slot after a slot. -/
def nextSlot (pc : Word64) : Word64 :=
  if pcSlot pc < 4 then pc + 1 else BitVec.ofNat 64 (pcLine pc) + 64
/-- A PC that a program may hold: bits [5:3] zero, slot index at most 4. -/
def pcOk (pc : Word64) : Bool := pc.toNat % 64 < 5
/-- Target PC of a Format B slot (06 R142). -/
def lineTarget (pc : Word64) (off : BitVec 32) (slot : BitVec 3) : Word64 :=
  BitVec.ofNat 64 (pcLine pc) + (off.signExtend 64 <<< 6) + slot.setWidth 64

/-- Slot k of a fetched line (06 R127). -/
def lineSlot (l : Line) (k : Nat) : Slot := l.extractLsb' (96 * k) 96
def lineTgt (l : Line) (k : Nat) : Bool := l.getLsbD (488 + k)

end Sys2Proof.Machine
end

