-- ==== Sys2Proof/Machine/Translate.lean ====
section
/-!
DEFINITION. Address translation (09 R245 to R251), permissions and page classes (09 R249, 02 R52 to R56, 04 R90), and
reads of compressed pages (09 R284, R285).
-/

namespace Sys2Proof.Machine

/-- HBM, CXL memory and the host's memory (09 Table 9-2). -/
def inHbm (pa : Nat) : Bool := pa < 0x00C000000000
def inCxl (pa : Nat) : Bool := 0x010000000000 ≤ pa && pa < 0x030000000000
def inHost (pa : Nat) : Bool := 0x400000000000 ≤ pa && pa < 0x800000000000
def inRanges (pa : Nat) : Bool := inHbm pa || inCxl pa || inHost pa

/-- Bytes of a page at a level (09 R246). -/
def pageBytes (level : Nat) : Nat := 4096 * 512 ^ level

/-- The walk fails at this entry (09 R248, 02 R55). -/
def badEntry (level : Nat) (e : Word64) : Bool :=
  !pteValid e || e.extractLsb' 52 4 ≠ 0 || e.extractLsb' 6 6 ≠ 0 || e.getLsbD 4
  || (pteLeaf e && level = 3) || (!pteLeaf e && level = 0) || !inRanges (pteAddr e)
  || (if pteLeaf e then
        pteAddr e % pageBytes level ≠ 0
        || (pteLyrec e && pteTensor e) || (pteCmpr e && (pteTol e || pteTensor e))
        || (inHost (pteAddr e) && (pteTensor e || pteLyrec e || pteTol e || pteCmpr e))
      else e.extractLsb' 56 8 ≠ 0 || pteEx e || pteWr e || pteRd e)

/-- The number of the page or of the table span that an entry at a level translates. -/
def pageOf (level : Nat) (va : Word64) : Nat := va.toNat / pageBytes level

/-- Memory with the stores performed that a commit has made but not yet written: a read of a line that they lock comes after
them (16 R399). -/
def committedView (s : State) : State :=
  s.ctxs.foldl (fun s p => (storesOf p.2.drain).foldl (fun s en =>
    match en with | .mem cells _ => writeCells s cells | _ => s) s) s

/-- The entry of a level of the walk: a cached one may be used in place of the one in memory until it is invalidated
(09 R250). None when the entry's line is poisoned (16 R395). -/
def walkEntry (s : State) (die asid : Nat) (va : Word64) (level table : Nat) : Option Word64 :=
  let pa := table + 8 * (pageOf level va % 512)
  let mem := if isPoisoned s (lineOf pa) then none else some (readWord64 (committedView s) pa)
  match s.tlb.find? (fun e => dieOfCore e.core = die && e.asid = asid && e.level = level
      && e.page = pageOf level va) with
  | some e => if free s (va.toNat / 4096 * 4 + level) 2 = 1 then some e.pte else mem
  | none => mem

/-- A successful translation: physical address, leaf entry, its level, and every entry of the walk. -/
structure Xlat where
  pa    : Nat
  pte   : Word64
  level : Nat
  path  : List (Nat × Word64)
  deriving DecidableEq, Repr

/-- Walk down from the table of a level (09 R246, R248); an error gives the level where the walk stopped. -/
def walk (s : State) (die asid : Nat) (va : Word64) : Nat → Nat → Except Nat Xlat
  | 0, table =>
    match walkEntry s die asid va 0 table with
    | none => .error 0
    | some e =>
      if badEntry 0 e then .error 0
      else .ok { pa := pteAddr e + va.toNat % pageBytes 0, pte := e, level := 0, path := [(0, e)] }
  | k + 1, table =>
    match walkEntry s die asid va (k + 1) table with
    | none => .error (k + 1)
    | some e =>
      if badEntry (k + 1) e then .error (k + 1)
      else if pteLeaf e then
        .ok { pa := pteAddr e + va.toNat % pageBytes (k + 1), pte := e, level := k + 1, path := [(k + 1, e)] }
      else (walk s die asid va k (pteAddr e)).map (fun x => { x with path := (k + 1, e) :: x.path })

/-- Translate an address of a VI at a core (09 R245 to R248). -/
def translate (s : State) (core vi : Nat) (va : Word64) : Except Nat Xlat :=
  let d := (viOf s vi).desc
  let root := descPtRoot d / 4096 * 4096
  if va.toNat ≥ 2 ^ 48 || !inRanges root then .error 3
  else walk s (dieOfCore core) (descAsid d) va 3 root

/-- Cache the entries of a successful walk (09 R250). -/
def tlbFill (s : State) (core vi : Nat) (va : Word64) (x : Xlat) : State :=
  let asid := descAsid (viOf s vi).desc
  let new := x.path.map (fun p =>
    ({ core := core, asid := asid, level := p.1, page := pageOf p.1 va, pte := p.2 } : TlbEntry))
  { s with tlb := s.tlb ++ new.filter (fun e => !s.tlb.contains e) }

/-- What an access is, for permissions and page classes. -/
inductive Access where
  | fetch | load | store | atomic | redst | thnd | cmnt | tensorLoad | tensorStore | record | recordPin | move | scale
  | copyIn | copyOut | remoteRead | hostRead | hostWrite
  deriving DecidableEq, Repr

/-- The tier rule (04 R90). -/
def tierOk (d : BitVec 512) (x : Xlat) : Bool :=
  match descTier d (ptePclass x.pte) with
  | 1 => !inCxl x.pa
  | 2 => !inHbm x.pa
  | _ => true

/-- Whether a page refuses an access (09 R249, R268, R271, R272, R274, R277, R284, R287; 02 R53, R54; 06 R135;
18 R436; 04 R88; 10 R300; 13 R353, R358;
20 R452). -/
def pageRefuses (d : BitVec 512) (a : Access) (x : Xlat) : Bool :=
  let e := x.pte
  !tierOk d x ||
  (match a with
   | .fetch => !pteEx e || pteTensor e || pteLyrec e || pteTol e || pteCmpr e
   | .load => !pteRd e || pteTensor e
   | .store => !pteWr e || pteTensor e || pteLyrec e || pteCmpr e
   | .atomic => !(pteRd e && pteWr e) || pteTensor e || pteLyrec e || pteTol e || pteCmpr e
   | .redst => !pteWr e || inHost x.pa || pteTensor e || pteLyrec e || pteCmpr e
   | .thnd => !pteRd e || pteTensor e || pteTol e
   | .cmnt => !pteWr e || pteCmpr e
   | .tensorLoad => !pteRd e || !pteTensor e
   | .tensorStore => !pteWr e || !pteTensor e
   | .record => !pteRd e || !pteLyrec e
   | .recordPin => !pteWr e || !pteLyrec e
   | .move => !(pteRd e && pteWr e) || !pteTensor e
   | .scale => !pteRd e || pteTensor e || pteLyrec e
   | .copyIn => !pteRd e || pteTensor e
   | .copyOut => !pteWr e || pteTensor e || pteLyrec e || pteCmpr e
   | .remoteRead => !pteRd e || pteTensor e || pteLyrec e || pteCmpr e
   | .hostRead => !pteRd e
   | .hostWrite => !pteWr e)

/-! ## Compressed pages (09 R284, R285) -/

/-- First byte of the page's frame. -/
def frameOf (x : Xlat) : Nat := x.pa - x.pa % pageBytes x.level
/-- Block of a byte of a compressed page. -/
def cmprBlock (x : Xlat) : Nat := (x.pa % pageBytes x.level) / 512
/-- Physical address of the tag byte of the block. -/
def cmprTagAddr (x : Xlat) : Nat := frameOf x + pageBytes x.level + cmprBlock x / 2
def cmprTag (s : State) (x : Xlat) : Nat := (readByte s (cmprTagAddr x)).toNat / 16 ^ (cmprBlock x % 2) % 16
/-- Stored bytes of a block by tag (09 Table 9-14). -/
def cmprStored (tag : Nat) : Nat :=
  match tag with
  | 0 => 512 | 1 => 0 | 2 => 132 | 3 => 260 | 4 => 4 | _ => 0
/-- Word i of the expanded block at `base` (09 Table 9-14). -/
def cmprWord (s : State) (base tag i : Nat) : Word :=
  match tag with
  | 0 => readWord s (base + 4 * i)
  | 1 => 0
  | 2 => readWord s base + (readByte s (base + 4 + i)).signExtend 32
  | 3 => readWord s base + (BitVec.ofNat 16 (readNat s (base + 4 + 2 * i) 2)).signExtend 32
  | 4 => readWord s base
  | _ => 0

/-- Bytes at a translated address: from memory, or expanded. None where a block's tag is 5 to 15. The bytes must lie in
one 512-byte block, as every aligned access does. -/
def readXlat (s : State) (x : Xlat) (n : Nat) : Option (List Byte) :=
  if pteCmpr x.pte then
    let tag := cmprTag s x
    let base := frameOf x + 512 * cmprBlock x
    if tag ≥ 5 then none
    else some ((List.range n).map (fun k =>
      let o := x.pa % 512 + k
      ((cmprWord s base tag (o / 4)).extractLsb' (8 * (o % 4)) 8)))
  else some (readBytes s x.pa n)

/-- The lines that such a read reads: they join the read set (09 R285). -/
def linesRead (s : State) (x : Xlat) (n : Nat) : List Nat :=
  let span (pa n : Nat) : List Nat :=
    if n = 0 then [] else (List.range (lineOf (pa + n - 1) - lineOf pa + 1)).map (fun k => lineOf pa + k)
  if pteCmpr x.pte then
    lineOf (cmprTagAddr x) :: span (frameOf x + 512 * cmprBlock x) (cmprStored (cmprTag s x))
  else span x.pa n

end Sys2Proof.Machine
end

