-- ==== Sys2Proof/Machine/Tile.lean ====
section
/-!
DEFINITION. The tile address unit and the monitors of the bands: tile_addr (02 R42), legal orders (R41), malformed
records (R47), region records (R49), the band order cache (09 R279), and band accesses with their counts (13 R344 to
R346).
-/

namespace Sys2Proof.Machine

/-! ## Geometry (02 R39 to R42) -/

/-- Elements of a line (02 R40). -/
def lineElems (f : Nat) : Nat := 1024 / elemBits f
/-- mr of an order code (02 Table 2-5). -/
def orderRows (o : BitVec 4) : Nat := 2 ^ (o.toNat % 8)
/-- mc of an order code. -/
def orderCols (h : BitVec 1024) (o : BitVec 4) : Nat := lineElems (recFormat h) / orderRows o
/-- Sequencing by columns. -/
def orderByCol (o : BitVec 4) : Bool := o.getLsbD 3
/-- The order is legal for the bands of the record's region (02 R41). -/
def orderLegal (h : BitVec 1024) (o : BitVec 4) : Bool :=
  orderRows o ≤ lineElems (recFormat h) && orderRows o ≤ recBr h && orderCols h o ≤ recBc h
/-- The legal order codes, ascending. -/
def legalOrders (h : BitVec 1024) : List (BitVec 4) :=
  ((List.range 16).map (BitVec.ofNat 4)).filter (orderLegal h)

/-- Band of an element at region coordinates. -/
def bandIndex (h : BitVec 1024) (x y z : Nat) : Nat :=
  (z * (recRdim h 1 / recBr h) + y / recBr h) * (recRdim h 0 / recBc h) + x / recBc h
/-- Line of the band that holds an element, t of `tile_addr`. -/
def bandLine (h : BitVec 1024) (o : BitVec 4) (x y : Nat) : Nat :=
  let r := y % recBr h
  let c := x % recBc h
  let mr := orderRows o
  let mc := orderCols h o
  if orderByCol o then c / mc * (recBr h / mr) + r / mr else r / mr * (recBc h / mc) + c / mc
/-- Element within its line, i of `tile_addr`. -/
def lineIndex (h : BitVec 1024) (o : BitVec 4) (x y : Nat) : Nat :=
  let mr := orderRows o
  let mc := orderCols h o
  y % recBr h % mr * mc + x % recBc h % mc
/-- Lines of a band. -/
def bandLines (h : BitVec 1024) : Nat := recBr h * recBc h / lineElems (recFormat h)
/-- Virtual address of line t of band b. -/
def tileLine (h : BitVec 1024) (b t : Nat) : Word64 := recRegBase h + BitVec.ofNat 64 ((b * bandLines h + t) * 128)
/-- Virtual address of the region record of band b. -/
def recordVa (h : BitVec 1024) (b : Nat) : Word64 := recRegRec h + BitVec.ofNat 64 (64 * b)
/-- Byte of a line in which element i begins. -/
def elemByte (f i : Nat) : Nat := if f = 4 then 6 * i / 8 else i * (elemBits f / 8)

/-- Element i of the line at physical address `pa`. -/
def readElem (s : State) (f pa i : Nat) : Nat :=
  if f = 4 then leNat (readBytes s pa 128) / 64 ^ i % 64 else readNat s (pa + elemByte f i) (elemBits f / 8)
/-- The bytes that writing element i changes: a T6 element shares bytes with its neighbours (02 R40). -/
def elemCells (s : State) (f pa i v : Nat) : List Host.Cell :=
  if f = 4 then
    let o := elemByte 4 i
    let old := readNat s (pa + o) 2
    let lo := 6 * i % 8
    let new := old - old / 2 ^ lo % 64 * 2 ^ lo + v % 64 * 2 ^ lo
    (pa + o, BitVec.ofNat 8 new) :: (if lo ≤ 2 then [] else [(pa + o + 1, BitVec.ofNat 8 (new / 256))])
  else (List.range (elemBits f / 8)).map (fun k => (pa + elemByte f i + k, BitVec.ofNat 8 (v / 256 ^ k)))

/-- Physical range of the scale byte of a block start (02 R46): its virtual address. -/
def scaleVa (h : BitVec 1024) (x y z : Nat) : Word64 :=
  recScBase h + BitVec.ofNat 64 (((z * recRdim h 1 + y) * recRdim h 0 + x) / 16)

def isPow2 (n : Nat) : Bool := (List.range 17).any (fun k => n = 2 ^ k)

/-- A layout record is malformed (02 Table 2-8). -/
def recMalformed (h : BitVec 1024) : Bool :=
  let f := recFormat h
  let e := lineElems f
  let dims := [0, 1, 2]
  10 < f || recNdim h = 3 || h.extractLsb' 7 57 ≠ 0 || h.extractLsb' 576 448 ≠ 0
  || (recScales h && !(f = 3 || f = 4)) || (recScales h && recBc h % 16 ≠ 0)
  || dims.any (fun k => recRdim h k = 0 || recDim h k = 0
      || (recNdim h < k && (recRdim h k ≠ 1 || recDim h k ≠ 1 || recOrigin h k ≠ 0)))
  || !isPow2 (recBr h) || !isPow2 (recBc h) || recBr h * recBc h < e || 65536 < recBr h * recBc h / e * 128
  || recRdim h 0 % recBc h ≠ 0 || recRdim h 1 % recBr h ≠ 0
  || (recRdim h 2 = 1 && recRdim h 0 * recRdim h 1 / e * 128 ≤ 65536
      && (recBr h ≠ recRdim h 1 || recBc h ≠ recRdim h 0))
  || dims.any (fun k => recRdim h k < recOrigin h k + recDim h k)
  || recOrigin h 0 % min e (recBc h) ≠ 0
  || (recRegBase h).toNat % 128 ≠ 0 || (recRegRec h).toNat % 64 ≠ 0

/-! ## Region records (02 Table 2-9) -/

def rrField (r : BitVec 512) (lo n : Nat) : Nat := (r.extractLsb' lo n).toNat
/-- The region record of a band's key: its physical address / 64. -/
def readRecord (s : State) (key : Nat) : BitVec 512 := BitVec.ofNat 512 (readNat s (64 * key) 64)

/-- Sums that a non-zero MON gives a monitor: the manual defines none (13 R361). -/
def openSums (s : State) (key : Nat) : Amap Nat :=
  (List.range 16).map (fun o => (o, Config.choice s.tick (16 * key + o)))

/-- The monitor as a region record gives it: MOVING is taken as FREE (13 R361), a MON of zero is a fresh monitor
(02 R50), any other MON an open state. -/
def bandOfRecord (s : State) (key : Nat) (r : BitVec 512) : Band :=
  let fresh := rrField r 256 256 = 0
  { order := r.extractLsb' 0 4, prev := r.extractLsb' 8 4,
    st := if rrField r 4 2 = 1 then 0 else rrField r 4 2,
    flips := rrField r 6 2, version := r.extractLsb' 32 32, epoch := rrField r 16 16, hyst := rrField r 64 16,
    epcnt := rrField r 96 16, wincnt := rrField r 128 23, advord := r.extractLsb' 192 4, advwt := rrField r 200 16,
    advign := rrField r 160 8,
    sums := if fresh then [] else openSums s key,
    flag := if fresh then false else Config.choice s.tick (16 * key) % 2 = 1,
    geom := 0, geomVi := 0, bandIx := 0, epochDue := false, windowDue := false, move := none, pinWait := none,
    queue := [] }

/-- The monitor of a band: one not yet used is as the record in memory gives it. -/
def bandAt (s : State) (key : Nat) : Band := (aget s.bands key).getD (bandOfRecord s key (readRecord s key))
def putBand (s : State) (key : Nat) (b : Band) : State := { s with bands := aput s.bands key b }

/-- The record that the Paver writes (13 R347); EPOCH and HYST stay as software wrote them. -/
def recordOf (s : State) (key : Nat) (b : Band) : BitVec 512 :=
  let old := readRecord s key
  let p := at_ 512
  p 256 (Config.monitorState s.tick).toNat ||| p 200 b.advwt ||| p 192 b.advord.toNat ||| p 160 b.advign
  ||| p 128 b.wincnt ||| p 96 b.epcnt ||| p 64 (rrField old 64 16) ||| p 32 b.version.toNat
  ||| p 16 (rrField old 16 16) ||| p 8 b.prev.toNat ||| p 6 b.flips ||| p 4 b.st ||| p 0 b.order.toNat

/-- Accesses to the band wait: it moves, or a decision is due (09 R280; 13 R346). -/
def bandBusy (s : State) (key : Nat) : Bool :=
  match aget s.bands key with
  | some b => b.st = 1 || b.epochDue || b.windowDue
  | none => false

/-! ## The band order cache (09 R279) -/

def bocKey (key core : Nat) : Nat := key * 512 + core
/-- ORDER and VERSION under which a core translates; a miss reads the record. -/
def ordVer (s : State) (core key : Nat) : BitVec 4 × Word :=
  match aget s.boc (bocKey key core) with
  | some p => p
  | none => ((readRecord s key).extractLsb' 0 4, (readRecord s key).extractLsb' 32 32)
/-- ORDER and VERSION as the record holds them. -/
def recordVer (s : State) (key : Nat) : BitVec 4 × Word :=
  ((readRecord s key).extractLsb' 0 4, (readRecord s key).extractLsb' 32 32)
/-- Read the record again (09 R281); a poisoned one is not taken, and the next access meets the poison (16 R395). -/
def bocRefresh (s : State) (core key : Nat) : State :=
  { s with boc := if isPoisoned s (lineOf (64 * key)) then aerase s.boc (bocKey key core)
                  else aput s.boc (bocKey key core) (recordVer s key) }
/-- The home's VERSION differs from the one that translated (09 R280). -/
def isStale (s : State) (key : Nat) (v : Word) : Bool := (bandAt s key).version ≠ v
/-- A cached order that is illegal for the band and no longer the band's is read again (02 R43; 09 R281). -/
def readsAgain (s : State) (core : Nat) (h : BitVec 1024) (key : Nat) : Bool :=
  !orderLegal h (ordVer s core key).1 && isStale s key (ordVer s core key).2
/-- ORDER and VERSION under which a core accesses a band of record `h`. -/
def coreOrder (s : State) (core : Nat) (h : BitVec 1024) (key : Nat) : BitVec 4 × Word :=
  if readsAgain s core h key then recordVer s key else ordVer s core key
/-- An access through record `h` reads the region record. -/
def readsRecord (s : State) (core : Nat) (h : BitVec 1024) (key : Nat) : Bool :=
  (aget s.boc (bocKey key core)).isNone || readsAgain s core h key
/-- Fill the cache with what an access through record `h` used. -/
def bocFill (s : State) (core : Nat) (h : BitVec 1024) (key : Nat) : State :=
  { s with boc := aput s.boc (bocKey key core) (coreOrder s core h key) }

/-! ## Where an element lies -/

/-- The outcome of translating one element of a coordinate access: a trap of position 3, 4 or 5 of Table 9-7 with its
cause fields, or the band's key, its index, the translated line, the element in it and the version. -/
inductive Spot where
  | bad (pos kind level : Nat) (addr : Word64)
  | place (key band : Nat) (x : Xlat) (va : Word64) (i : Nat) (ver : Word)
  deriving DecidableEq, Repr

/-- Translate the element at region coordinates (x, y, z) through record `h` for a core and a VI, under the order and
version that `order` gives for its band; `acc` and `kind` are those of the data access (09 R274, R279, Table 9-7; 02 R42,
R43). -/
def spotUnder (s : State) (core vi : Nat) (h : BitVec 1024) (acc : Access) (kind x y z : Nat)
    (order : Nat → BitVec 4 × Word) : Spot :=
  let desc := (viOf s vi).desc
  let b := bandIndex h x y z
  let rva := recordVa h b
  match translate s core vi rva with
  | .error lv => .bad 3 8 lv rva
  | .ok rx =>
    if pageRefuses desc .record rx then .bad 4 8 0 rva
    else
      let key := rx.pa / 64
      if readsRecord s core h key && isPoisoned s (lineOf rx.pa) then .bad 5 8 0 rva
      else
        let ov := order key
        if !orderLegal h ov.1 then .bad 4 8 0 rva
        else
          let va := tileLine h b (bandLine h ov.1 x y)
          let i := lineIndex h ov.1 x y
          let ea := va + BitVec.ofNat 64 (elemByte (recFormat h) i)
          match translate s core vi va with
          | .error lv => .bad 3 kind lv ea
          | .ok dx => if pageRefuses desc acc dx then .bad 4 kind 0 ea else .place key b dx ea i ov.2

/-- Translate an element as the core does: under the order of its band order cache (09 R279). -/
def spotOf (s : State) (core vi : Nat) (h : BitVec 1024) (acc : Access) (kind x y z : Nat) : Spot :=
  spotUnder s core vi h acc kind x y z (coreOrder s core h)

/-! ## Band accesses (13 R344 to R346) -/

/-- L of a band (13 R346). -/
def epochLen (b : Band) : Nat := if b.epoch = 0 then 4096 else if b.epoch < 64 then 64 else b.epoch

/-- The distinct elements of a list, in order of first place. -/
def distinct (l : List Nat) : List Nat := l.foldl (fun acc a => if acc.contains a then acc else acc ++ [a]) []

/-- touches(o): lines of the band that would hold the elements under o (13 R345). -/
def touches (h : BitVec 1024) (o : BitVec 4) (els : List (Nat × Nat)) : Nat :=
  (distinct (els.map (fun p => bandLine h o p.1 p.2))).length

/-- Count one band access that has been performed: band `key`, index `b`, geometry `h`, region coordinates of its
elements (13 R345, R346; 02 R48). -/
def bandAccess (s : State) (vi key b : Nat) (h : BitVec 1024) (els : List (Nat × Nat)) : State :=
  let m := bandAt s key
  let sums := (legalOrders h).foldl (fun t o => asetD t 0 o.toNat (agetD t 0 o.toNat + touches h o els)) m.sums
  let ep := m.epcnt + 1
  let wi := m.wincnt + 1
  let due := epochLen m ≤ ep
  let wdue := 2 ^ 22 ≤ wi
  let m' := { m with
    sums := sums, epcnt := ep, wincnt := wi, epochDue := m.epochDue || due, windowDue := m.windowDue || wdue,
    geom := if due || wdue then h else m.geom, geomVi := if due || wdue then vi else m.geomVi,
    bandIx := if due || wdue then b else m.bandIx }
  let s := putBand s key m'
  let s := if due && !m.epochDue then later s (.epochEnd key) else s
  if wdue && !m.windowDue then later s (.windowEnd key) else s

/-- Bands of a list of placed elements, in order of first place. -/
def bandsOf (els : List (Nat × Nat × Nat × Nat)) : List (Nat × Nat) :=
  els.foldl (fun acc e => if acc.any (fun p => p.1 = e.1) then acc else acc ++ [(e.1, e.2.1)]) []

/-- Count the band accesses of one instruction's elements: (key, band index, x, y) each. -/
def bandAccesses (s : State) (vi : Nat) (h : BitVec 1024) (els : List (Nat × Nat × Nat × Nat)) : State :=
  (bandsOf els).foldl (fun s p =>
    bandAccess s vi p.1 p.2 h ((els.filter (fun e => e.1 = p.1)).map (fun e => (e.2.2.1, e.2.2.2)))) s

end Sys2Proof.Machine
end

