-- ==== Sys2Proof/Machine/Lines.lean ====
section
/-!
DEFINITION. Lines and the agents that hold them (16): the snoop filter and the dies' L2 as a finished transaction
leaves them, rollback of a region (07 R201, 16 R400, R403), write-back with tolerance (09 R286), and the one place where
a write to memory or to a scratchpad is performed.
-/

namespace Sys2Proof.Machine

/-! ## Whose a context is -/

/-- The cohort of a context. -/
def tagOf (s : State) (key : Nat) : Nat :=
  match aget s.frames (frameKeyOf key) with
  | some f => f.tag
  | none => 0
/-- The VI of a cohort's launch. -/
def viOfTag (s : State) (tag : Nat) : Nat :=
  match aget s.cohorts tag with
  | some co => (match aget s.launches co.launch with | some la => la.vi | none => 0)
  | none => 0
/-- The VI of a context. -/
def viOfCtx (s : State) (key : Nat) : Nat := viOfTag s (tagOf s key)
/-- The core whose die performs a context's committed stores: that of the context, or the one at which pre-emption handed
them to the L2 (16 R402). -/
def storeCore (key : Nat) (c : Ctx) : Nat := c.handed.getD (coreOf key)

/-! ## Homes and agents -/

/-- The home die of a line (16 R382). -/
def homeOf (line : Nat) : Nat :=
  (line % 8) ^^^ (line / 8 % 8) ^^^ (line / 64 % 8) ^^^ (line / 512 % 8) ^^^ (line / 4096 % 8)

/-- Sharer-vector bits of the engine agents (16 Table 16-1). -/
def agentL1 (core : Nat) : Nat := core % 36
def agentStr (core : Nat) : Nat := 36 + core % 36 % 4
def agentDz : Nat := 40
def agentPv : Nat := 41
def agentJn : Nat := 42
def agentInb : Nat := 43

def l2Key (line die : Nat) : Nat := line * 8 + die
def dieBit (die : Nat) : BitVec 8 := 1#8 <<< die
def agentBit (a : Nat) : BitVec 44 := 1#44 <<< a

/-! ## Rollback (07 R201) -/

/-- Put recorded values back. -/
def restoreMap {α : Type} [DecidableEq α] (m : Amap α) (d : α) (old : Amap α) : Amap α :=
  old.foldl (fun m p => asetD m d p.1 p.2) m

/-- The dependency slot that a held instruction set (07 R174). -/
def heldSlot : Held → Option Nat
  | .job j => j.setSlot
  | .acc a => a.setSlot
  | _ => none

def clearSlot (slots : BitVec 8) (n : Option Nat) : BitVec 8 :=
  match n with
  | some k => slots &&& ~~~(1#8 <<< k)
  | none => slots

/-- The context as a rollback of its region leaves it (07 R201, 16 R403, R405). -/
def rolledBack (c : Ctx) (r : Region) (counted : Bool) : Ctx :=
  { c with
    r := r.entry, region := none, fault := none, ibuf := none, arrived := false, carried := [], woken := false,
    status := (match c.status with | .waitBar .. => .running | .barEnd => .running | st => st),
    nSt := c.nSt - r.nSt, nCp := c.nCp - r.nCp, nTl := c.nTl - r.nTl,
    same := if counted then c.same + 1 else c.same,
    win := if r.holds then 0 else if counted then c.win + 1 else c.win,
    winOpen := if r.holds then false else c.winOpen || counted }

/-- The window of a context has ended before its time: its end is no longer due (16 R405). -/
def windowShut (s : State) (key : Nat) : State :=
  { s with agenda := s.agenda.filter (· ≠ .rollbackWindowExpiry key) }

/-- Roll back the uncommitted region of a context; `counted` is false at pre-emption (16 R403). -/
def rollback (s : State) (key : Nat) (counted : Bool) : State :=
  match aget s.ctxs key with
  | none => s
  | some c =>
    match c.region with
    | none => s
    | some r =>
      let s := modFrame s (frameKeyOf key) (fun f =>
        { f with v := restoreMap f.v 0 r.vold, vpoison := restoreMap f.vpoison 0 r.vpold })
      let s := modGroup s c.group (fun g => { g with slots := ((heldOf r.items).map heldSlot).foldl clearSlot g.slots })
      let s := setCtx s key (rolledBack c r counted)
      let s := if r.holds then windowShut s key else s
      if counted && !c.winOpen && !r.holds then later s (.rollbackWindowExpiry key) else s

/-- A speculative region of the context holds the line (16 R397, R398); a non-speculative region holds none. -/
def holdsLine (c : Ctx) (line : Nat) : Bool :=
  match c.region with
  | some r => !r.nonspec && (r.reads.contains line || r.writes.contains line)
  | none => false

/-- Roll back every region that holds the line, but that of context `except` (16 R400). -/
def rollbackLine (s : State) (except : Option Nat) (line : Nat) : State :=
  (s.ctxs.filter (fun p => some p.1 ≠ except && holdsLine p.2 line)).foldl (fun s p => rollback s p.1 true) s

/-- A region with line holds delays the messages for this line (16 R405). -/
def lineHeld (s : State) (except : Option Nat) (line : Nat) : Bool :=
  s.ctxs.any (fun p => some p.1 ≠ except && holdsLine p.2 line
    && (match p.2.region with | some r => r.holds | none => false))

/-- An engine agent owns the line (16 R389): who needs it waits for the recall (R390). -/
def engineOwner (s : State) (line : Nat) : Option (Nat × Nat) :=
  (s.engOwn.find? (fun o => o.2.2 = line)).map (fun o => (o.1, o.2.1))

/-- Contexts of the core, other than `key`, whose uncommitted read set holds the line (16 R397). -/
def readerTags (s : State) (key line : Nat) : Nat :=
  (s.ctxs.filter (fun p => p.1 ≠ key && coreOf p.1 = coreOf key
    && (match p.2.region with | some r => !r.nonspec && r.reads.contains line | none => false))).length

/-! ## Write-back -/

/-- Element i of a line, packed by six bits when `packed` (02 R40). -/
def lineElem (bytes : List Byte) (f i : Nat) (packed : Bool) : Nat :=
  let x := leNat bytes
  if packed && f = 4 then x / 64 ^ i % 64 else x / 2 ^ (elemBits f * i) % 2 ^ elemBits f

/-- Code of a tolerant line's format record: format, TOLC, whether T6 elements are packed. -/
def tolCode (f tolc : Nat) (packed : Bool) : Nat := f + 16 * tolc + (if packed then 64 else 0)

/-- The bytes of the line in memory, without the caches. -/
def memLine (s : State) (line : Nat) : List Byte :=
  (List.range 128).map (fun k => memByte s (128 * line + k))

/-- Every element of the line is within tolerance of the copy in memory (09 R286). -/
def lineWithin (s : State) (line code : Nat) : Bool :=
  let f := code % 16
  let packed := 64 ≤ code
  let new := readBytes s (128 * line) 128
  let old := memLine s line
  (List.range (if elemBits f = 8 then 128 else 1024 / elemBits f)).all (fun i =>
    within f (code / 16 % 4) (lineElem new f i packed) (lineElem old f i packed))

/-- Dies whose L2 holds a copy of the line. -/
def diesHolding (s : State) (line : Nat) : List Nat :=
  (List.range 8).filter (fun d => (aget s.l2 (l2Key line d)).isSome)

/-- The write-back of a tolerant line is dropped: memory keeps its copy, the copies that dies still hold keep the exact
values (09 R286; 15 R375). -/
def dropWriteBack (s : State) (line : Nat) : State :=
  { s with
    dirty := s.dirty.filter (fun p => lineOf p.1 ≠ line)
    exact := (dirtyOf s line).foldl (fun m p => aput m p.1 p.2) s.exact
    keptBy := s.keptBy.filter (fun k => k / 8 ≠ line) ++ (diesHolding s line).map (l2Key line) }

/-- Write a line back to memory, or drop the write when the line is tolerant and within tolerance (09 R286). -/
def writeBack (s : State) (line : Nat) : State :=
  let drop := match aget s.tolFmt line with
    | some (some code) => lineWithin s line code
    | _ => false
  let s' := if drop then dropWriteBack s line else writeBackLine s line
  { s' with tolFmt := aerase s'.tolFmt line }

/-- What the agents of a die read: their copy of a tolerant line may hold values that memory has not taken (15 R375). -/
def dieSees (s : State) (die : Nat) : State :=
  writeCells s (s.exact.filter (fun p => s.keptBy.contains (l2Key (lineOf p.1) die)))

/-- A die has read no dropped values of the line any more. -/
def forgetKept (s : State) (line : Nat) (die : Nat) : State :=
  { s with keptBy := s.keptBy.filter (· ≠ l2Key line die) }

/-- A die that owns a line keeps what its copy holds: exact values of a dropped write-back are modified data again. -/
def regainKept (s : State) (line : Nat) (die : Nat) : State :=
  let mine := if s.keptBy.contains (l2Key line die) then s.exact.filter (fun p => lineOf p.1 = line) else []
  { s with dirty := mine.foldl (fun m p => aput m p.1 p.2) s.dirty, keptBy := s.keptBy.filter (fun k => k / 8 ≠ line) }

/-- Record the format of a write to a line (09 R286): `code` for a lane store or a `redst` add to a tolerant page. -/
def noteWrite (s : State) (line : Nat) (code : Option Nat) (tol : Bool) : State :=
  match code, aget s.tolFmt line with
  | some k, none => { s with tolFmt := aput s.tolFmt line (some k) }
  | some k, some (some j) => if k = j then s else { s with tolFmt := aput s.tolFmt line none }
  | some _, some none => s
  | none, some _ => { s with tolFmt := aput s.tolFmt line none }
  | none, none => if tol then { s with tolFmt := aput s.tolFmt line none } else s

/-! ## Locks and owners -/

/-- Where an element of a coordinate store lies as the core translates it. -/
def elemSpot (s : State) (core vi : Nat) (e : ElemStore) : Spot :=
  spotOf s core vi e.hrec .tensorStore 6 e.x e.y e.z
/-- Where it lies under the order that its band has at the homes. -/
def elemHome (s : State) (core vi : Nat) (e : ElemStore) : Spot :=
  spotUnder s core vi e.hrec .tensorStore 6 e.x e.y e.z (fun k => ((bandAt s k).order, (bandAt s k).version))

/-- The bytes that an element writes at a spot. -/
def spotCells (s : State) (e : ElemStore) : Spot → List Host.Cell
  | .place _ _ x _ i _ => elemCells s (recFormat e.hrec) x.pa i e.value
  | .bad .. => []
/-- The bytes that an element writes at the place to which it was translated. -/
def elemNow (s : State) (e : ElemStore) : List Host.Cell := elemCells s (recFormat e.hrec) e.pa e.ix e.value
/-- The version that translated an element is no longer its band's (09 R280). -/
def elemStale (s : State) (e : ElemStore) : Bool := isStale s e.key e.ver
/-- The bytes that it will write once it has been translated again (09 R281). -/
def elemThen (s : State) (core vi : Nat) (e : ElemStore) : List Host.Cell :=
  if elemStale s e then spotCells s e (elemHome s core vi e) else []

/-- Elements of a coordinate store that are still to be written (09 R278: `part` 2 marks one that is written, 3 one that
never will be, log entry 32). -/
def elemsLeft (es : List ElemStore) : List ElemStore := es.filter (fun e => e.part < 2)

/-- A committed store writes the line: where its elements lie, and where a stale one will lie under the order of its band. -/
def entryOn (s : State) (core vi line : Nat) : StoreEntry → Bool
  | .mem cells _ => cells.any (fun c => lineOf c.1 = line)
  | .coord es => (elemsLeft es).any (fun e =>
      (elemNow s e ++ elemThen s core vi e).any (fun c => lineOf c.1 = line))
  | _ => false

/-- The elements of a coordinate store that do not go to any of these bands. -/
def elsewhere (keys : List Nat) : StoreEntry → StoreEntry
  | .coord es => .coord (es.filter (fun e => !keys.contains e.key))
  | en => en

/-- A committed store of a context that is not yet performed writes the line, elsewhere than in these bands. -/
def ctxLocks (s : State) (keys : List Nat) (line : Nat) (p : Nat × Ctx) : Bool :=
  (storesOf p.2.drain).any (fun en => entryOn s (storeCore p.1 p.2) (viOfCtx s p.1) line (elsewhere keys en))

/-- A committed store, of a context other than `mine`, locks the line, which is not a line of these bands only. -/
def lockBut (s : State) (mine keys : List Nat) (line : Nat) : Bool :=
  s.ctxs.any (fun p => !mine.contains p.1 && ctxLocks s keys line p)

/-- A committed store, of a context other than `mine`, that is not yet performed locks the line (16 R399). -/
def storeLock (s : State) (mine : List Nat) (line : Nat) : Bool := lockBut s mine [] line

/-- A committed store of a context of the die locks the line. -/
def dieLock (s : State) (die line : Nat) : Bool :=
  s.ctxs.any (fun p => dieOfCore (storeCore p.1 p.2) = die && ctxLocks s [] line p)

/-- A committed store of another context of the cohort that is not yet performed writes bytes of this scratchpad range. -/
def scratchLock (s : State) (mine : List Nat) (tag off n : Nat) : Bool :=
  s.ctxs.any (fun p => !mine.contains p.1 && tagOf s p.1 = tag && (storesOf p.2.drain).any (fun en =>
    match en with
    | .scratch cells => cells.any (fun c => off ≤ c.1 && c.1 < off + n)
    | _ => false))

/-- Committed stores of other contexts lock some of these scratchpad bytes: a write of them waits (16 R399). -/
def cellsLocked (s : State) (mine : List Nat) (tag : Nat) (cells : List Host.Cell) : Bool :=
  cells.any (fun c => scratchLock s mine tag c.1 1)

/-- Contexts whose line holds delay a claim of the lines (16 R405). -/
def holders (s : State) (except : Option Nat) (lines : List Nat) : List Nat :=
  (s.ctxs.filter (fun p => some p.1 ≠ except && lines.any (holdsLine p.2)
    && (match p.2.region with | some r => r.holds | none => false))).map (·.1)

def holdsL2 (s : State) (line die : Nat) : Bool := (aget s.l2 (l2Key line die)).isSome
/-- The die owns the line: its home has it in EM with this owner. -/
def ownsL2 (s : State) (line die : Nat) : Bool :=
  match aget s.sf line with
  | some h => h.st = 2 && h.owner = die
  | none => false

/-- An engine of the die owns the line. -/
def dieEngine (s : State) (die line : Nat) : Bool := s.engOwn.any (fun o => o.1 = die && o.2.2 = line)

/-- The line is locked in the die's L2, which owns it from the commit on, or an engine of the die owns it: a forward or an
eviction waits (16 R390, R399). -/
def dieBlocked (s : State) (die line : Nat) : Bool :=
  (ownsL2 s line die && dieLock s die line) || dieEngine s die line

/-- Ask engines that own any of the lines to give them back (16 R390). -/
def recallAll (s : State) (lines : List Nat) : State :=
  lines.foldl (fun s l => match engineOwner s l with
    | some o => laterOnce s (.rcl o.1 o.2 l)
    | none => s) s

/-! ## A die loses its copy (16 R388) -/

/-- State of the line in a die's L2 (16 Table 16-3). -/
def l2State (s : State) (line die : Nat) : Option L2State := (aget s.l2 (l2Key line die)).map (·.st)
def isDirty (st : Option L2State) : Bool := st = some .m || st = some .o

/-- Regions of a die's contexts that hold the line roll back. -/
def rollbackDie (s : State) (die line : Nat) : State :=
  (s.ctxs.filter (fun p => dieOfCore (coreOf p.1) = die && holdsLine p.2 line)).foldl (fun s p => rollback s p.1 true) s

/-- The die and its agents hold the line no more; dirty data stays where it goes. -/
def dropDie (s : State) (die line : Nat) : State :=
  let s := forgetKept (rollbackDie s die line) line die
  { s with l2 := aerase s.l2 (l2Key line die) }

/-- The home takes the die out of the line's entry; the entry goes with its last holder (16 R383, Table 16-5). -/
def homeForget (s : State) (die line : Nat) : State :=
  match aget s.sf line with
  | none => s
  | some h =>
    let rest := h.sharers &&& ~~~(dieBit die)
    if rest = 0 then { s with sf := aerase s.sf line }
    else { s with sf := aput s.sf line { h with sharers := rest, st := if 1 < h.st && h.owner = die then 1 else h.st } }

/-- The die evicts the line: WbD when it is dirty, EvC when it is clean. -/
def evictDie (s : State) (die line : Nat) : State :=
  let dirty := isDirty (l2State s line die)
  let s := homeForget (dropDie s die line) die line
  if dirty then writeBack s line else s

/-- Drop every copy of a line in the L2s, writing modified data back; regions that hold it roll back (16 R388). -/
def dropLine (s : State) (line : Nat) : State :=
  let s := rollbackLine s none line
  writeBack { s with
    l2 := s.l2.filter (fun p => p.1 / 8 ≠ line), sf := aerase s.sf line
    keptBy := s.keptBy.filter (fun k => k / 8 ≠ line) } line

/-- The L1 of a core loses its copy: regions of the core that have read it roll back (16 R397, R400). -/
def dropL1 (s : State) (core line : Nat) : State :=
  let reads (c : Ctx) : Bool := match c.region with | some r => !r.nonspec && r.reads.contains line | none => false
  let s := (s.ctxs.filter (fun p => coreOf p.1 = core && reads p.2)).foldl (fun s p => rollback s p.1 true) s
  { s with l2 := amod s.l2 (l2Key line (dieOfCore core)) (fun e => { e with agents := e.agents &&& ~~~(agentBit (agentL1 core)) }) }

/-- The lines that the L1 of a core holds. -/
def l1Held (s : State) (core : Nat) : List Nat :=
  (s.l2.filter (fun p => p.1 % 8 = dieOfCore core && p.2.agents.getLsbD (agentL1 core))).map (fun p => p.1 / 8)

/-- Make room in the L1 of a core for a line: 256 KiB are 2,048 lines (00 Table 0-1); which of them goes is open (log entry
71). -/
def l1MakeRoom (s : State) (core line : Nat) : State :=
  let held := l1Held s core
  if held.contains line || held.length < 2048 then s
  else match held[free s (7600 + core) held.length]? with
    | some v => dropL1 s core v
    | none => s

/-- POISON and HOST of a line's snoop-filter entry (16 Table 16-2). -/
def sfPoison (s : State) (line : Nat) : Bool := isPoisoned s line
def sfHost (line : Nat) : Bool := inHost (128 * line)

/-! ## Room in the snoop filter (16 R383, R387) -/

/-- The older of two entries. -/
def olderEntry (b : Option (Nat × SfEntry)) (p : Nat × SfEntry) : Option (Nat × SfEntry) :=
  match b with
  | none => some p
  | some q => if p.2.age < q.2.age then some p else some q

/-- The line whose entry must go before `line` can have one: the entry of its full set that was allocated earliest
(16 R383, Table 16-2). -/
def sfVictim (s : State) (line : Nat) : Option Nat :=
  if (aget s.sf line).isSome then none
  else
    let set := s.sf.filter (fun p => p.1 % 65536 = line % 65536 && homeOf p.1 = homeOf line)
    if set.length < 16 then none else (set.foldl olderEntry none).map (·.1)

/-- Make room in the snoop-filter set of the line: its victim is back-invalidated (16 R387). -/
def sfMakeRoom (s : State) (line : Nat) : State :=
  match sfVictim s line with
  | some v => dropLine s v
  | none => s

/-- The home has a transaction for the line in service (16 R384). -/
def inService (s : State) (line : Nat) : Bool := (aget s.txns line).isSome

/-- A back-invalidation of the line waits: for its home, a lock, an engine, or line holds (16 R387, R390, R399, R405). -/
def binvBlocked (s : State) (line : Nat) : Bool :=
  inService s line || (engineOwner s line).isSome || storeLock s [] line || !(holders s none [line]).isEmpty

/-! ## Room in an L2 set (04 R96) -/

/-- The slice that holds a line of a die: its own, or the partner while that is gated (16 R393). -/
def heldSlice (s : State) (die line : Nat) : Nat :=
  if (agetD s.l2gmask 0 die).getLsbD (line % 16) then (line % 16) ^^^ 8 else line % 16

/-- The set in which a die's L2 holds the line: 96 MiB in 16 slices of 32 ways are 1,536 sets a slice; which of them a line
takes the manual leaves open (log entry 71). -/
def l2Set (s : State) (die line : Nat) : Nat := 1536 * heldSlice s die line + Config.l2Index line % 1536

/-- The lines of a die's L2. -/
def dieLines (s : State) (die : Nat) : Amap L2Line := s.l2.filter (fun p => p.1 % 8 = die)

/-- The ways that a fill may take. -/
def fillWays (f : Fill) : List Nat := (List.range 32).filter (fun w => f.ways.getLsbD w)

/-- The lines in the ways of a set that a fill may take. -/
def setLines (s : State) (die : Nat) (f : Fill) (line : Nat) : Amap L2Line :=
  (dieLines s die).filter (fun p => p.2.set = l2Set s die line && f.ways.getLsbD p.2.way)

/-- The ways of the line's set that are free for a fill. -/
def freeWays (s : State) (die : Nat) (f : Fill) (line : Nat) : List Nat :=
  (fillWays f).filter (fun w => !(dieLines s die).any (fun p => p.2.set = l2Set s die line && p.2.way = w))

/-- Some way is free: surely so while the die holds fewer lines than the fill has ways. -/
def hasWay (s : State) (die : Nat) (f : Fill) (line : Nat) : Bool :=
  (dieLines s die).length < (fillWays f).length || !(freeWays s die f line).isEmpty

/-- A line cannot leave a die's L2 now: its home is busy with it, it is locked, or an engine of the die owns it. -/
def evictBlocked (s : State) (die line : Nat) : Bool := inService s line || dieBlocked s die line

/-- The lines that may be the victim: those of the lowest eviction class among the ones that can leave (04 R96; 09 Table
9-6). -/
def victims (s : State) (die : Nat) (f : Fill) (line : Nat) : List Nat :=
  let can := (setLines s die f line).filter (fun p => !evictBlocked s die (p.1 / 8))
  let least := can.foldl (fun r p => min r p.2.rank) 2
  (can.filter (fun p => p.2.rank = least)).map (fun p => p.1 / 8)

/-- The victim of a fill: which of them is open. -/
def l2Victim (s : State) (die : Nat) (f : Fill) (line : Nat) : Option Nat :=
  if hasWay s die f line then none
  else (victims s die f line)[free s (7300 + die) (victims s die f line).length]?

/-- Make room in the L2 set of the line: the victim is evicted (16 R388). -/
def l2MakeRoom (s : State) (die : Nat) (f : Fill) (line : Nat) : State :=
  match l2Victim s die f line with
  | some v => evictDie s die v
  | none => s

/-- Room for a line that the die does not hold. -/
def makeRoom (s : State) (die : Nat) (f : Fill) (line : Nat) : State := l2MakeRoom (sfMakeRoom s line) die f line

/-- The lines that keep a die from taking the line in: victims that cannot leave yet. -/
def roomBlocks1 (s : State) (die : Nat) (f : Fill) (line : Nat) : List Nat :=
  if (aget s.l2 (l2Key line die)).isSome then []
  else
    match sfVictim s line with
    | some v => if binvBlocked s v then [v] else []
    | none =>
      if hasWay s die f line || !(victims s die f line).isEmpty then []
      else (setLines s die f line).map (fun p => p.1 / 8)

/-! ## The caches as a finished transaction leaves them (16 R387) -/

/-- A new copy in the L2 of a die. -/
def newL2 (s : State) (die : Nat) (f : Fill) (line : Nat) (st : L2State) (agents : BitVec 44) : State :=
  let ways := freeWays s die f line
  let e : L2Line :=
    { st := st, agents := agents, set := l2Set s die line, way := ways.getD (free s (7400 + die) ways.length) 0,
      rank := f.rank }
  { s with l2 := aput s.l2 (l2Key line die) e }

/-- The state and the sharers of a copy that the die holds change. -/
def setL2 (s : State) (line die : Nat) (st : L2State) (agents : BitVec 44) : State :=
  { s with l2 := amod s.l2 (l2Key line die) (fun e => { e with st := st, agents := agents }) }

/-- An agent of a die holds a readable copy: GetS served (16 Table 16-5); `agents` is its bit, none when it keeps no
data. -/
def takeShared (s : State) (die : Nat) (agents : BitVec 44) (f : Fill) (line : Nat) : State :=
  match aget s.l2 (l2Key line die) with
  | some e => setL2 s line die e.st (e.agents ||| agents)
  | none =>
    let s := makeRoom s die f line
    let s := { s with hostOwn := s.hostOwn.filter (· ≠ line) }
    match aget s.sf line with
    | none =>
      let s := newL2 s die f line .e agents
      { s with sfAge := s.sfAge + 1,
               sf := aput s.sf line { st := 2, owner := die, sharers := dieBit die, age := s.sfAge } }
    | some h =>
      let s :=
        if h.st = 2 then
          match aget s.l2 (l2Key line h.owner) with
          | some o =>
            if o.st = .m then
              { setL2 s line h.owner .o o.agents with
                sf := aput s.sf line { h with st := 3, sharers := dieBit h.owner ||| dieBit die } }
            else
              { setL2 s line h.owner .s o.agents with
                sf := aput s.sf line { h with st := 1, sharers := dieBit h.owner ||| dieBit die } }
          | none => { s with sf := aput s.sf line { h with st := 1, sharers := h.sharers ||| dieBit die } }
        else { s with sf := aput s.sf line { h with sharers := h.sharers ||| dieBit die } }
      newL2 s die f line .s agents

/-- A core reads a line: its L1 takes the line in, unless the fill keeps it out (09 R256). -/
def coreShared (s : State) (core : Nat) (f : Fill) (line : Nat) : State :=
  if f.l1 then takeShared (l1MakeRoom s core line) (dieOfCore core) (agentBit (agentL1 core)) f line
  else takeShared s (dieOfCore core) 0 f line

/-- Room for a line that a die is to own, unless it holds it. -/
def roomToOwn (s : State) (die : Nat) (f : Fill) (line : Nat) : State :=
  if (aget s.l2 (l2Key line die)).isSome then s else makeRoom s die f line

/-- An agent of a die owns the line for writing: GetM served, every other copy invalidated (16 Table 16-5); `agents` are the
agents of the die that have a copy then. R398 allows E or M for a claimed line: here it is M from the claim on (log entry
63). -/
def takeOwned (s : State) (die : Nat) (agents : BitVec 44) (f : Fill) (line : Nat) : State :=
  let s := roomToOwn s die f line
  let s := regainKept { s with hostOwn := s.hostOwn.filter (· ≠ line) } line die
  let age := match aget s.sf line with | some h => h.age | none => s.sfAge
  let s := { s with sfAge := if (aget s.sf line).isSome then s.sfAge else s.sfAge + 1 }
  let s := { s with l2 := s.l2.filter (fun p => p.1 / 8 ≠ line || p.1 % 8 = die) }
  let s := if (aget s.l2 (l2Key line die)).isSome then setL2 s line die .m agents else newL2 s die f line .m agents
  { s with sf := aput s.sf line { st := 2, owner := die, sharers := dieBit die, age := age } }

/-- The lines that keep a die from taking these lines in, one after another. -/
def roomBlocks (die : Nat) (f : Nat → Fill) : State → List Nat → List Nat
  | _, [] => []
  | s, l :: r =>
    match roomBlocks1 s die (f l) l with
    | [] => roomBlocks die f (takeShared s die 0 (f l) l) r
    | b => b

/-! ## Fills -/

/-- A fill on behalf of a VI for a page class (04 R96), under a hint of Table 9-6. No VI that is enabled has an empty mask
(04 R89). -/
def viFill (s : State) (vi pclass hint : Nat) : Fill :=
  let w := BitVec.ofNat 32 (descWays (viOf s vi).desc pclass)
  { ways := if w = 0 then BitVec.allOnes 32 else w
    rank := match hint with | 1 => 0 | 2 => 2 | _ => 1
    l1 := hint ≠ 1 && hint ≠ 3 }

/-- The page of a translation holds the line, or the tags of a compressed page do (09 R284). -/
def pageHolds (x : Xlat) (line : Nat) : Bool :=
  frameOf x ≤ 128 * line
  && 128 * line < frameOf x + pageBytes x.level + (if pteCmpr x.pte then pageBytes x.level / 1024 else 0)

/-- The fill of each line of an access: the class is that of its page. -/
def xlatFill (s : State) (vi hint : Nat) (xs : List Xlat) (line : Nat) : Fill :=
  viFill s vi (match xs.find? (fun x => pageHolds x line) with | some x => ptePclass x.pte | none => 0) hint

/-- What a write of a line of this page goes by; `code` is the format code that a tolerant page takes (09 R286). -/
def markOf (x : Xlat) (code : Option Nat) : LineMark :=
  { line := lineOf x.pa, pclass := ptePclass x.pte, tol := if pteTol x.pte then code else none }

/-- What the write of an element goes by (09 R286). -/
def elemMark (h : BitVec 1024) (x : Xlat) : LineMark :=
  markOf x (some (tolCode (recFormat h) (pteTolc x.pte) (recFormat h = 4)))

/-- The fills of marked lines. -/
def markFill (s : State) (vi : Nat) (ms : List LineMark) (line : Nat) : Fill :=
  viFill s vi (match ms.find? (fun m => m.line = line) with | some m => m.pclass | none => 0) 0

/-- The format code that goes with a line. -/
def markTol (ms : List LineMark) (line : Nat) : Option Nat := (ms.filter (fun m => m.line = line)).findSome? (·.tol)

/-- The fill of a record that the Paver writes on behalf of a VI: the class is that of the page of the record, which the VI
translates at the monitor's die; class 0 where it no longer does (log entry 71). -/
def recordFill (s : State) (vi key : Nat) (geom : BitVec 1024) (ix : Nat) : Fill :=
  viFill s vi (match translate s (36 * homeOf (lineOf (64 * key))) vi (recordVa geom ix) with
    | .ok x => ptePclass x.pte
    | .error _ => 0) 0

/-! ## What an access asks of its home (16 R384, R393) -/

def putTxn (s : State) (line : Nat) (t : Txn) : State := { s with txns := aput s.txns line t }

/-- The die has the line as a request asks for it: the home is not asked. -/
def needsNothing (s : State) (die line : Nat) (getm : Bool) : Bool :=
  holdsL2 s line die && (!getm || ownsL2 s line die)

/-- The line's slice of the die is being gated or ungated (16 R393). -/
def gateWaits (s : State) (die line : Nat) : Bool :=
  match aget s.l2gPend die with
  | some m => (agetD s.l2gmask 0 die ^^^ m).getLsbD (line % 16)
  | none => false

/-- A request that has to go to the home waits there behind another of the line, or at the die while its slice changes. -/
def askWaits (s : State) (die : Nat) (getm : Bool) (line : Nat) : Bool :=
  !needsNothing s die line getm && (inService s line || gateWaits s die line)

/-- An access of a die to these lines waits for their homes or for room. -/
def linesWait (s : State) (die : Nat) (getm : Bool) (f : Nat → Fill) (lines : List Nat) : Bool :=
  lines.any (askWaits s die getm) || !(roomBlocks die f s lines).isEmpty

/-- The transaction, or one that waits behind it, gives the die what it asks for. -/
def isAsked (t : Txn) (die : Nat) (getm : Bool) : Bool :=
  (t.cur :: t.queue).any (fun q => match q with
    | .get d g _ => d = die && (g || !getm)
    | _ => false)

/-- The dies of an entry other than `d`. -/
def otherDies (h : SfEntry) (d : Nat) : List Nat := (List.range 8).filter (fun x => h.sharers.getLsbD x && x ≠ d)

/-- A transaction as it begins. -/
def newTxn (q : HomeReq) (queue : List HomeReq) : Txn := { cur := q, room := false, acks := [], data := false, queue := queue }

/-- A line no die holds: memory answers, the die is its owner. -/
def serveFirst (s : State) (line die : Nat) (t : Txn) : State :=
  let s := { s with sfAge := s.sfAge + 1,
                    sf := aput s.sf line { st := 2, owner := die, sharers := dieBit die, age := s.sfAge } }
  later (putTxn s line t) (.data die line)

/-- A read of a line that dies hold. -/
def serveRead (s : State) (line die : Nat) (h : SfEntry) (t : Txn) : State :=
  if h.st = 1 then
    let s := { s with sf := aput s.sf line { h with sharers := h.sharers ||| dieBit die } }
    later (putTxn s line t) (.data die line)
  else later (putTxn s line { t with acks := [h.owner] }) (.fwds h.owner line)

/-- A request for ownership of a line that dies hold. -/
def serveOwn (s : State) (line die : Nat) (h : SfEntry) (t : Txn) : State :=
  let others := otherDies h die
  let fwd (d : Nat) : Bool := h.st ≠ 1 && d = h.owner
  let have_ := h.sharers.getLsbD die && !others.any fwd
  let t := { t with acks := others, data := have_ }
  let s := others.foldl (fun s d => later s (if fwd d then .fwdm d line else .inv d line)) (putTxn s line t)
  if have_ then (if others.isEmpty then later s (.cmp die line) else s)
  else if others.any fwd then s
  else later s (.data die line)

/-- The home takes up a die's request for which it has room. -/
def serve (s : State) (line die : Nat) (getm : Bool) (t : Txn) : State :=
  match aget s.sf line with
  | none => serveFirst s line die t
  | some h => if getm then serveOwn s line die h t else serveRead s line die h t

/-- A request for a line has to wait for an engine, a committed store or, for ownership, line holds (16 R390, R399, R405). -/
def lineDelayed (s : State) (getm : Bool) (line : Nat) : Bool :=
  (engineOwner s line).isSome || storeLock s [] line || (getm && !(holders s none [line]).isEmpty)

/-- A request that has to wait takes its place at the home, in the order of arrival (16 R384): behind the one in service, or
as the one that the home serves while an engine, a lock or a hold delays the answers to it. -/
def askHome (die : Nat) (getm : Bool) (f : Nat → Fill) (s : State) (line : Nat) : State :=
  if needsNothing s die line getm || gateWaits s die line then s
  else
    let q : HomeReq := .get die getm (f line)
    match aget s.txns line, sfVictim s line with
    | some t, _ => if isAsked t die getm then s else putTxn s line { t with queue := t.queue ++ [q] }
    | none, some v =>
      if binvBlocked s v then laterOnce (putTxn s line { newTxn q [] with room := true }) (.binv v) else s
    | none, none => if lineDelayed s getm line then serve s line die getm (newTxn q []) else s

/-- The ends of the line holds on these lines are due (16 R405). -/
def expireHolds (s : State) (except : Option Nat) (lines : List Nat) : State :=
  (holders s except lines).foldl (fun s k => laterOnce s (.lineHoldExpiry k)) s

/-- The state while an access of a die waits for homes and for room. -/
def askLines (s : State) (die : Nat) (getm : Bool) (f : Nat → Fill) (lines : List Nat) : State :=
  let b := roomBlocks die f s lines
  expireHolds (recallAll (lines.foldl (askHome die getm f) s) b) none b

/-! ## Performing a write -/

/-- The distinct lines of cells, in order. -/
def cellLines (cells : List Host.Cell) : List Nat :=
  cells.foldl (fun ls c => if ls.contains (lineOf c.1) then ls else ls ++ [lineOf c.1]) []

/-- The cells cover all 128 bytes of the line (16 R396). -/
def coversLine (cells : List Host.Cell) (line : Nat) : Bool :=
  (List.range 128).all (fun k => cells.any (fun c => c.1 = 128 * line + k))

/-- Own a line and roll back the regions of others that hold it; `agents` are those of the die that then have a copy. -/
def ownLine (s : State) (except : Option Nat) (die : Nat) (agents : BitVec 44) (f : Fill) (line : Nat) : State :=
  takeOwned (rollbackLine s except line) die agents f line

/-- The die that performs a write: that of the core, or for an add at its home the home's. -/
def writerDie (core : Option Nat) (line : Nat) : Nat :=
  match core with
  | some c => dieOfCore c
  | none => homeOf line

/-- The agents that have a copy after a write of the core: its L1 keeps a line that it holds and takes in none. -/
def writerAgents (s : State) (core : Option Nat) (line : Nat) : BitVec 44 :=
  match core with
  | some c => (match aget s.l2 (l2Key line (dieOfCore c)) with | some e => e.agents &&& agentBit (agentL1 c) | none => 0)
  | none => 0

/-- A core, or the home of an add, owns a line that it writes. -/
def coreOwn (s : State) (except : Option Nat) (core : Option Nat) (f : Fill) (line : Nat) : State :=
  ownLine s except (writerDie core line) (writerAgents s core line) f line

/-- The line is written on behalf of a VI: under the key that the VI names, in HBM and CXL memory (23 R487). -/
def noteKey (s : State) (vi line : Nat) : State :=
  let s := unsealLine s line
  if inHbm (128 * line) || inCxl (128 * line) then
    { s with lineKey := aput s.lineKey line (descKey (viOf s vi).desc) }
  else s

/-- Perform writes to memory for a core, or for a home, and a VI, in order (16 R399). A lane store that covers a whole line
clears its poison (16 R396). -/
def performCells (s : State) (except : Option Nat) (core : Option Nat) (vi : Nat) (f : Nat → Fill) (cells : List Host.Cell)
    (marks : List LineMark) (lane : Bool) : State :=
  let s := (cellLines cells).foldl (fun s l => noteKey (coreOwn s except core (f l) l) vi l) s
  let s := (cellLines cells).foldl (fun s l => noteWrite s l (markTol marks l) false) s
  let s := writeCells s cells
  if lane then (cellLines cells).foldl (fun s l => if coversLine cells l then clearPoison s l else s) s else s

/-- Write bytes by an engine: owns each line, writes, releases; poison stays (16 R389, R396). -/
def engineWrite (s : State) (die agent vi : Nat) (f : Fill) (pa : Nat) (bytes : List Byte) (tol : Bool) : State :=
  let cells := (List.range bytes.length).map (fun k => (pa + k, bytes.getD k 0))
  let s := (cellLines cells).foldl (fun s l =>
    noteWrite (noteKey (ownLine s none die (agentBit agent) f l) vi l) l none tol) s
  writeCells s cells

/-- Write the record of a band, of index `ix` in a region of geometry `geom`, on behalf of a VI (13 R347, R353). -/
def writeRecord (s : State) (vi key : Nat) (geom : BitVec 1024) (ix : Nat) : State :=
  engineWrite s (homeOf (lineOf (64 * key))) agentPv vi (recordFill s vi key geom ix) (64 * key)
    (natLe 64 (recordOf s key (bandAt s key)).toNat) false

/-! ## Scratchpads -/

def spByte (co : Cohort) (off : Nat) : Byte := agetD co.sp 0 off
def spBytes (co : Cohort) (off n : Nat) : List Byte := (List.range n).map (fun k => spByte co (off + k))

/-- A speculative region of the cohort has read the granule (09 R260). -/
def holdsGranule (c : Ctx) (g : Nat) : Bool :=
  match c.region with
  | some r => !r.nonspec && r.granules.contains g
  | none => false

/-- Write scratchpad cells of a cohort; regions of its other contexts that read a granule roll back (09 R260). -/
def writeScratch (s : State) (tag : Nat) (except : Option Nat) (cells : List Host.Cell) : State :=
  let hit (p : Nat × Ctx) : Bool :=
    some p.1 ≠ except && tagOf s p.1 = tag && cells.any (fun c => holdsGranule p.2 (c.1 / 128))
  let s' := (s.ctxs.filter hit).foldl (fun s p => rollback s p.1 true) s
  modCohort s' tag (fun co => { co with sp := cells.foldl (fun m c => asetD m 0 c.1 c.2) co.sp })

end Sys2Proof.Machine
end

