-- ==== Sys2Proof/Machine/Ops.lean ====
section
/-!
DEFINITION. The shared operations of every instruction: the environment of the context that executes, register reads
and writes with their shadows (07 R198), region boundaries (R197), taking a trap (18 R410, 07 R202), the halt and its
record (18 R411 to R416), and the issue of one instruction (07 R165, R170 to R177, 06 R163).
-/

namespace Sys2Proof.Machine

/-! ## The environment of an instruction -/

/-- What the executing context sees: its own record, group, frame, cohort and launch, its normal set `norm`
(m0 and `pblk`), its executing set `exec` (and XMASK, 08 R206), its extension word, and the context of its sibling arm
(07 R188). -/
structure Env where
  key  : Nat
  c    : Ctx
  g    : Group
  fr   : Frame
  co   : Cohort
  la   : Launch
  norm : LaneMask
  exec : LaneMask
  word : Option (BitVec 28)
  sib  : Option Ctx
  deriving DecidableEq, Repr

/-- The other context of a group that a split has made two arms. -/
def siblingOf (s : State) (key group : Nat) : Option (Nat × Ctx) :=
  s.ctxs.find? (fun p => p.1 ≠ key && p.2.group = group)

/-- Mask register k: m0 is the context's active lanes. -/
def maskOf (r : CtxRegs) (k : Nat) : LaneMask := if k = 0 then r.m0 else agetD r.masks 0 k

/-- Lanes in which the next governed instruction may execute (07 R175). -/
def normalSet (r : CtxRegs) : LaneMask :=
  match r.pblk with
  | none => r.m0
  | some p => if p.pat.getLsbD 0 then r.m0 &&& p.mask else r.m0 &&& ~~~p.mask

/-- Fields of an extension word (06 Table 6-12). -/
def xwMask (w : BitVec 28) : Nat := (w.extractLsb' 0 4).toNat
def xwRnd (w : BitVec 28) : Nat := (w.extractLsb' 4 3).toNat
def xwOp4 (w : BitVec 28) : Nat := (w.extractLsb' 7 9).toNat
def xwZero (w : BitVec 28) : Bool := w.getLsbD 16
def xwSat (w : BitVec 28) : Bool := w.getLsbD 17

/-- The environment of the current context; none when `cur` names no context. -/
def envOf (s : State) : Option Env :=
  match aget s.ctxs s.cur, aget s.frames (frameKeyOf s.cur) with
  | some c, some fr =>
    match aget s.groups c.group, aget s.cohorts fr.tag with
    | some g, some co =>
      match aget s.launches co.launch with
      | some la =>
        let norm := normalSet c.r
        let word := c.r.xwords.head?
        let exec := match word with
          | some w => norm &&& maskOf c.r (xwMask w)
          | none => norm
        some { key := s.cur, c := c, g := g, fr := fr, co := co, la := la, norm := norm, exec := exec, word := word,
               sib := (siblingOf s s.cur c.group).map (·.2) }
      | none => none
    | _, _ => none
  | _, _ => none

/-- Core, die and VI of the executing context. -/
def eCore (e : Env) : Nat := coreOf e.key
def eDie (e : Env) : Nat := dieOfCore (coreOf e.key)
def eVi (e : Env) : Nat := e.la.vi
def eTag (e : Env) : Nat := e.fr.tag
def ePc (e : Env) : Word64 := e.c.r.pc

/-! ## Registers -/

def vAt (fr : Frame) (n lane : Nat) : Word := agetD fr.v 0 (64 * n + lane)
def vPoisonAt (fr : Frame) (n lane : Nat) : BitVec 2 := agetD fr.vpoison 0 (64 * n + lane)
def gAt (r : CtxRegs) (n : Nat) : Word := agetD r.g 0 n
def gPair (r : CtxRegs) (n : Nat) : Word64 := gAt r (n + 1) ++ gAt r n
def hAt (r : CtxRegs) (k : Nat) : Option (BitVec 1024) := aget r.handles k

/-- Lane `lane` is one of the group's lanes (05 R109). -/
def inGroup (g : Group) (lane : Nat) : Bool := g.first ≤ lane && lane < g.first + g.width
/-- Lane `lane` has exited (05 R110). -/
def hasExited (e : Env) (lane : Nat) : Bool := !e.fr.live.getLsbD lane

/-- A v word as another lane of the group sees it: of a lane that the sibling arm holds, the value as it stood when that
arm's region opened (08 R231). -/
def vSeen (e : Env) (n lane : Nat) : Word :=
  match e.sib with
  | some c =>
    match c.region with
    | some r => if c.live.getLsbD lane then (aget r.vold (64 * n + lane)).getD (vAt e.fr n lane) else vAt e.fr n lane
    | none => vAt e.fr n lane
  | none => vAt e.fr n lane
def vPoisonSeen (e : Env) (n lane : Nat) : BitVec 2 :=
  match e.sib with
  | some c =>
    match c.region with
    | some r =>
      if c.live.getLsbD lane then (aget r.vpold (64 * n + lane)).getD (vPoisonAt e.fr n lane)
      else vPoisonAt e.fr n lane
    | none => vPoisonAt e.fr n lane
  | none => vPoisonAt e.fr n lane

/-- Record the old values of v words at their first write in the region (07 R198). -/
def shadowV (c : Ctx) (f : Frame) (keys : List Nat) : Ctx :=
  match c.region with
  | none => c
  | some r =>
    let r' := keys.foldl (fun (r : Region) k =>
      if (aget r.vold k).isSome then r
      else { r with vold := aput r.vold k (agetD f.v 0 k), vpold := aput r.vpold k (agetD f.vpoison 0 k) }) r
    { c with region := some r' }

/-- Write v words (key 64 n + L); `halves` are the register halves that the write replaces (18 R428). -/
def writeV (s : State) (key : Nat) (halves : BitVec 2) (vals : List (Nat × Word)) : State :=
  match aget s.ctxs key, aget s.frames (frameKeyOf key) with
  | some c, some f =>
    let s := setCtx s key (shadowV c f (vals.map (·.1)))
    { s with frames := aput s.frames (frameKeyOf key) { f with
        v := vals.foldl (fun m p => asetD m 0 p.1 p.2) f.v
        vpoison := vals.foldl (fun m p => asetD m 0 p.1 (agetD m 0 p.1 &&& ~~~halves)) f.vpoison } }
  | _, _ => s

/-- Mark v words poisoned in both halves (18 R427). -/
def poisonV (s : State) (key : Nat) (keys : List Nat) : State :=
  modFrame s (frameKeyOf key) (fun f => { f with vpoison := keys.foldl (fun m k => aput m k 3#2) f.vpoison })

def noteG (r : CtxRegs) (id : Nat) : CtxRegs := if r.wroteG.contains id then r else { r with wroteG := id :: r.wroteG }
def noteM (r : CtxRegs) (k : Nat) : CtxRegs := if r.wroteM.contains k then r else { r with wroteM := k :: r.wroteM }

/-- Write g register n. -/
def putG (r : CtxRegs) (n : Nat) (w : Word) : CtxRegs :=
  noteG { r with g := asetD r.g 0 n w, gpoison := aerase r.gpoison n } (256 + n)
/-- Write mask register k, k ≥ 1. -/
def putMask (r : CtxRegs) (k : Nat) (m : LaneMask) : CtxRegs := { r with masks := asetD r.masks 0 k m }

def modRegs (s : State) (key : Nat) (f : CtxRegs → CtxRegs) : State := modCtx s key (fun c => { c with r := f c.r })

/-- Mark registers shadowed by the region (07 R198). -/
def noteShadows (s : State) (key : Nat) (ids : List Nat) : State :=
  modCtx s key (fun c => { c with region := c.region.map (fun r =>
    { r with shadows := ids.foldl (fun l i => if l.contains i then l else i :: l) r.shadows }) })

/-! ## Advancing (06 R132, 07 R175, R177) -/

/-- The state of a `pblk` prefix after one governed instruction. -/
def pblkNext : Option PblkState → Option PblkState
  | none => none
  | some p => if p.left ≤ 1 then none else some { p with left := p.left - 1, pat := p.pat >>> 1 }

/-- Go to the next slot, having used one prefix place and one extension word. -/
def advance (r : CtxRegs) : CtxRegs :=
  { r with pc := nextSlot r.pc, pblk := pblkNext r.pblk, xwords := r.xwords.tail }

/-- Transfer control: the arrival is checked against TGT, no prefix state remains (06 R133, 07 R178). -/
def jump (c : Ctx) (pc : Word64) (checked : Bool) : Ctx :=
  { c with r := { c.r with pc := pc, pblk := none, xwords := [] }, ibuf := none, arrived := checked }

/-! ## Regions -/

/-- A fresh region at the context's present state (07 R198, R404, R405). -/
def newRegion (c : Ctx) : Region :=
  { entry := c.r, vold := [], vpold := [], shadows := [], items := [], reads := [], granules := [],
    writes := [], nSt := 0, nCp := 0, nTl := 0, ended := false, nonspec := c.same ≥ 4, holds := c.win ≥ 16 }

/-- The context with a region open: the overflow table is copied at region entry (03 R79). -/
def opened (ovt : Word) (c : Ctx) : Ctx :=
  match c.region with
  | some _ => c
  | none =>
    let c := { c with r := { c.r with ovt := ovt } }
    { c with region := some (newRegion c) }

/-- A region boundary at which a new region opens: it takes its copy of the overflow table (03 R79). -/
def enterRegion (s : State) (key : Nat) : State :=
  modRegs s key (fun r => { r with ovt := (viOf s (viOfCtx s key)).ovt })

/-- End the region of a context: its commit is due (07 R197, R200). -/
def endRegion (s : State) (key : Nat) : State :=
  laterOnce (modCtx s key (fun c => { c with region := c.region.map (fun r => { r with ended := true }) }))
    (.regionCommit key)

/-! ## Traps -/

/-- Take a trap in a context: it halts once the part of its region before the instruction has committed
(07 R202, 18 R410). -/
def takeTrap (s : State) (key : Nat) (t : TrapInfo) : State :=
  laterOnce (modCtx s key (fun c =>
      { c with fault := some t, region := c.region.map (fun r => { r with ended := true }) }))
    (.contextHalt key)

/-- Trap causes (18 Table 18-1). -/
def cIllegalEncoding : Nat := 0x01
def cIllegalTarget : Nat := 0x02
def cIllegalConvergence : Nat := 0x03
def cProducerRights : Nat := 0x04
def cReturnUnderflow : Nat := 0x05
def cDivergentReturn : Nat := 0x06
def cStackOverflow : Nat := 0x07
def cScratchRange : Nat := 0x08
def cTranslationFault : Nat := 0x09
def cProtection : Nat := 0x0A
def cMisaligned : Nat := 0x0B
def cCoordRange : Nat := 0x0C
def cPoisonConsumed : Nat := 0x0D
def cRegfile : Nat := 0x0E
def cFetchParity : Nat := 0x0F
def cPrivileged : Nat := 0x10
def cBreakpoint : Nat := 0x11
def cUserTrap : Nat := 0x12
def cBarrierMisuse : Nat := 0x13
def cSlotMisuse : Nat := 0x14
def cEngineFault : Nat := 0x15
def cPblkMisuse : Nat := 0x16

/-- A trap at a PC with no further fields (18 Table 18-3). -/
def plainTrap (cause : Nat) (pc : Word64) : TrapInfo :=
  { cause := cause, sub := 0, lane := 0, kind := 0, level := 0, code := 0, addr := 0, ipc := pc, pc := pc }

/-- A trap of an access: lane, kind, level, address (18 R414). -/
def accessTrap (cause lane kind level : Nat) (addr : Word64) (pc : Word64) : TrapInfo :=
  { plainTrap cause pc with lane := lane, kind := kind, level := level, addr := addr }

/-- Raise a trap of the executing context. -/
def trapE (s : State) (e : Env) (t : TrapInfo) : State := takeTrap s e.key t

/-- The trap record of a context (18 Table 18-2); `second` marks a secondary record. -/
def trapRecord (s : State) (key : Nat) (c : Ctx) (g : Group) (la : Launch) (t : TrapInfo) (second : Bool) :
    BitVec 2048 :=
  let cnt (n : Nat) : Nat := n % 256
  let dstk := c.r.dstack.length
  let p := at_ 2048
  p 736 (cnt c.nLd + 256 * cnt c.nSt + 65536 * cnt c.nCp + 16777216 * cnt c.nTl)
  ||| p 704 c.r.fmt.toNat ||| p 640 (s.time % 2 ^ 64) ||| p 608 g.gid.toNat ||| p 600 g.width
  ||| p 594 c.r.rstack.length ||| p 592 (match c.arm with | .whole => 0 | .taken => 1 | .fall => 2)
  ||| p 588 (min dstk 15) ||| p 587 (if dstk ≥ 16 then 1 else 0)
  ||| p 576 (t.lane % 64) ||| p 572 (t.kind % 16) ||| p 568 (t.level % 16) ||| p 512 t.code.toNat
  ||| p 448 c.live.toNat ||| p 384 c.r.m0.toNat ||| p 320 t.addr.toNat ||| p 256 t.ipc.toNat
  ||| p 192 t.pc.toNat ||| p 128 (pkTag la.pkt).toNat ||| p 64 (ctxidOf key c).toNat
  ||| p 24 la.vi ||| p 16 t.sub ||| p 8 t.cause ||| p 1 (if second then 1 else 0) ||| p 0 1

/-- Queue a trap record to be written (18 R411, R415); none for an aborted context (R422). -/
def queueRecord (s : State) (key : Nat) (t : TrapInfo) (second : Bool) : State :=
  match aget s.ctxs key with
  | none => s
  | some c =>
    match aget s.groups c.group, aget s.cohorts (tagOf s key) with
    | some g, some co =>
      match aget s.launches co.launch with
      | some la =>
        if la.aborted then s else
        let n := fresh s
        let rec_ : PendingRec :=
          { vi := la.vi, ctxid := ctxidOf key c, record := trapRecord s key c g la t second,
            second := second }
        later { n.2 with recs := aput n.2.recs n.1 rec_ } (.trapRecordWrite n.1)
      | none => s
    | _, _ => s

/-- Amber events that a trap writes (18 Table 18-16: 0x06, 0x07, 0x0D). -/
def trapAmber (s : State) (key : Nat) (c : Ctx) (vi : Nat) (t : TrapInfo) : State :=
  let who := two32 vi (ctxidOf key c).toNat
  let die := dieOfCore (coreOf key)
  let core := coreOf key
  if t.cause = cEngineFault then amber s 0x06 die core who t.sub t.addr.toNat 0
  else if t.cause = cFetchParity then amber s 0x07 die core who t.pc.toNat 0 0
  else if t.cause = cRegfile then amber s 0x0D die core who (two32 (t.code.toNat % 512) t.lane) 0 0
  else s

/-- The context stops: its PC is that of Table 18-1, its record is to be written (18 R410, R411). -/
def haltNow (s : State) (key : Nat) (t : TrapInfo) : State :=
  match aget s.ctxs key with
  | none => s
  | some c =>
    let vi := viOfCtx s key
    let c' := { c with fault := none, status := .halted t, r := { c.r with pc := t.pc }, ibuf := none,
                       arrived := false, recSlot := none, carried := [],
                       paused := (match c.status with | .waitBar k p => some (k, p) | _ => none) }
    queueRecord (trapAmber (setCtx s key c') key c' vi t) key t false

/-! ## What an instruction asks of the issue stage -/

/-- What an instruction asks of the issue stage. -/
structure Req where
  /-- runs on the uniform path (06 R153) -/
  uniform : Bool := false
  /-- stalling class (07 Table 7-7) -/
  stall   : Bool := false
  /-- goes on waiting outside any region (10 R307) -/
  bare    : Bool := false
  /-- held class: takes a place of the holding queue -/
  held    : Bool := false
  /-- MAJ 0x0F (06 R162) -/
  priv    : Bool := false
  /-- may lie under `pblk` (07 R176) -/
  gov     : Bool := true
  /-- accepts an extension word (07 R177), and of its fields OP4, XSAT, RND (08 Table 8-2) -/
  word    : Bool := false
  op4     : Bool := false
  xsat    : Bool := false
  rnd     : Bool := false
  /-- v registers that the instruction names (06 R150) -/
  vregs   : List Nat := []
  /-- registers read in a lane: specifier, halves, the lane whose register it is (18 R426) -/
  reads   : Env → Nat → List (Spec × BitVec 2 × Nat) := fun _ _ => []
  /-- registers that may need a shadow (07 R198): n, 256 + n, 512 + k, 600, 601 -/
  shadows : List Nat := []
  /-- takes a store-buffer entry -/
  sbuf    : Bool := false
  /-- outstanding-operation class (07 Table 7-3) -/
  cls     : CntClass := .none
  /-- wait mask of dependency slots (07 R173) -/
  waitm   : BitVec 8 := 0

/-- The extension word breaks a rule for this instruction (07 R177, 08 R208). A word that is bad by itself has trapped at its
`xpfx` (06 R161); a fourth operand that this instruction does not take traps here (log entry 72). -/
def wordBad (q : Req) (e : Env) : Bool :=
  match e.word with
  | none => false
  | some w =>
    !q.word || q.uniform || (xwSat w && !q.xsat) || (xwRnd w ≠ 7 && !q.rnd)
    || (xwOp4 w ≠ 510 && !(q.op4 && 448 ≤ xwOp4 w && xwOp4 w < 464))

/-- A named v register is at or beyond VREGS (06 R150). -/
def vregBad (q : Req) (e : Env) : Bool := q.vregs.any (fun n => pkVregs e.la.pkt ≤ n)

def clsMax : CntClass → Nat
  | .none => 0 | .ld => 64 | .st => 64 | .cp => 16 | .tl => 32
def clsCount (c : Ctx) : CntClass → Nat
  | .none => 0 | .ld => c.nLd | .st => c.nSt | .cp => c.nCp | .tl => c.nTl
/-- The class is at its maximum (07 R170). -/
def clsFull (q : Req) (c : Ctx) : Bool := q.cls ≠ .none && clsMax q.cls ≤ clsCount c q.cls

/-- A slot of the wait mask is busy (07 R173). -/
def slotsBusy (q : Req) (g : Group) : Bool := g.slots &&& q.waitm ≠ 0
/-- A held instruction of the region sets a slot that the mask names (11 R333). -/
def ownSlot (q : Req) (r : Region) : Bool :=
  (heldOf r.items).any (fun h => match heldSlot h with | some k => q.waitm.getLsbD k | none => false)

/-- Lanes that receive zero: cleared by XMASK under an extension word with ZERO = 1 (07 R177). -/
def zeroLanes (e : Env) : List Nat :=
  match e.word with
  | some w => if xwZero w then lanesOf (e.norm &&& ~~~e.exec) else []
  | none => []

/-- The shadows that the instruction needs: none when it writes in no lane. -/
def needs (q : Req) (e : Env) : List Nat :=
  if q.uniform || e.exec ≠ 0 || !(zeroLanes e).isEmpty then q.shadows else []

/-- No room for the instruction in the region's buffers (07 R198). A barrier operation takes a place of the holding queue
(log entry 73). -/
def noRoom (q : Req) (e : Env) (r : Region) : Bool :=
  64 < r.shadows.length + ((needs q e).filter (fun i => !r.shadows.contains i)).length
  || (q.sbuf && 64 ≤ (storesOf r.items).length) || (q.held && 16 ≤ (heldOf r.items).length)

/-- Poison of the halves of a register that a read consumes (18 R425, R426). -/
def poisonOf (e : Env) (sp : Spec) (halves : BitVec 2) (lane : Nat) : BitVec 2 :=
  match operandOf sp with
  | .vreg n => vPoisonSeen e n lane &&& halves
  | .greg n => agetD e.c.r.gpoison 0 n &&& halves
  | _ => 0

/-- The lanes in which operands are consumed: the executing set, or lane 0 once on the uniform path. -/
def readLanes (q : Req) (e : Env) : List Nat := if q.uniform then [0] else lanesOf e.exec

/-- Code of the record (18 Table 18-3): the first poisoned register that a lane consumes, in the order of the operands. The
spec names no order: the model's choice (log entry 76). -/
def poisonIn (q : Req) (e : Env) (lane : Nat) : Option Word :=
  ((q.reads e lane).find? (fun x => poisonOf e x.1 x.2.1 x.2.2 ≠ 0)).map (fun x =>
    BitVec.ofNat 32 (x.1.toNat + (if (poisonOf e x.1 x.2.1 x.2.2).getLsbD 0 then 0 else 65536)))

/-- The lowest consuming lane and the code (18 R427). -/
def poisonHit (q : Req) (e : Env) : Option (Nat × Word) :=
  (readLanes q e).findSome? (fun l => (poisonIn q e l).map (fun w => (l, w)))

/-- The context may issue: it runs, or waits in a barrier instruction whose wait it tries again. -/
def mayIssue (e : Env) : Bool :=
  !e.co.saved && !e.co.saving && !e.la.aborted && e.c.fault.isNone && (match e.c.region with | some r => !r.ended | none => true)
  && e.c.drain.isEmpty
  && (match e.c.status with | .running => true | .barEnd => true | .waitBar .. => true | _ => false)

/-- Adds of the context are under way: the stores of its older regions are not all performed (09 R271; 16 R399). -/
def addsLeft (s : State) (key : Nat) : Bool := s.redsts.any (fun p => p.2.owners.contains key)

/-- The instruction would act on memory before older adds of its context: it waits (15 R369). -/
def addsFirst (q : Req) (e : Env) (s : State) : Bool :=
  addsLeft s e.key && (match e.c.region with | some r => r.nonspec | none => q.stall || 4 ≤ e.c.same)

/-- What stands in the way of an instruction: the state after the step in which it does not act, in the order of
06 Table 6-18, 07 Table 7-1, R197 and R198; none when it acts. The ILLEGAL_ENCODING of an extension word stands with that of
the encoding (log entry 72). -/
def blocked (i : Instr) (q : Req) (e : Env) (s : State) : Option State :=
  if !mayIssue e || addsFirst q e s then some s
  else if !encodingOk i || wordBad q e || vregBad q e then
    some (trapE s e (plainTrap cIllegalEncoding (ePc e)))
  else if e.c.r.pblk.isSome && (!q.gov || q.uniform) then some (trapE s e (plainTrap cPblkMisuse (ePc e)))
  else if q.priv && !(viOf s (eVi e)).priv then some (trapE s e (plainTrap cPrivileged (ePc e)))
  else
    match e.c.region with
    | some r =>
      if q.stall || noRoom q e r then some (endRegion s e.key)
      else if slotsBusy q e.g then some (if ownSlot q r then endRegion s e.key else s)
      else if clsFull q e.c then some s
      else
        match poisonHit q e with
        | some h => some (trapE s e { plainTrap cRegfile (ePc e) with lane := h.1, code := h.2 })
        | none => none
    | none =>
      if slotsBusy q e.g || clsFull q e.c then some s
      else
        match poisonHit q e with
        | some h => some (trapE s e { plainTrap cRegfile (ePc e) with lane := h.1, code := h.2 })
        | none => none

/-- The environment with a region open and the shadows of the instruction taken. -/
def openedEnv (q : Req) (s : State) (e : Env) : Env :=
  if q.stall || q.bare then e
  else
    let c := opened (viOf s (eVi e)).ovt e.c
    { e with c := { c with region := c.region.map (fun r =>
      { r with shadows := (needs q e).foldl (fun l i => if l.contains i then l else i :: l) r.shadows }) } }

/-- Issue an instruction: its effect `act` runs on the environment and on the state in which its region is open. -/
def issue (i : Instr) (q : Req) (act : Env → State → State) (s : State) : Host.Outcome State Fault Refusal :=
  match envOf s with
  | none => .fault .noContext
  | some e =>
    match blocked i q e s with
    | some s' => .next s'
    | none =>
      let e' := openedEnv q s e
      .next (act e' (setCtx s e.key e'.c))

/-! ## Common endings of an effect -/

/-- Making room in the snoop filter for a line that the context needs has rolled back the region that it had open: what it
was about to do did not happen (16 R383, R387, R388). -/
def regionLost (s : State) (key : Nat) (c : Ctx) : Bool :=
  c.region.isSome && (match aget s.ctxs key with | some c' => c'.region.isNone | none => true)
/-- Go on with an effect unless the region of its instruction has been rolled back. -/
def unlessLost (s : State) (e : Env) (f : State → State) : State := if regionLost s e.key e.c then s else f s

/-- Update the registers and go to the next slot. -/
def finish (s : State) (e : Env) (f : CtxRegs → CtxRegs) : State := modRegs s e.key (fun r => advance (f r))

/-- The words that a lane-wise instruction writes into v register n: `val` in the executing lanes, zero in the cleared
ones. -/
def laneWords (e : Env) (n : Nat) (val : Nat → Word) : List (Nat × Word) :=
  (lanesOf e.exec).map (fun l => (64 * n + l, val l)) ++ (zeroLanes e).map (fun l => (64 * n + l, (0 : Word)))

/-- Write destination D, the cleared lanes of an extension word with ZERO = 1 among it, also for an empty executing set (log
entry 74): a v register in each executing lane, a g register once (`val 0`), or nothing for 510. -/
def writeD (s : State) (e : Env) (d : Spec) (val : Nat → Word) : State :=
  match operandOf d with
  | .vreg n => finish (writeV s e.key 3 (laneWords e n val)) e id
  | .greg n => finish s e (fun r => putG r n (val 0))
  | _ => finish s e id

/-- A mask written lane by lane: bits of lanes outside the executing set stay, cleared lanes become 0 (08 R216). -/
def mergeMask (e : Env) (old : LaneMask) (bit : Nat → Bool) : LaneMask :=
  let m := (lanesOf e.exec).foldl (fun m l => setBit m l (bit l)) old
  (zeroLanes e).foldl (fun m l => setBit m l false) m

end Sys2Proof.Machine
end

