-- ==== Sys2Proof/Machine/SpecialFn.lean ====
section
/-!
DEFINITION. The special functions of MAJ 0x04 as numbers (08 R227 to R230, R490): exact values, or values exact to at
least 100 bits with a last bit that says the rest is not zero, so that one rounding gives the rounding of the exact
value (log entry 12).
-/

namespace Sys2Proof.Machine

/-- Fixed point: units of 2^-128. -/
def fixOne : Nat := 2 ^ 128
/-- ln 2, log2 e and π / 2 in units of 2^-128. -/
def fixLn2 : Nat := 0xb17217f7d1cf79abc9e3b39803f2f6af
def fixLog2e : Nat := 0x171547652b82fe1777d0ffda0d23a7d11
def fixHalfPi : Nat := 0x1921fb54442d18469898cc51701b839a2

/-- A value just above ± m × 2^e: the rest is not zero. -/
def sticky (neg : Bool) (m : Nat) (e : Int) : Num := .fin neg (2 * m + 1) (e - 1)
/-- A value just below ± m × 2^e in magnitude. -/
def stickyBelow (neg : Bool) (m : Nat) (e : Int) : Num := .fin neg (2 * m - 1) (e - 1)

/-- Integer square root by binary digits: `n` digits, highest first. -/
def isqrtGo (x : Nat) : Nat → Nat → Nat
  | 0, r => r
  | n + 1, r =>
    let c := r + 2 ^ n
    isqrtGo x n (if c * c ≤ x then c else r)
def isqrt (x : Nat) : Nat := isqrtGo x (Nat.log2 x / 2 + 1) 0

/-- 1 / a for a finite a other than zero. -/
def rcpVal (neg : Bool) (m : Nat) (e : Int) : Num :=
  let k := Nat.log2 m + 64
  let q := 2 ^ k / m
  if 2 ^ k % m = 0 then .fin neg q (-(k : Int) - e) else sticky neg q (-(k : Int) - e)

/-- √a for a positive a. -/
def sqrtVal (m : Nat) (e : Int) : Num :=
  let k : Int := if e % 2 = 0 then 128 else 129
  let x := m * 2 ^ k.toNat
  let r := isqrt x
  if r * r = x then .fin false r ((e - k) / 2) else sticky false r ((e - k) / 2)

/-- 1 / √a for a positive a. -/
def rsqVal (m : Nat) (e : Int) : Num :=
  let k : Int := 2 * (Nat.log2 m + 128 : Nat) + (if e % 2 = 0 then 0 else 1)
  let x := 2 ^ k.toNat / m
  let r := isqrt x
  if r * r = x && 2 ^ k.toNat % m = 0 then .fin false r ((-e - k) / 2) else sticky false r ((-e - k) / 2)

/-- Σ y^k / k! over `n` terms, y in units of 2^-128, from term `t` of index k. -/
def expTerms (y : Nat) : Nat → Nat → Nat → Nat
  | 0, _, _ => 0
  | n + 1, k, t => t + expTerms y n (k + 1) (t * y / (fixOne * (k + 1)))
/-- 2^f for f in units of 2^-128, below 1. -/
def fixExp2 (f : Nat) : Nat := expTerms (f * fixLn2 / fixOne) 40 0 fixOne

/-- 2^(x / 2^128) for a value that is not an integer. -/
def exp2Fix (x : Int) : Num := sticky false (fixExp2 (x % (fixOne : Int)).toNat) (x / (fixOne : Int) - 128)

/-- ± m × 2^e in units of 2^-128, rounded down. -/
def toFix (neg : Bool) (m : Nat) (e : Int) : Int :=
  let k := e + 128
  if 0 ≤ k then signedMant neg (m * 2 ^ k.toNat) else signedMant neg m / (2 ^ (-k).toNat : Nat)

/-- Whether m × 2^e is an integer. -/
def isIntegral (m : Nat) (e : Int) : Bool := 0 ≤ e || m % 2 ^ (-e).toNat = 0
/-- The magnitude is at least 2^k. -/
def magAtLeast (m : Nat) (e : Int) (k : Nat) : Bool := m ≠ 0 && (k : Int) ≤ (Nat.log2 m : Int) + e

/-- 2^a for a finite a. -/
def exp2Val (neg : Bool) (m : Nat) (e : Int) : Num :=
  if magAtLeast m e 12 then (if neg then .fin false 1 (-4096) else .fin false 1 4096)
  else if isIntegral m e then .fin false 1 (toFix neg m e / (fixOne : Int))
  else exp2Fix (toFix neg m e)

/-- Digits of log2 x by repeated squaring, x in units of 2^-160 in [1, 2). -/
def log2Digits : Nat → Nat → Nat → Nat
  | 0, _, d => d
  | n + 1, x, d =>
    let y := x * x / 2 ^ 160
    if y ≥ 2 ^ 161 then log2Digits n (y / 2) (2 * d + 1) else log2Digits n y (2 * d)

/-- log2 a for a positive a. -/
def log2Val (m : Nat) (e : Int) : Num :=
  let l := Nat.log2 m
  let i : Int := l + e
  if m = 2 ^ l then numOfInt i
  else
    let d := log2Digits 120 (m * 2 ^ 160 / 2 ^ l) 0
    if 0 ≤ i then sticky false (i.toNat * 2 ^ 120 + d) (-120)
    else stickyBelow true ((-i).toNat * 2 ^ 120 - d) (-120)

/-- Σ (−1)^k θ^2k / (2k+1)! from term `t` of index k, `sq` = θ². -/
def sincTerms (sq : Nat) : Nat → Nat → Nat → Int
  | 0, _, _ => 0
  | n + 1, k, t => (t : Int) - sincTerms sq n (k + 1) (t * sq / (fixOne * ((2 * k + 2) * (2 * k + 3))))

/-- sin(π/2 × t / 2^d), 0 < t ≤ 2^d. -/
def sinQuarter (neg : Bool) (t d : Nat) : Num :=
  if t = 2 ^ d then .fin neg 1 0
  else
    let th := t * fixHalfPi / 2 ^ d
    let s := sincTerms (th * th / fixOne) 36 0 fixOne
    sticky neg (t * fixHalfPi * s.toNat) (-(d : Int) - 256)

/-- sin(2π a) for a = m × 2^e ≥ 0, or cos(2π a) (08 R230: the argument is reduced exactly). -/
def turnVal (cos : Bool) (m : Nat) (e : Int) : Num :=
  let d := (-e).toNat
  let r := (if 0 ≤ e then 0 else m % 2 ^ d) * 4
  let q := (r / 2 ^ d + (if cos then 1 else 0)) % 4
  let t := r % 2 ^ d
  match q with
  | 0 => if t = 0 then .fin false 0 0 else sinQuarter false t d
  | 1 => sinQuarter false (2 ^ d - t) d
  | 2 => if t = 0 then .fin false 0 0 else sinQuarter true t d
  | _ => sinQuarter true (2 ^ d - t) d

/-- tanh a for a finite a other than zero. -/
def tanhVal (neg : Bool) (m : Nat) (e : Int) : Num :=
  if magAtLeast m e 6 then stickyBelow neg (2 ^ 120) (-120)
  else if !magAtLeast m (e + 24) 0 then stickyBelow neg (m * 2 ^ 40) (e - 40)
  else
    -- 1 − 2 / (E + 1) with E = e^(2|a|) = 2^(2|a| log2 e)
    let x := toFix false m e * 2 * (fixLog2e : Int) / (fixOne : Int)
    match exp2Fix x with
    | .fin _ em ee =>
      let big := em * 2 ^ (ee + 140).toNat
      sticky neg ((big - 2 ^ 140) * 2 ^ 128 / (big + 2 ^ 140)) (-128)
    | _ => .nan

/-- The exact value of function `fn` (Table 8-11, by FN), with the special operands of Table 8-12. -/
def specialVal (fn : Nat) (a : Num) : Num :=
  match fn, a with
  | _, .nan => .nan
  | 0, .inf n => .fin n 0 0
  | 0, .fin n m e => if m = 0 then .inf n else rcpVal n m e
  | 1, .inf n => if n then .nan else .fin false 0 0
  | 1, .fin n m e => if m = 0 then .inf n else if n then .nan else rsqVal m e
  | 2, .inf n => if n then .nan else .inf false
  | 2, .fin n m e => if m = 0 then .fin n 0 0 else if n then .nan else sqrtVal m e
  | 3, .inf n => if n then .fin false 0 0 else .inf false
  | 3, .fin n m e => exp2Val n m e
  | 4, .inf n => if n then .nan else .inf false
  | 4, .fin n m e => if m = 0 then .inf true else if n then .nan else log2Val m e
  | 5, .inf _ => .nan
  | 5, .fin n m e =>
    if m = 0 then .fin n 0 0
    else match turnVal false m e with
      | .fin _ 0 _ => .fin false 0 0
      | x => if n then numNeg x else x
  | 6, .inf _ => .nan
  | 6, .fin _ m e => turnVal true m e
  | _, .inf n => .fin n 1 0
  | _, .fin n m e => if m = 0 then .fin n 0 0 else tanhVal n m e

/-- A faithful FP32 result: one of the two values that bracket the exact one, or the exact one (08 R227). -/
def faithful (fn : Nat) (ovt : Word) (x : Num) : Nat :=
  match x with
  | .fin neg m e =>
    let lo := roundIeee 0 1 ovt false m e
    let s := if neg then signBit 0 else 0
    match ieeeVal 0 lo with
    | .fin _ ml el =>
      let c := min el e
      let rest := m * 2 ^ (e - c).toNat - ml * 2 ^ (el - c).toNat
      if rest = 0 then s + lo
      else if Nat.min (Config.faithfulCut fn lo) (2 ^ 64) ≤ rest * 2 ^ 64 / 2 ^ (el - c).toNat then
        (if lo + 1 < infBits 0 then s + (lo + 1) else overflow ovt 0 neg)
      else s + lo
    | _ => s + lo
  | x => roundTo 0 0 ovt x

/-- FP32 `sin` or `cos`: the device's own value where it meets the bound, else the nearest value; exact results stay
exact, a zero result is +0 (08 R230). `x` is the exact value for the magnitude `bits` of the operand. -/
def trigFp32 (fn : Nat) (bits : Nat) (ovt : Word) (neg : Bool) (x : Num) : Nat :=
  let near := roundTo 0 0 ovt x
  let own := (Config.trigResult fn (BitVec.ofNat 32 bits)).toNat
  let ok :=
    match ieeeVal 0 own, x with
    | .fin no mo eo, .fin nx mx ex =>
      let c := min (min eo ex) (-22)
      let d := signedMant no (mo * 2 ^ (eo - c).toNat) - signedMant nx (mx * 2 ^ (ex - c).toNat)
      decide (d.natAbs ≤ 2 ^ (-22 - c).toNat)
    | _, _ => false
  let exact := match x with
    | .fin _ m _ => m ≤ 1
    | _ => true
  let y := if !exact && ok then own else near
  if y % signBit 0 = 0 then 0
  else if neg then (y + signBit 0) % (2 * signBit 0)
  else y

/-- The encoding that function `fn` gives in format `f` for an operand value (08 Table 8-11). -/
def specialFn (fn f mode : Nat) (ovt : Word) (a : Num) : Nat :=
  let x := specialVal fn a
  match fn with
  | 0 | 2 => roundTo f mode ovt x
  | 5 | 6 =>
    if f = 0 then
      match a with
      | .fin n m e =>
        if m = 0 then roundTo f 0 ovt x
        else trigFp32 fn (roundIeee 0 0 ovt false m e) ovt (fn = 5 && n) (specialVal fn (.fin false m e))
      | _ => roundTo f 0 ovt x
    else roundTo f 0 ovt x
  | _ => if f = 0 then faithful fn ovt x else roundTo f 0 ovt x

end Sys2Proof.Machine
end

