-- ==== Sys2Proof/Machine/Operands.lean ====
section
/-!
DEFINITION. Operand values: inline constants (06 R155, R156), registers and IMM32, containers (03 R58, 08 R207), the
rounding mode (03 R74), and the requests to the issue stage of the Format A shapes.
-/

namespace Sys2Proof.Machine

/-! ## Inline constants -/

/-- The value of a float constant (06 Table 6-14); the irrational ones to more than 100 bits. -/
def floatConst (n : Nat) : Num :=
  match n with
  | 496 => .fin false 1 (-1)
  | 497 => .fin true 1 (-1)
  | 498 => .fin false 1 0
  | 499 => .fin true 1 0
  | 500 => .fin false 1 1
  | 501 => .fin true 1 1
  | 502 => .fin false 1 2
  | 503 => .fin true 1 2
  | 504 => .fin false 1 (-2)
  | 505 => sticky false fixLn2 (-128)
  | 506 => sticky false fixLog2e (-128)
  | 507 => sticky false fixHalfPi (-127)
  | 508 => sticky false 0x28be60db9391054a7f09d5f47d4d3770 (-128)
  | _ => .inf false

/-- The value of an integer constant (06 Table 6-14). -/
def intConst (n : Nat) : Int := if n < 480 then (n : Int) - 448 else 479 - (n : Int)

/-- The element that a constant delivers in a format (06 Table 6-15): RNE, no overflow table. -/
def constElem (f n : Nat) : Nat :=
  if n < 496 then
    if fmtInt f then wrapBits f (intConst n) else roundTo f 0 0 (numOfInt (intConst n))
  else if fmtT f then
    match floatConst n with
    | .inf _ => tSign f
    | x => roundTo f 0 0 x
  else roundTo (if fmtInt f then 0 else f) 0 0 (floatConst n)

/-! ## Containers (03 R58, 08 R207) -/

/-- Container j of a word in format f. -/
def elem (f : Nat) (w : Word) (j : Nat) : Nat := w.toNat / 2 ^ (elemBits f * j) % 2 ^ elemBits f

/-- A word with element `g j` in each container j. -/
def mapElems (f : Nat) (g : Nat → Nat) : Word :=
  BitVec.ofNat 32 ((List.range (nc f)).foldl (fun acc j => acc + (g j % 2 ^ elemBits f) * 2 ^ (elemBits f * j)) 0)

/-- Element 0 and zeros above (08 R207). -/
def loneElem (x : Nat) : Word := BitVec.ofNat 32 x

/-- The word that a constant delivers, in every container of the register (06 R156). -/
def constWord (f n : Nat) : Word := mapElems f (fun _ => constElem f n)

/-! ## Operands -/

/-- The 32 bits of a source operand in a lane, read as format `rt` (06 Tables 6-13 and 6-15). -/
def opWord (e : Env) (rt : Nat) (imm : Word) (sp : Spec) (lane : Nat) : Word :=
  match operandOf sp with
  | .vreg n => vAt e.fr n lane
  | .greg n => gAt e.c.r n
  | .const n => constWord rt n
  | .imm => imm
  | _ => 0

/-- The 64-bit value of the pair that a specifier names; 0 for 510 (06 R152). -/
def opPair (e : Env) (sp : Spec) (lane : Nat) : Word64 :=
  match operandOf sp with
  | .vreg n => vAt e.fr (n + 1) lane ++ vAt e.fr n lane
  | .greg n => gPair e.c.r n
  | _ => 0

/-- The number K that 448 + K names (06 R154). -/
def kOf (sp : Spec) : Nat := sp.toNat - 448

/-- mode(): the rounding mode in force (03 R74). -/
def modeOf (e : Env) : Nat :=
  let d := (e.c.r.fmt.extractLsb' 14 3).toNat
  let d := if d = 7 then 0 else d
  match e.word with
  | some w => if xwRnd w = 7 then d else xwRnd w
  | none => d

/-- SAT or XSAT (08 R208). -/
def satOf (e : Env) (sat : Bool) : Bool := sat || (match e.word with | some w => xwSat w | none => false)

/-- The mask that OP4 names, all ones when it names none (08 R216). -/
def op4Mask (e : Env) : LaneMask :=
  match e.word with
  | some w => if xwOp4 w = 510 then BitVec.allOnes 64 else maskOf e.c.r (xwOp4 w - 448)
  | none => BitVec.allOnes 64

/-! ## Requests of the Format A shapes -/

/-- v registers among specifiers. -/
def vregsOf (sps : List Spec) : List Nat :=
  sps.filterMap (fun sp => match operandOf sp with | .vreg n => some n | _ => none)
/-- The shadow of a destination (07 R198). -/
def shadowOf (d : Spec) : List Nat :=
  match operandOf d with
  | .vreg n => [n]
  | .greg n => [256 + n]
  | _ => []
/-- Registers read in their own lane. -/
def ownReads (srcs : List (Spec × BitVec 2)) : Env → Nat → List (Spec × BitVec 2 × Nat) :=
  fun _ l => srcs.map (fun x => (x.1, x.2, l))
/-- The halves that hold container 0 of a format (18 Table 18-11). -/
def half0 (f : Nat) : BitVec 2 := if elemBits f = 32 then 3 else 1
/-- The half that holds container j of a format. -/
def halfOf (f j : Nat) : BitVec 2 := if elemBits f = 32 then 3 else if elemBits f * j < 16 then 1 else 2

/-- A lane-wise instruction, or a uniform one, with destination D and sources. -/
def reqA (uniform : Bool) (d : Spec) (srcs : List (Spec × BitVec 2)) : Req :=
  { uniform := uniform, word := true, vregs := vregsOf (d :: srcs.map (·.1)), reads := ownReads srcs,
    shadows := shadowOf d }

/-- A lane-wise instruction that writes a mask. -/
def reqMask (srcs : List (Spec × BitVec 2)) : Req :=
  { word := true, op4 := true, vregs := vregsOf (srcs.map (·.1)), reads := ownReads srcs }

/-- A group-scope instruction (08 R205). -/
def reqGroup (srcs : List (Spec × BitVec 2)) : Req :=
  { vregs := vregsOf (srcs.map (·.1)), reads := ownReads srcs }

/-- The effect of a group-scope instruction: it acts only when its executing set is not empty (08 R205). -/
def groupDo (e : Env) (s : State) (f : CtxRegs → CtxRegs) : State :=
  finish s e (fun r => if e.exec = 0 then r else f r)

end Sys2Proof.Machine
end

