-- ==== Sys2Proof/Machine/StoreBuffer.lean ====
section
/-!
DEFINITION. The store buffer and the memory side of an access: forwarding (09 R264), performing an entry (R279 to R281;
16 R399), what a load or a store waits for (16 R390, R397 to R399, R405), read and write sets (16 R397, R398), and the
memory access traps of 09 Table 9-7.
-/

namespace Sys2Proof.Machine

/-! ## Entries -/

/-- Put scratchpad cells into a cohort. -/
def putScratch (s : State) (tag : Nat) (cells : List Host.Cell) : State :=
  modCohort s tag (fun co => { co with sp := cells.foldl (fun m c => asetD m 0 c.1 c.2) co.sp })

/-- The state as its own context sees it, one pending entry later (09 R264). -/
def showEntry (tag : Nat) (s : State) : StoreEntry → State
  | .mem cells _ => writeCells s cells
  | .scratch cells => putScratch s tag cells
  | .coord es => (elemsLeft es).foldl (fun s e => writeCells s (elemNow s e)) s
  | .layout _ => s

/-- Stores of a context that are still in its buffer, oldest first. -/
def pending (c : Ctx) : List StoreEntry :=
  storesOf (c.drain ++ regionItems c)

/-- The state that the executing context's loads see: its own pending stores lie over what its die sees (09 R264; 15
R375). -/
def seen (s : State) (e : Env) : State :=
  (pending e.c).foldl (showEntry (eTag e)) (dieSees s (eDie e))

/-- Physical addresses of the bytes of the context's own pending stores. -/
def ownBytes (s : State) (e : Env) : List Nat :=
  (pending e.c).flatMap (fun en => match en with
    | .mem cells _ => cells.map (·.1)
    | .coord es => (elemsLeft es).flatMap (fun x => (elemNow s x).map (·.1))
    | _ => [])
/-- Lines and elements of the context's own pending coordinate stores. -/
def ownElems (e : Env) : List (Nat × Nat) :=
  (pending e.c).flatMap (fun en => match en with
    | .coord es => (elemsLeft es).map (fun x => (lineOf x.pa, x.ix))
    | _ => [])
/-- All `n` bytes from `pa` come from the context's own stores. -/
def forwarded (own : List Nat) (pa n : Nat) : Bool := (List.range n).all (fun k => own.contains (pa + k))

/-- The elements of a coordinate store that are performed next: the plain writes, then the transposed ones (09 R278). -/
def elemsNext (es : List ElemStore) : List ElemStore :=
  if es.any (fun e => e.part = 0) then es.filter (fun e => e.part = 0) else es.filter (fun e => e.part = 1)
/-- The store once those are performed. -/
def elemsDone (es : List ElemStore) : List ElemStore :=
  es.map (fun e => if (elemsNext es).contains e then { e with part := 2 } else e)

/-- Some element's band is moving or about to decide (09 R280). -/
def entryBusy (s : State) : StoreEntry → Bool
  | .coord es => (elemsNext es).any (fun e => bandBusy s e.key)
  | _ => false
/-- Some element was translated under another version (09 R280). -/
def entryStale (s : State) : StoreEntry → Bool
  | .coord es => (elemsNext es).any (elemStale s)
  | _ => false
/-- The bands to which an entry goes. -/
def entryKeys : StoreEntry → List Nat
  | .coord es => distinct (es.map (·.key))
  | _ => []

/-- The operation reaches the monitor of its band and waits its turn there (13 R360). -/
def giveLayout (s : State) (op : LayoutOp) : State :=
  let m := bandAt s op.band
  let s := putBand s op.band { m with queue := m.queue ++ [op] }
  later s (match op.kind with | 0 => .pinApply op.band | 1 => .unpinApply op.band | _ => .adviceApply op.band)

/-- Perform one element of a coordinate store, at the place to which it was translated. -/
def performElem (s : State) (key core vi : Nat) (e : ElemStore) : State :=
  performCells s (some key) (some core) vi (markFill s vi [e.mark])
    (elemCells (dieSees s (dieOfCore core)) (recFormat e.hrec) e.pa e.ix e.value) [e.mark] false

/-- The elements of a write of a coordinate store: band key, band index, x, y. -/
def placedElems (es : List ElemStore) : List (Nat × Nat × Nat × Nat) := es.map (fun e => (e.key, e.band, e.x, e.y))

/-- A store whose lanes write every byte of a line clears its poison (16 R396). -/
def coordClears (s : State) (es : List ElemStore) : State :=
  let cells := (es.filter (fun e => e.part ≠ 3)).flatMap (elemNow s)
  (cellLines cells).foldl (fun s l => if coversLine cells l then clearPoison s l else s) s

/-- Perform the next writes of a coordinate store, the plain or the transposed ones: a band access (09 R278; 13 R344,
R346). -/
def performCoord (s : State) (key core vi : Nat) (es : List ElemStore) : State :=
  let next := elemsNext es
  let s := next.foldl (fun s e => performElem s key core vi e) s
  let s := if (elemsLeft (elemsDone es)).isEmpty then coordClears s es else s
  match next with
  | [] => s
  | e :: _ => bandAccesses s vi e.hrec (placedElems next)

/-- What is left of an entry once its next writes are performed. -/
def entryRest : StoreEntry → Option StoreEntry
  | .coord es => if (elemsLeft (elemsDone es)).isEmpty then none else some (.coord (elemsDone es))
  | _ => none

/-- Perform an entry of a context's store buffer, of a coordinate store the next writes; `core` is the core whose die
performs it. -/
def performEntry (s : State) (key core vi : Nat) (en : StoreEntry) : State :=
  match en with
  | .mem cells marks => performCells s (some key) (some core) vi (markFill s vi marks) cells marks true
  | .scratch cells => writeScratch s (tagOf s key) (some key) cells
  | .coord es => performCoord s key core vi es
  | .layout ops => ops.foldl giveLayout s

/-- The operation leaves its class count (07 Table 7-3; 13 R360). -/
def countDone (c : Ctx) : StoreEntry → Ctx
  | .mem .. | .scratch .. => { c with nSt := c.nSt - 1 }
  | .coord .. => { c with nTl := c.nTl - 1 }
  | .layout .. => c

/-! ## What an access waits for -/

/-- The lines that an access of the context needs are owned by an engine, locked, or waited for at their homes (16 R384,
R390, R399). -/
def linesBusy (s : State) (e : Env) (getm : Bool) (f : Nat → Fill) (lines : List Nat) : Bool :=
  lines.any (fun l => (engineOwner s l).isSome || storeLock s [e.key] l) || linesWait s (eDie e) getm f lines

/-- A load of these lines has to wait (16 R384, R390, R397, R399). -/
def loadWaits (s : State) (e : Env) (f : Nat → Fill) (lines : List Nat) : Bool :=
  let mine (l : Nat) : Bool := match e.c.region with | some r => r.nonspec || r.reads.contains l | none => true
  linesBusy s e false f lines || lines.any (fun l => !mine l && 4 ≤ readerTags s e.key l)

/-- A store to these lines has to wait (16 R384, R390, R399, R405). -/
def storeWaits (s : State) (e : Env) (f : Nat → Fill) (lines : List Nat) : Bool :=
  linesBusy s e true f lines || !(holders s (some e.key) lines).isEmpty

/-- The state while an access waits: recalls and requests are sent, and the end of a line hold is due (16 R384, R390,
R405). -/
def waiting (s : State) (e : Env) (f : Nat → Fill) (lines : List Nat) (claim : Bool) : State :=
  let s := askLines (recallAll s lines) (eDie e) claim f lines
  if claim then expireHolds s (some e.key) lines else s

/-! ## Read and write sets -/

def addNew (l : List Nat) (xs : List Nat) : List Nat := xs.foldl (fun l x => if l.contains x then l else l ++ [x]) l

/-- A load has read these lines (16 R397); a non-speculative load joins no read set (R404). -/
def joinReads (s : State) (e : Env) (f : Nat → Fill) (lines : List Nat) : State :=
  let s := lines.foldl (fun s l => coreShared s (eCore e) (f l) l) s
  modCtx s e.key (fun c => { c with region := c.region.map (fun r =>
    if r.nonspec then r else { r with reads := addNew r.reads lines }) })

/-- A load has read these scratchpad granules (09 R260). -/
def joinGranules (s : State) (e : Env) (gs : List Nat) : State :=
  modCtx s e.key (fun c => { c with region := c.region.map (fun r =>
    if r.nonspec then r else { r with granules := addNew r.granules gs }) })

/-- A store claims its lines: other regions that hold them roll back (16 R398, R400). -/
def claimLines (s : State) (e : Env) (f : Nat → Fill) (lines : List Nat) : State :=
  let s := lines.foldl (fun s l => coreOwn s (some e.key) (some (eCore e)) (f l) l) s
  modCtx s e.key (fun c => { c with region := c.region.map (fun r =>
    if r.nonspec then r else { r with writes := addNew r.writes lines }) })

/-- Put an entry into the store buffer of the region, counted in its class (09 R264, 07 R170). -/
def pushEntry (c : Ctx) (en : StoreEntry) : Ctx :=
  let st := match en with | .mem .. | .scratch .. => 1 | _ => 0
  let tl := match en with | .coord .. => 1 | _ => 0
  { c with nSt := c.nSt + st, nTl := c.nTl + tl, region := c.region.map (fun r =>
    { r with items := r.items ++ [.store en], nSt := r.nSt + st, nTl := r.nTl + tl }) }

/-- The region of the context runs non-speculatively (16 R404). -/
def isNonspec (e : Env) : Bool := match e.c.region with | some r => r.nonspec | none => false

/-- The writes of a store that a non-speculative region has still to perform stay in the buffer, and nothing of the context
issues before they are done. -/
def keepRest (s : State) (key : Nat) (en : StoreEntry) : State :=
  match entryRest en with
  | some r => laterOnce (modCtx s key (fun c => { c with nTl := c.nTl + 1, drain := [.store r] })) (.regionCommit key)
  | none => s

/-- Issue a store: it waits in the store buffer until commit (07 R200), or is performed at once in a non-speculative
region (16 R404). -/
def storeEntry (s : State) (e : Env) (en : StoreEntry) : State :=
  if isNonspec e then keepRest (performEntry s e.key (eCore e) (eVi e) en) e.key en
  else modCtx s e.key (fun c => pushEntry c en)

/-! ## Traps of address-based accesses (09 R262, Table 9-7) -/

/-- The translated accesses of lanes. -/
def laneXlats (s : State) (e : Env) (ls : List Nat) (addr : Nat → Word64) : List (Nat × Xlat) :=
  ls.filterMap (fun l => match translate s (eCore e) (eVi e) (addr l) with
    | .ok x => some (l, x)
    | .error _ => none)

/-- MISALIGNED of the first misaligned lane. -/
def alignTrap (e : Env) (kind size : Nat) (ls : List Nat) (addr : Nat → Word64) : Option TrapInfo :=
  ls.findSome? (fun l => if (addr l).toNat % size = 0 then none
    else some (accessTrap cMisaligned l kind 0 (addr l) (ePc e)))
def xlatTrap (s : State) (e : Env) (kind : Nat) (ls : List Nat) (addr : Nat → Word64) : Option TrapInfo :=
  ls.findSome? (fun l => match translate s (eCore e) (eVi e) (addr l) with
    | .error lv => some (accessTrap cTranslationFault l kind lv (addr l) (ePc e))
    | .ok _ => none)
/-- `sv` is the state that the context's loads see; a read needs a good block tag (09 R285). -/
def pageTrap (s sv : State) (e : Env) (a : Access) (reads : Bool) (kind size : Nat) (addr : Nat → Word64)
    (xs : List (Nat × Xlat)) : Option TrapInfo :=
  xs.findSome? (fun p =>
    if pageRefuses (viOf s (eVi e)).desc a p.2 || (reads && (readXlat sv p.2 size).isNone)
    then some (accessTrap cProtection p.1 kind 0 (addr p.1) (ePc e)) else none)
/-- A load that takes every byte from the context's own stores reads no line (09 R264). -/
def poisonTrap (s sv : State) (e : Env) (kind size : Nat) (addr : Nat → Word64) (xs : List (Nat × Xlat)) :
    Option TrapInfo :=
  let own := ownBytes s e
  xs.findSome? (fun p =>
    if (linesRead sv p.2 size).any (isPoisoned s) && !(forwarded own p.2.pa size)
    then some (accessTrap cPoisonConsumed p.1 kind 0 (addr p.1) (ePc e)) else none)

/-- The first trap of an address-based access, but for poison: a line that is held elsewhere is waited for before its poison
is met (16 R390, R399). -/
def addrTrap (s sv : State) (e : Env) (a : Access) (reads : Bool) (kind size : Nat) (ls : List Nat)
    (addr : Nat → Word64) : Option TrapInfo :=
  (alignTrap e kind size ls addr).orElse (fun _ =>
  (xlatTrap s e kind ls addr).orElse (fun _ =>
  pageTrap s sv e a reads kind size addr (laneXlats s e ls addr)))

/-- Cache the translations of an instruction. -/
def fillAll (s : State) (e : Env) (addr : Nat → Word64) (xs : List (Nat × Xlat)) : State :=
  xs.foldl (fun s p => tlbFill s (eCore e) (eVi e) (addr p.1) p.2) s

/-- The end of a stalling instruction: a new region opens at the next slot, with its copy of the overflow table (07 R197;
03 R79). -/
def finishStall (s : State) (e : Env) (f : CtxRegs → CtxRegs) : State :=
  modCtx (finish s e (fun r => { f r with ovt := (viOf s (eVi e)).ovt })) e.key (fun c => { c with ibuf := none })

end Sys2Proof.Machine
end

