-- ==== Sys2Proof/Machine/Access.lean ====
section
/-!
DEFINITION. Memory accesses of lanes: MAJ 0x07, 0x08 and 0x09 (09 R253 to R282).
-/

namespace Sys2Proof.Machine

/-! ## Addresses and data of Format M (06 R140; 09 R253 to R257) -/

/-- addr(I, L). -/
def addrM (e : Env) (f : FmtM) (l : Nat) : Word64 :=
  opPair e f.base l + ((opWord e 9 0 f.idx l).signExtend 64 <<< f.shift.toNat) + f.off.signExtend 64

/-- Bytes of an access (09 Table 9-5). -/
def sizeOf_ (ty : Nat) : Nat := tyBits ty / 8

/-- What a load places in D (09 Table 9-5). -/
def extendLoad (ty v : Nat) : Word :=
  match ty with
  | 4 => BitVec.ofNat 32 (v % 64)
  | 5 => (BitVec.ofNat 8 v).signExtend 32
  | 7 => (BitVec.ofNat 16 v).signExtend 32
  | _ => BitVec.ofNat 32 v

/-- The bytes that a store writes (09 Table 9-5). -/
def storeBytes (ty : Nat) (w : Word) : List Byte :=
  natLe (sizeOf_ ty) (if ty = 4 then w.toNat % 64 else w.toNat)

/-- Both registers of the pair that an address operand names. -/
def pairReads (sp : Spec) : List (Spec × BitVec 2) := if isV sp || isG sp then [(sp, 3), (sp + 1, 3)] else []
/-- Registers that the address reads. -/
def addrReads (f : FmtM) : List (Spec × BitVec 2) := pairReads f.base ++ [(f.idx, 3)]
/-- v registers that a Format M slot names. -/
def vregsM (f : FmtM) : List Nat := vregsOf ([f.d, f.idx] ++ (pairReads f.base).map (·.1))

def reqLoad (f : FmtM) : Req :=
  { vregs := vregsM f, reads := ownReads (addrReads f), shadows := shadowOf f.d, cls := .ld }
def reqStore (f : FmtM) : Req :=
  { vregs := vregsM f, reads := ownReads (addrReads f ++ [(f.d, half0 f.ty.toNat)]), sbuf := true, cls := .st }

/-! ## Loads and stores by address -/

/-- How the lines of a lane access are filled: by the class of their pages, under its hint (04 R96; 09 Table 9-6). -/
def laneFill (s : State) (e : Env) (hint : BitVec 4) (xs : List (Nat × Xlat)) : Nat → Fill :=
  xlatFill s (eVi e) hint.toNat (xs.map (·.2))

/-- Load D from addresses (09 R257, R264). -/
def loadDo (f : FmtM) (e : Env) (s : State) : State :=
  let ls := lanesOf e.exec
  let size := sizeOf_ f.ty.toNat
  let addr := addrM e f
  let sv := seen s e
  match addrTrap s sv e .load true 1 size ls addr with
  | some t => trapE s e t
  | none =>
    let xs := laneXlats s e ls addr
    let lines := distinct (xs.flatMap (fun p => linesRead sv p.2 size))
    let fl := laneFill s e f.hint xs
    if loadWaits s e fl lines then waiting s e fl lines false
    else match poisonTrap s sv e 1 size addr xs with
    | some t => trapE s e t
    | none =>
      unlessLost (joinReads (fillAll s e addr xs) e fl lines) e (fun s => writeD s e f.d (fun l => match xs.find? (fun p => p.1 = l) with
        | some p => extendLoad f.ty.toNat (leNat ((readXlat sv p.2 size).getD []))
        | none => 0))

/-- The cells of a lane store, in ascending lane order (09 R258). -/
def storeCells (e : Env) (f : FmtM) (xs : List (Nat × Xlat)) : List Host.Cell :=
  xs.flatMap (fun p =>
    let bytes := storeBytes f.ty.toNat (opWord e f.ty.toNat 0 f.d p.1)
    (List.range bytes.length).map (fun k => (p.2.pa + k, bytes.getD k 0)))

/-- Store D to addresses (09 R258, R264; 16 R398). -/
def storeDo (f : FmtM) (e : Env) (s : State) : State :=
  let ls := lanesOf e.exec
  let addr := addrM e f
  match addrTrap s s e .store false 2 (sizeOf_ f.ty.toNat) ls addr with
  | some t => trapE s e t
  | none =>
    let xs := laneXlats s e ls addr
    let cells := storeCells e f xs
    let lines := cellLines cells
    let fl := laneFill s e f.hint xs
    if ls.isEmpty then finish s e id
    else if storeWaits s e fl lines then waiting s e fl lines true
    else
      let marks := xs.map (fun p => markOf p.2 (some (tolCode f.ty.toNat (pteTolc p.2.pte) false)))
      unlessLost (claimLines (fillAll s e addr xs) e fl lines) e (fun s =>
        finish (storeEntry s e (.mem cells marks)) e id)

def execLd (f : FmtM) (s : State) : Host.Outcome State Fault Refusal := issue (.ld f) (reqLoad f) (loadDo f) s
def execLdg (f : FmtM) (s : State) : Host.Outcome State Fault Refusal := issue (.ldg f) (reqLoad f) (loadDo f) s
def execSt (f : FmtM) (s : State) : Host.Outcome State Fault Refusal := issue (.st f) (reqStore f) (storeDo f) s
def execStg (f : FmtM) (s : State) : Host.Outcome State Fault Refusal := issue (.stg f) (reqStore f) (storeDo f) s

/-! ## Scratchpad (09 R259, R260) -/

/-- SCRATCH_RANGE, then MISALIGNED. -/
def scratchTrap (e : Env) (f : FmtM) (ls : List Nat) : Option TrapInfo :=
  (ls.findSome? (fun l =>
    if (addrM e f l).toNat + sizeOf_ f.ty.toNat ≤ pkSpBytes e.la.pkt then none
    else some (accessTrap cScratchRange l 9 0 (addrM e f l) (ePc e)))).orElse (fun _ =>
  alignTrap e 9 (sizeOf_ f.ty.toNat) ls (addrM e f))

/-- The scratchpad bytes that the context's loads see. -/
def seenScratch (s : State) (e : Env) (off n : Nat) : Nat :=
  match aget (seen s e).cohorts (eTag e) with
  | some co => leNat (spBytes co off n)
  | none => 0

/-- Scratchpad bytes that the context is to read are locked by a committed store of another context (16 R399). -/
def scratchBusy (s : State) (e : Env) (off n : Nat) : Bool := scratchLock s [e.key] (eTag e) off n

def execLdsp (f : FmtM) (s : State) : Host.Outcome State Fault Refusal :=
  issue (.ldsp f) (reqLoad f) (fun e s =>
    let ls := lanesOf e.exec
    match scratchTrap e f ls with
    | some t => trapE s e t
    | none =>
      if ls.any (fun l => scratchBusy s e (addrM e f l).toNat (sizeOf_ f.ty.toNat)) then s else
      let s' := joinGranules s e (distinct (ls.map (fun l => (addrM e f l).toNat / 128)))
      writeD s' e f.d (fun l =>
        extendLoad f.ty.toNat (seenScratch s e (addrM e f l).toNat (sizeOf_ f.ty.toNat)))) s

def execStsp (f : FmtM) (s : State) : Host.Outcome State Fault Refusal :=
  issue (.stsp f) (reqStore f) (fun e s =>
    let ls := lanesOf e.exec
    match scratchTrap e f ls with
    | some t => trapE s e t
    | none =>
      let cells := ls.flatMap (fun l =>
        let bytes := storeBytes f.ty.toNat (opWord e f.ty.toNat 0 f.d l)
        (List.range bytes.length).map (fun k => ((addrM e f l).toNat + k, bytes.getD k 0)))
      if ls.isEmpty then finish s e id
      else if isNonspec e && cellsLocked s [e.key] (eTag e) cells then s
      else finish (storeEntry s e (.scratch cells)) e id) s

/-! ## Prefetch (09 R261) -/

/-- The translations that a prefetch goes by: of the lanes whose operands are clean and whose page allows it. -/
def prfXlats (f : FmtM) (e : Env) (s : State) : List Xlat :=
  (lanesOf e.exec).filterMap (fun l =>
    if (addrReads f).any (fun p => poisonOf e p.1 p.2 l ≠ 0) then none
    else match translate s (eCore e) (eVi e) (addrM e f l) with
      | .ok x => if pageRefuses (viOf s (eVi e)).desc .load x then none else some x
      | .error _ => none)

/-- A prefetch fills the L1 under HINT 0 alone (09 R261). -/
def prfFill (f : FmtM) (e : Env) (s : State) (xs : List Xlat) (line : Nat) : Fill :=
  { xlatFill s (eVi e) f.hint.toNat xs line with l1 := f.hint = 0 }

/-- Bring one line in, unless that has to wait. -/
def prfLine (e : Env) (fl : Nat → Fill) (s : State) (line : Nat) : State :=
  if linesBusy s e false fl [line] then s else coreShared s (eCore e) (fl line) line

def prfDo (f : FmtM) (e : Env) (s : State) : State :=
  let xs := prfXlats f e s
  unlessLost ((distinct (xs.map (fun x => lineOf x.pa))).foldl (prfLine e (prfFill f e s xs)) s) e (fun s => finish s e id)

def execPrf (f : FmtM) (s : State) : Host.Outcome State Fault Refusal :=
  issue (.prf f) { vregs := vregsM f } (prfDo f) s

/-! ## Atomics (09 R266 to R268) -/

/-- The new memory value of an atomic (09 Table 9-9): old value m, operand x. -/
inductive AtomOp where
  | add | min | max | and | or | xor | xchg | cas (new : Nat → Word) | fadd

def atomNew (op : AtomOp) (ty : Nat) (ovt : Word) (l : Nat) (m x : Word) : Word :=
  match op with
  | .add => m + x
  | .min => if ty = 9 then (if m.toInt ≤ x.toInt then m else x) else (if m.toNat ≤ x.toNat then m else x)
  | .max => if ty = 9 then (if x.toInt ≤ m.toInt then m else x) else (if x.toNat ≤ m.toNat then m else x)
  | .and => m &&& x
  | .or => m ||| x
  | .xor => m ^^^ x
  | .xchg => x
  | .cas new => if m = x then new l else m
  | .fadd => fp32AddRne ovt m x

/-- One lane's indivisible read and write, of the latest value also on a tolerant page (15 R375): the state, and D. -/
def atomLane (e : Env) (f : FmtM) (op : Env → AtomOp) (fl : Nat → Fill) (s : State) (l pa : Nat) : State × Word :=
  let m := exactWord s pa
  let w := atomNew (op e) f.ty.toNat e.c.r.ovt l m (vAt e.fr f.d.toNat l)
  let cells := (List.range 4).map (fun k => (pa + k, w.extractLsb' (8 * k) 8))
  (performCells s (some e.key) (some (eCore e)) (eVi e) fl cells [] false, m)

/-- The lanes in ascending order: each reads what the one before it left (09 R267). -/
def atomLanes (e : Env) (f : FmtM) (op : Env → AtomOp) (fl : Nat → Fill) (s : State) :
    List (Nat × Xlat) → State × List (Nat × Word)
  | [] => (s, [])
  | p :: r =>
    let a := atomLane e f op fl s p.1 p.2.pa
    let b := atomLanes e f op fl a.1 r
    (b.1, (64 * f.d.toNat + p.1, a.2) :: b.2)

def atomDo (f : FmtM) (op : Env → AtomOp) (e : Env) (s : State) : State :=
  let ls := lanesOf e.exec
  let addr := addrM e f
  match addrTrap s s e .atomic true 3 4 ls addr with
  | some t => trapE s e t
  | none =>
    let xs := laneXlats s e ls addr
    let lines := distinct (xs.map (fun p => lineOf p.2.pa))
    let fl := laneFill s e f.hint xs
    if storeWaits s e fl lines then waiting s e fl lines true
    else match poisonTrap s s e 3 4 addr xs with
    | some t => trapE s e t
    | none =>
      let a := atomLanes e f op fl (fillAll s e addr xs) xs
      finishStall (writeV a.1 e.key 3 a.2) e id

def reqAtom (f : FmtM) : Req :=
  { vregs := vregsM f, reads := ownReads (addrReads f ++ [(f.d, 3)]), stall := true, cls := .ld }

def execAadd (f : FmtM) (s : State) : Host.Outcome State Fault Refusal :=
  issue (.aadd f) (reqAtom f) (atomDo f (fun _ => .add)) s
def execAmin (f : FmtM) (s : State) : Host.Outcome State Fault Refusal :=
  issue (.amin f) (reqAtom f) (atomDo f (fun _ => .min)) s
def execAmax (f : FmtM) (s : State) : Host.Outcome State Fault Refusal :=
  issue (.amax f) (reqAtom f) (atomDo f (fun _ => .max)) s
def execAand (f : FmtM) (s : State) : Host.Outcome State Fault Refusal :=
  issue (.aand f) (reqAtom f) (atomDo f (fun _ => .and)) s
def execAor (f : FmtM) (s : State) : Host.Outcome State Fault Refusal :=
  issue (.aor f) (reqAtom f) (atomDo f (fun _ => .or)) s
def execAxor (f : FmtM) (s : State) : Host.Outcome State Fault Refusal :=
  issue (.axor f) (reqAtom f) (atomDo f (fun _ => .xor)) s
def execAxchg (f : FmtM) (s : State) : Host.Outcome State Fault Refusal :=
  issue (.axchg f) (reqAtom f) (atomDo f (fun _ => .xchg)) s
def execAfadd (f : FmtM) (s : State) : Host.Outcome State Fault Refusal :=
  issue (.afadd f) (reqAtom f) (atomDo f (fun _ => .fadd)) s

/-- `acas` also reads D + 1, the new value. -/
def reqCas (f : FmtM) : Req :=
  { reqAtom f with
    vregs := (f.d.toNat + 1) :: vregsM f, reads := ownReads (addrReads f ++ [(f.d, 3), (f.d + 1, 3)]) }
def execAcas (f : FmtM) (s : State) : Host.Outcome State Fault Refusal :=
  issue (.acas f) (reqCas f) (atomDo f (fun e => .cas (fun l => vAt e.fr (f.d.toNat + 1) l))) s

/-! ## Reduction stores (09 R269 to R271) -/

def execRedst (f : FmtM) (s : State) : Host.Outcome State Fault Refusal :=
  issue (.redst f)
    { vregs := vregsM f, reads := ownReads (addrReads f ++ [(f.d, 3)]), stall := true, cls := .st } (fun e s =>
    let ls := lanesOf e.exec
    let addr := addrM e f
    match addrTrap s s e .redst false 4 4 ls addr with
    | some t => trapE s e t
    | none =>
      if ls.isEmpty then finishStall s e id
      else
        let xs := laneXlats s e ls addr
        let n := fresh (fillAll s e addr xs)
        let op : RedOp :=
          { owners := [e.key], tag := eTag e, ovt := e.c.r.ovt,
            adds := xs.map (fun p => (p.2.pa, opWord e 0 0 f.d p.1,
              [markOf p.2 (some (tolCode 0 (pteTolc p.2.pte) false))])) }
        let s := later { n.2 with redsts := aput n.2.redsts n.1 op } (.redstHomeAdd n.1)
        finishStall (modCtx s e.key (fun c => { c with nSt := c.nSt + 1 })) e id) s

/-! ## Handles (09 R272, R273) -/

/-- LANE of an instruction that acts once: its lowest executing lane (18 Table 18-3). -/
def firstLane (e : Env) : Nat := match lanesOf e.exec with | [] => 0 | l :: _ => l

/-- The alignment check comes first, and a malformed record is found once the line has been read: PROTECTION after
POISON_CONSUMED (log entry 75). -/
def thndDo (f : FmtM) (e : Env) (s : State) : State :=
  let l := firstLane e
  let a := addrM e f l
  let pc := ePc e
  if e.exec = 0 then finish s e id
  else if a.toNat % 128 ≠ 0 then trapE s e (accessTrap cMisaligned 0 7 0 a pc)
  else
    let sv := seen s e
    match translate s (eCore e) (eVi e) a with
    | .error lv => trapE s e (accessTrap cTranslationFault l 7 lv a pc)
    | .ok x =>
      match readXlat sv x 128 with
      | none => trapE s e (accessTrap cProtection l 7 0 a pc)
      | some bytes =>
        if pageRefuses (viOf s (eVi e)).desc .thnd x then trapE s e (accessTrap cProtection l 7 0 a pc)
        else
          let lines := linesRead sv x 128
          let h := BitVec.ofNat 1024 (leNat bytes)
          if loadWaits s e (xlatFill s (eVi e) f.hint.toNat [x]) lines then
            waiting s e (xlatFill s (eVi e) f.hint.toNat [x]) lines false
          else if lines.any (isPoisoned s) && !(forwarded (ownBytes s e) x.pa 128) then
            trapE s e (accessTrap cPoisonConsumed l 7 0 a pc)
          else if recMalformed h then trapE s e (accessTrap cProtection l 7 0 a pc)
          else
            unlessLost (joinReads (tlbFill s (eCore e) (eVi e) a x) e (xlatFill s (eVi e) f.hint.toNat [x]) lines) e (fun s =>
              finish s e (fun r => noteG { r with handles := aput r.handles (kOf f.d) h } (512 + kOf f.d)))

def execThnd (f : FmtM) (s : State) : Host.Outcome State Fault Refusal :=
  issue (.thnd f) { vregs := vregsM f, reads := ownReads (addrReads f), shadows := [512 + kOf f.d] } (thndDo f) s

/-! ## Coordinates (06 R141; 09 R274) -/

/-- c0, c1, c2 of a lane: signed 32-bit sums. -/
def coord0 (e : Env) (f : FmtT) (l : Nat) : Int := (opWord e 9 0 f.c0 l + f.off0.signExtend 32).toInt
def coord1 (e : Env) (f : FmtT) (l : Nat) : Int := (opWord e 9 0 f.c1 l + f.off1.signExtend 32).toInt
def coord2 (e : Env) (f : FmtT) (l : Nat) : Int := (opWord e 9 0 f.c2 l).toInt
def coordReads (f : FmtT) : List (Spec × BitVec 2) := [(f.c0, 3), (f.c1, 3), (f.c2, 3)]
/-- ADDR of COORD_RANGE: c0 and c1 of the lane (18 Table 18-3). -/
def coordAddr (e : Env) (f : FmtT) (l : Nat) : Word64 :=
  BitVec.ofInt 32 (coord1 e f l) ++ BitVec.ofInt 32 (coord0 e f l)

/-- The coordinates lie in the view. -/
def inView (h : BitVec 1024) (p : Int × Int × Int) : Bool :=
  0 ≤ p.1 && p.1 < recDim h 0 && 0 ≤ p.2.1 && p.2.1 < recDim h 1 && 0 ≤ p.2.2 && p.2.2 < recDim h 2

/-- One element access of a lane: lane, element number, part, record, view coordinates. -/
structure ElemAcc where
  lane : Nat
  k    : Nat
  part : Nat
  hrec : BitVec 1024
  p    : Int × Int × Int
  deriving DecidableEq, Repr

/-- Elements of the plain accesses, lane by lane. -/
def plainAccs (e : Env) (f : FmtT) (h : BitVec 1024) : List ElemAcc :=
  (lanesOf e.exec).flatMap (fun l => (List.range (2 ^ f.cnt.toNat)).map (fun k =>
    { lane := l, k := k, part := 0, hrec := h, p := (coord0 e f l + k, coord1 e f l, coord2 e f l) }))
/-- Elements of the transposed writes of `stsh` (09 R278). -/
def turnedAccs (e : Env) (f : FmtT) (h : BitVec 1024) : List ElemAcc :=
  (lanesOf e.exec).flatMap (fun l => (List.range (2 ^ f.cnt.toNat)).map (fun k =>
    { lane := l, k := k, part := 1, hrec := h, p := (coord1 e f l, coord0 e f l + k, coord2 e f l) }))

/-- The least lane whose access meets a condition. -/
def lowestLane {α : Type} (lane : α → Nat) (l : List α) : Option α :=
  l.foldl (fun b a => match b with
    | none => some a
    | some c => if lane a < lane c then some a else some c) none

/-- COORD_RANGE of the lowest lane outside its view. -/
def coordRange (e : Env) (f : FmtT) (kind : Nat) (as_ : List ElemAcc) : Option TrapInfo :=
  (lowestLane (·.lane) (as_.filter (fun a => !inView a.hrec a.p))).map (fun a =>
    accessTrap cCoordRange a.lane kind 0 (coordAddr e f a.lane) (ePc e))

def accSpot (s : State) (e : Env) (acc : Access) (kind : Nat) (a : ElemAcc) : Spot :=
  spotOf s (eCore e) (eVi e) a.hrec acc kind (recOrigin a.hrec 0 + a.p.1.toNat) (recOrigin a.hrec 1 + a.p.2.1.toNat)
    (recOrigin a.hrec 2 + a.p.2.2.toNat)

/-- The trap of position 3 or 4 of the coordinate column, in the lowest lane (09 Table 9-7). -/
def spotTrap (e : Env) (pos : Nat) (sp : List (ElemAcc × Spot)) : Option TrapInfo :=
  let bad := sp.filter (fun x => match x.2 with | .bad p .. => p = pos | .place .. => false)
  match lowestLane (fun x => x.1.lane) bad with
  | some (a, .bad p kind lv addr) =>
    some (accessTrap (if p = 3 then cTranslationFault else cProtection) a.lane kind lv addr (ePc e))
  | _ => none

/-- An element comes whole from the context's own stores: of a packed element, from a store of that element (02 R40; log
entry 20). -/
def elemForwarded (own : List Nat) (elems : List (Nat × Nat)) (h : BitVec 1024) (pa i : Nat) : Bool :=
  if recFormat h = 4 then elems.contains (lineOf pa, i)
  else forwarded own (pa + elemByte (recFormat h) i) (elemBits (recFormat h) / 8)

/-- The poison that an access meets, in its region record or, for a load, in its line: kind and address (09 R265; 16 Table
16-7). -/
def spotPoison (s : State) (kind : Nat) (own : List Nat) (elems : List (Nat × Nat)) (x : ElemAcc × Spot) :
    Option (Nat × Word64) :=
  match x.2 with
  | .bad p kd _ addr => if p = 5 then some (kd, addr) else none
  | .place _ _ dx va i _ =>
    if kind = 5 && isPoisoned s (lineOf dx.pa) && !(elemForwarded own elems x.1.hrec dx.pa i) then some (kind, va) else none

/-- Position 5: POISON_CONSUMED of the lowest lane that meets poison. -/
def coordPoison (s : State) (e : Env) (kind : Nat) (sp : List (ElemAcc × Spot)) : Option TrapInfo :=
  let own := ownBytes s e
  let elems := ownElems e
  (lowestLane (fun x => x.1.lane) (sp.filter (fun x => (spotPoison s kind own elems x).isSome))).bind (fun x =>
    (spotPoison s kind own elems x).map (fun p => accessTrap cPoisonConsumed x.1.lane p.1 0 p.2 (ePc e)))

/-- Traps of positions 2 to 4. -/
def coordTrap (s : State) (e : Env) (f : FmtT) (acc : Access) (kind : Nat) (as_ : List ElemAcc) : Option TrapInfo :=
  let sp := as_.map (fun a => (a, accSpot s e acc kind a))
  (coordRange e f kind as_).orElse (fun _ =>
  (spotTrap e 3 sp).orElse (fun _ => spotTrap e 4 sp))

/-- Position 1: handle and format checks (09 R273, R274). -/
def handleTrap (e : Env) (kind : Nat) : TrapInfo := accessTrap cProtection (firstLane e) kind 0 0 (ePc e)

/-- Keys of the bands that placed accesses reach. -/
def spotKeys (sp : List (ElemAcc × Spot)) : List Nat :=
  distinct (sp.filterMap (fun x => match x.2 with | .place key .. => some key | .bad .. => none))
def spotLines (sp : List (ElemAcc × Spot)) : List Nat :=
  distinct (sp.filterMap (fun x => match x.2 with | .place _ _ dx .. => some (lineOf dx.pa) | .bad .. => none))
/-- Translations of the lines that placed accesses reach. -/
def spotXlats (sp : List (ElemAcc × Spot)) : List Xlat :=
  sp.filterMap (fun x => match x.2 with | .place _ _ dx .. => some dx | .bad .. => none)
/-- The bands that placed accesses reach, each with the version that translated it. -/
def spotVers (sp : List (ElemAcc × Spot)) : List (Nat × Word) :=
  sp.foldl (fun l x => match x.2 with
    | .place key _ _ _ _ v => if l.any (fun p => p.1 = key) then l else l ++ [(key, v)]
    | .bad .. => l) []
/-- Bands whose version the core's cache does not have (09 R280). -/
def staleKeys (s : State) (sp : List (ElemAcc × Spot)) : List Nat :=
  distinct (sp.filterMap (fun x => match x.2 with
    | .place key _ _ _ _ v => if isStale s key v then some key else none
    | .bad .. => none))

/-- Fill the band order cache for the bands of an instruction (09 R279). -/
def bocFills (s : State) (e : Env) (sp : List (ElemAcc × Spot)) : State :=
  sp.foldl (fun s x => match x.2 with
    | .place key .. => bocFill s (eCore e) x.1.hrec key
    | .bad .. => s) s

/-- The access waits at the homes of its lines, with the versions that translated it (09 R280). -/
def atHome (s : State) (e : Env) (sp : List (ElemAcc × Spot)) : State :=
  if e.c.carried.isEmpty then modCtx s e.key (fun c => { c with carried := spotVers sp }) else s
/-- The homes reject the access: a version that it came with is no longer the band's (09 R280). -/
def isRejected (s : State) (e : Env) (sp : List (ElemAcc × Spot)) : Bool :=
  !(staleKeys s sp).isEmpty || e.c.carried.any (fun p => isStale s p.1 p.2)
/-- The access has been performed, or has left the homes. -/
def dropCarried (s : State) (key : Nat) : State := modCtx s key (fun c => { c with carried := [] })

/-- v registers of a run of elements (09 R274). -/
def runRegs (f : FmtT) : List Nat :=
  let n := 2 ^ f.cnt.toNat
  let c := nc f.ty.toNat
  (List.range ((n + c - 1) / c)).map (fun r => f.d.toNat + r)

/-- Words of D, D + 1, …: element k in container k mod nc of register k div nc, others zero. -/
def runWords (e : Env) (f : FmtT) (c : Nat) (val : Nat → Nat → Nat) : List (Nat × Word) :=
  (lanesOf e.exec).flatMap (fun l => (runRegs f).map (fun n =>
    (64 * n + l, mapElems c (fun j =>
      let k := (n - f.d.toNat) * nc c + j
      if k < 2 ^ f.cnt.toNat then val l k else 0))))

/-- Halves of the data registers that a run reads. -/
def runReads (f : FmtT) : List (Spec × BitVec 2) :=
  let c := nc f.ty.toNat
  (List.range (2 ^ f.cnt.toNat)).map (fun k => (f.d + BitVec.ofNat 9 (k / c), halfOf f.ty.toNat (k % c)))

/-- Element k of the run in a lane. -/
def runElem (e : Env) (f : FmtT) (l k : Nat) : Nat :=
  let c := nc f.ty.toNat
  let x := elem f.ty.toNat (vAt e.fr (f.d.toNat + k / c) l) (k % c)
  if f.ty = 4 then x % 64 else x

def reqCoordLoad (f : FmtT) : Req :=
  { vregs := runRegs f ++ vregsOf [f.c0, f.c1, f.c2], reads := ownReads (coordReads f), shadows := runRegs f,
    cls := .tl }
def reqCoordStore (f : FmtT) : Req :=
  { vregs := runRegs f ++ vregsOf [f.c0, f.c1, f.c2], reads := ownReads (coordReads f ++ runReads f), sbuf := true,
    cls := .tl }

/-! ## `tld` (09 R275, R280, R281) -/

/-- Stale entries are read again, and the region rolls back; a non-speculative region reissues in place (09 R281). The
rejection is an event of its own; until it the access keeps the versions that it came with. -/
def rejectStale (s : State) (e : Env) (sp : List (ElemAcc × Spot)) : State := laterOnce (atHome s e sp) (.staleRejection e.key)

def tldDo (f : FmtT) (e : Env) (s : State) : State :=
  match hAt e.c.r f.h.toNat with
  | none => if e.exec = 0 then finish s e id else trapE s e (handleTrap e 5)
  | some h =>
    if e.exec = 0 then finish s e id
    else if recFormat h ≠ f.ty.toNat then trapE s e (handleTrap e 5)
    else
      let as_ := plainAccs e f h
      match coordTrap s e f .tensorLoad 5 as_ with
      | some t => trapE s e t
      | none =>
        let sp := as_.map (fun a => (a, accSpot s e .tensorLoad 5 a))
        let keys := spotKeys sp
        let lines := spotLines sp
        let fl := xlatFill s (eVi e) 0 (spotXlats sp)
        let s := bocFills s e sp
        if keys.any (bandBusy s) then atHome s e sp
        else if isRejected s e sp then rejectStale s e sp
        else if loadWaits s e fl lines then waiting s e fl lines false
        else match coordPoison s e 5 sp with
        | some t => trapE s e t
        | none =>
          let sv := seen s e
          let at_ := sp.filterMap (fun x => match x.2 with
            | .place key b .. =>
              some (key, b, recOrigin h 0 + x.1.p.1.toNat, recOrigin h 1 + x.1.p.2.1.toNat)
            | .bad .. => none)
          let val (l k : Nat) : Nat :=
            match sp.find? (fun x => x.1.lane = l && x.1.k = k) with
            | some (_, .place _ _ dx _ i _) => readElem sv f.ty.toNat dx.pa i
            | _ => 0
          unlessLost (dropCarried (joinReads s e fl lines) e.key) e (fun s =>
            finish (writeV (bandAccesses s (eVi e) h at_) e.key 3 (runWords e f f.ty.toNat val)) e id)

def execTld (f : FmtT) (s : State) : Host.Outcome State Fault Refusal :=
  issue (.tld f) (reqCoordLoad f) (tldDo f) s

/-! ## `tst` and `stsh` (09 R276, R278) -/

/-- The entry of a coordinate store. -/
def coordEntry (e : Env) (f : FmtT) (sp : List (ElemAcc × Spot)) : StoreEntry :=
  .coord (sp.filterMap (fun x => match x.2 with
    | .place key b dx _ i v => some
        { part := x.1.part, hrec := x.1.hrec, x := recOrigin x.1.hrec 0 + x.1.p.1.toNat,
          y := recOrigin x.1.hrec 1 + x.1.p.2.1.toNat, z := recOrigin x.1.hrec 2 + x.1.p.2.2.toNat,
          key := key, band := b, pa := dx.pa, ix := i, mark := elemMark x.1.hrec dx,
          ver := v, value := runElem e f x.1.lane x.1.k }
    | .bad .. => none))

/-- Issue a coordinate store of the given elements. -/
def coordStore (f : FmtT) (e : Env) (s : State) (as_ : List ElemAcc) : State :=
  match coordTrap s e f .tensorStore 6 as_ with
  | some t => trapE s e t
  | none =>
    let sp := as_.map (fun a => (a, accSpot s e .tensorStore 6 a))
    let keys := spotKeys sp
    let lines := spotLines sp
    let fl := xlatFill s (eVi e) 0 (spotXlats sp)
    let s := bocFills s e sp
    if isNonspec e && keys.any (bandBusy s) then atHome s e sp
    else if isNonspec e && isRejected s e sp then rejectStale s e sp
    else if storeWaits s e fl lines then waiting s e fl lines true
    else match coordPoison s e 6 sp with
    | some t => trapE s e t
    | none =>
      unlessLost (dropCarried (claimLines s e fl lines) e.key) e (fun s =>
        finish (storeEntry s e (coordEntry e f sp)) e id)

def tstDo (f : FmtT) (e : Env) (s : State) : State :=
  if e.exec = 0 then finish s e id
  else match hAt e.c.r f.h.toNat with
    | none => trapE s e (handleTrap e 6)
    | some h =>
      if recFormat h ≠ f.ty.toNat then trapE s e (handleTrap e 6) else coordStore f e s (plainAccs e f h)

def execTst (f : FmtT) (s : State) : Host.Outcome State Fault Refusal :=
  issue (.tst f) (reqCoordStore f) (tstDo f) s

def stshDo (f : FmtT) (e : Env) (s : State) : State :=
  if e.exec = 0 then finish s e id
  else match hAt e.c.r f.h.toNat, hAt e.c.r (f.h.toNat + 1) with
    | some h, some h' =>
      if recFormat h ≠ f.ty.toNat || recFormat h' ≠ recFormat h || recNdim h' ≠ recNdim h then
        trapE s e (handleTrap e 6)
      else coordStore f e s (plainAccs e f h ++ turnedAccs e f h')
    | _, _ => trapE s e (handleTrap e 6)

def execStsh (f : FmtT) (s : State) : Host.Outcome State Fault Refusal :=
  issue (.stsh f) (reqCoordStore f) (stshDo f) s

/-! ## `tlds` (09 R277) -/

/-- The block β + k lies in the view, and so do c1 and c2. -/
def blockInView (e : Env) (f : FmtT) (h : BitVec 1024) (l k : Nat) : Bool :=
  let b := (recOrigin h 0 + coord0 e f l) / 16
  inView h (16 * (b + k) - recOrigin h 0, coord1 e f l, coord2 e f l)
/-- Address of the scale byte of block β + k. -/
def blockVa (e : Env) (f : FmtT) (h : BitVec 1024) (l k : Nat) : Word64 :=
  let b := (recOrigin h 0 + coord0 e f l) / 16
  scaleVa h (16 * (b + k)).toNat (recOrigin h 1 + coord1 e f l).toNat (recOrigin h 2 + coord2 e f l).toNat

def tldsDo (f : FmtT) (e : Env) (s : State) : State :=
  let ls := lanesOf e.exec
  let ks := List.range (2 ^ f.cnt.toNat)
  if e.exec = 0 then finish s e id
  else match hAt e.c.r f.h.toNat with
    | none => trapE s e (handleTrap e 5)
    | some h =>
      if !(f.ty = 3 || f.ty = 4) || recFormat h ≠ f.ty.toNat || !recScales h then trapE s e (handleTrap e 5)
      else
        match ls.find? (fun l => ks.any (fun k => !blockInView e f h l k)) with
        | some l => trapE s e (accessTrap cCoordRange l 5 0 (coordAddr e f l) (ePc e))
        | none =>
          let sv := seen s e
          -- the accesses in order: lane × 8 + element
          let keys := ls.flatMap (fun l => ks.map (fun k => 8 * l + k))
          let addr (i : Nat) : Word64 := blockVa e f h (i / 8) (i % 8)
          match addrTrap s sv e .scale true 5 1 keys addr with
          | some t => trapE s e { t with lane := t.lane / 8 }
          | none =>
            let xs := laneXlats s e keys addr
            let lines := distinct (xs.flatMap (fun p => linesRead sv p.2 1))
            let fl := laneFill s e 0 xs
            if loadWaits s e fl lines then waiting s e fl lines false
            else match poisonTrap s sv e 5 1 addr xs with
            | some t => trapE s e { t with lane := t.lane / 8 }
            | none =>
              let val (l k : Nat) : Nat :=
                match xs.find? (fun p => p.1 = 8 * l + k) with
                | some p => leNat ((readXlat sv p.2 1).getD [])
                | none => 0
              unlessLost (joinReads (fillAll s e addr xs) e fl lines) e (fun s =>
                finish (writeV s e.key 3 (runWords e f 6 val)) e id)

def execTlds (f : FmtT) (s : State) : Host.Outcome State Fault Refusal :=
  issue (.tlds f) (reqCoordLoad f) (tldsDo f) s

end Sys2Proof.Machine
end

