-- ==== Sys2Proof/Machine/Flags.lean ====
section
/-!
DEFINITION. The bits that instructions write into mask registers: comparisons and classes (08 R216, R219, R220),
carries and borrows (R213), ballots (R236), and the branch conditions that read masks (07 Table 7-5). The T7 has no
other flags.
-/

namespace Sys2Proof.Machine

/-- Integer conditions (08 Table 8-5). -/
def intCond (cc : Nat) (a b : Int) : Bool :=
  match cc with
  | 0 => a = b
  | 1 => a ≠ b
  | 2 => a < b
  | 3 => a ≤ b
  | 4 => a > b
  | _ => a ≥ b

/-- Floating conditions (08 Table 8-7). -/
def floatCond (cc : Nat) (a b : Num) : Bool :=
  let uno := numIsNan a || numIsNan b
  let c := numCmp a b
  match cc with
  | 0 => !uno && c = .eq
  | 1 => uno || c ≠ .eq
  | 2 => !uno && c = .lt
  | 3 => !uno && c ≠ .gt
  | 4 => !uno && c = .gt
  | 5 => !uno && c ≠ .lt
  | 6 => !uno
  | _ => uno

/-- The class bit of an encoding (08 Table 8-8). -/
def classBit (f bits : Nat) : Nat :=
  let neg := signBit f ≤ bits % (2 * signBit f)
  let mag := bits % signBit f
  if mag > infBits f then 0
  else if mag = infBits f then (if neg then 1 else 8)
  else if mag = 0 then (if neg then 4 else 5)
  else if mag < 2 ^ (prec f - 1) then (if neg then 3 else 6)
  else (if neg then 2 else 7)

/-- Sum and carry out of a 32-bit add with carry in (08 R213). -/
def addCarry (a b : Word) (cin : Bool) : Word × Bool :=
  let t := a.toNat + b.toNat + (if cin then 1 else 0)
  (BitVec.ofNat 32 t, 2 ^ 32 ≤ t)
/-- Difference and borrow out of a 32-bit subtract with borrow in (08 R213). -/
def subBorrow (a b : Word) (bin : Bool) : Word × Bool :=
  let t := b.toNat + (if bin then 1 else 0)
  (a - b - (if bin then 1 else 0), a.toNat < t)

/-- Branch conditions over the active lanes and a mask (07 Table 7-5). -/
def branchTaken (cond : Nat) (m0 mk : LaneMask) : Bool :=
  match cond with
  | 0 => true
  | 1 => m0 &&& mk ≠ 0
  | 2 => m0 &&& ~~~mk = 0
  | 3 => m0 &&& mk = 0
  | _ => m0 &&& ~~~mk ≠ 0

/-- The effect of an instruction that writes mask D lane by lane (08 R216). -/
def writeMask (s : State) (e : Env) (d : Spec) (bit : Nat → Bool) : State :=
  finish s e (fun r => putMask r (kOf d) (mergeMask e (maskOf r (kOf d)) bit))

end Sys2Proof.Machine
end

