-- ==== Sys2Proof/Machine/Barriers.lean ====
section
/-!
DEFINITION. Named barriers and the cluster barrier (10 R304 to R309). Barrier 16 is the cluster barrier.
-/

namespace Sys2Proof.Machine

/-- A barrier at cohort start (10 R304). -/
def barZero : Barrier :=
  { init := false, misuse := false, phase := false, em := 0, cm := 0, eb := 0, cb := 0 }
/-- The cluster barrier at cluster start (10 R309). -/
def barCluster : Barrier := { barZero with init := true, em := 4 }

/-- Barrier k of a cohort. -/
def barOf (s : State) (tag k : Nat) : Barrier :=
  match aget s.cohorts tag with
  | none => barZero
  | some co =>
    if k = 16 then
      match co.cluster with
      | some c => agetD s.clusters barCluster c
      | none => barZero
    else agetD co.bars barZero k

/-- Barrier k of two cohorts is one: the same cohort, or the cluster barrier of one cluster. -/
def sameBar (s : State) (k a b : Nat) : Bool :=
  let cl (t : Nat) : Option Nat := (aget s.cohorts t).bind (·.cluster)
  a = b || (k = 16 && (cl a).isSome && cl a = cl b)

/-- The context waits for barrier k to leave phase p, or will wait for it again after a halt. -/
def awaits (c : Ctx) (k : Nat) (p : Bool) : Bool := c.status = .waitBar k p || c.paused = some (k, p)

/-- Barrier k has left phase p: every wait for that is over, whatever the phase is when the context issues again (10
R306). -/
def wakeWaiters (s : State) (tag k : Nat) (p : Bool) : State :=
  { s with ctxs := s.ctxs.map (fun q =>
      (q.1, if sameBar s k tag (tagOf s q.1) && awaits q.2 k p then { q.2 with woken := true } else q.2)) }

/-- Write barrier k of a cohort. -/
def setBar (s : State) (tag k : Nat) (b : Barrier) : State :=
  match aget s.cohorts tag with
  | none => s
  | some co =>
    if k = 16 then
      match co.cluster with
      | some c => { s with clusters := aput s.clusters c b }
      | none => s
    else modCohort s tag (fun co => { co with bars := asetD co.bars barZero k b })

/-- Barrier k of a cohort changes; when its phase does, those who wait for that are released. -/
def putBar (s : State) (tag k : Nat) (b : Barrier) : State :=
  let p := (barOf s tag k).phase
  setBar (if b.phase = p then s else wakeWaiters s tag k p) tag k b

/-- Barrier completion: the phase flips, the counts return to zero (10 R304). -/
def barComplete (b : Barrier) : Barrier :=
  if b.init && !b.misuse && b.cm = b.em && b.cb = b.eb then { b with phase := !b.phase, cm := 0, cb := 0 } else b

/-- `nbinit`, none when it traps (10 R306). -/
def barInit (b : Barrier) (em eb : Nat) : Option Barrier :=
  if b.misuse || (b.init && (b.cm ≠ 0 || b.cb ≠ 0)) || 4095 < em || 2 ^ 24 - 1 < eb || (em = 0 && eb = 0) then none
  else some { b with em := em, eb := eb, cm := 0, cb := 0, init := true }

/-- A member's arrival, none when it traps (10 R306). -/
def barArrive (b : Barrier) : Option Barrier :=
  if !b.init || b.misuse || b.cm = b.em then none else some (barComplete { b with cm := b.cm + 1 })

/-- A byte count: it sets MISUSE on a barrier that is not initialised or would overflow (10 R308). -/
def barCount (b : Barrier) (n : Nat) : Barrier :=
  if b.misuse then b
  else if !b.init || b.eb < b.cb + n then { b with misuse := true }
  else barComplete { b with cb := b.cb + n }

/-- Count bytes on a barrier of a cohort. -/
def countBytes (s : State) (tag : Nat) (bar : Option Nat) (n : Nat) : State :=
  match bar with
  | some k => putBar s tag k (barCount (barOf s tag k) n)
  | none => s

/-- A BARRIER_MISUSE trap: subcause 1 `nbinit`, 2 arrival, 3 wait (18 Table 18-3). -/
def barTrap (k sub : Nat) (pc : Word64) : TrapInfo :=
  { plainTrap cBarrierMisuse pc with code := BitVec.ofNat 32 k, sub := sub }

/-- The context just before its next instruction, for a barrier operation that may fail later (10 R307). -/
def snapOf (e : Env) : Snap :=
  let own (p : Nat) : Bool := e.c.live.getLsbD (p % 64)
  { regs := e.c.r, v := e.fr.v.filter (fun p => own p.1), vpoison := e.fr.vpoison.filter (fun p => own p.1) }

/-- Go back to a snapshot: registers, and the v registers of the context's own lanes. -/
def restoreSnap (s : State) (key : Nat) (b : Snap) : State :=
  match aget s.ctxs key with
  | none => s
  | some c =>
    let other (p : Nat) : Bool := !c.live.getLsbD (p % 64)
    let s := modFrame s (frameKeyOf key) (fun f =>
      { f with v := b.v.foldl (fun m p => aput m p.1 p.2) (f.v.filter (fun p => other p.1)),
               vpoison := b.vpoison.foldl (fun m p => aput m p.1 p.2) (f.vpoison.filter (fun p => other p.1)) })
    setCtx s key { c with r := { b.regs with pend := c.r.pend, arrph := c.r.arrph } }

end Sys2Proof.Machine
end

