-- ==== Sys2Proof/Machine/Sync.lean ====
section
/-!
DEFINITION. Waiting and named barriers: MAJ 0x0A (07 R171, R172; 10 R305 to R310).
-/

namespace Sys2Proof.Machine

/-! ## `wait` (07 R171, R172) -/

def limLd (f : FmtA) : Nat := (f.imm.extractLsb' 0 8).toNat
def limSt (f : FmtA) : Nat := (f.imm.extractLsb' 8 8).toNat
def limCp (f : FmtA) : Nat := (f.imm.extractLsb' 16 8).toNat
def limTl (f : FmtA) : Nat := (f.imm.extractLsb' 24 8).toNat

/-- The ST or CP limit is below the operations of the class that the region still holds: the region ends (07 R172). -/
def waitEnds (f : FmtA) (c : Ctx) : Bool :=
  match c.region with
  | some r => limSt f < r.nSt || limCp f < r.nCp
  | none => false
/-- A limit is met; at or above its class maximum it imposes no wait (07 R171). -/
def limMet (max count lim : Nat) : Bool := max ≤ lim || count ≤ lim
/-- Every limit is met. -/
def waitMet (f : FmtA) (c : Ctx) : Bool :=
  limMet 64 c.nLd (limLd f) && limMet 64 c.nSt (limSt f) && limMet 16 c.nCp (limCp f) && limMet 32 c.nTl (limTl f)

def setStatus (s : State) (key : Nat) (t : Status) : State := modCtx s key (fun c => { c with status := t })

/-- A wait that goes on outside any region: its region has ended for it (07 R172; 10 R307). -/
def outside (s : State) : Bool :=
  match aget s.ctxs s.cur with
  | some c => c.region.isNone && (match c.status with | .barEnd => true | .waitBar .. => true | _ => false)
  | none => false

/-- A wait is over: the context goes on at the next slot; one that waited outside any region opens a new one there (07 R172;
10 R306, R307). -/
def waitOver (s : State) (e : Env) (f : CtxRegs → CtxRegs) : State :=
  let s := match e.c.region with
    | some _ => finish s e f
    | none => finishStall s e f
  modCtx s e.key (fun c => { c with status := .running, woken := false })

def execWait (f : FmtA) (s : State) : Host.Outcome State Fault Refusal :=
  issue (.wait f) { gov := false, bare := outside s } (fun e s =>
    if waitEnds f e.c then endRegion (setStatus s e.key .barEnd) e.key
    else if waitMet f e.c then waitOver s e id
    else s) s

/-! ## Barriers -/

/-- The barrier that a scope and an operand name. -/
def barNo (f : FmtA) : Nat := if f.c = 1 then 16 else kOf f.a
/-- The launch has the barrier (05 R115, 10 R309). -/
def barExists (e : Env) (k : Nat) : Bool := if k = 16 then pkCluster e.la.pkt else k < pkNbar e.la.pkt

/-- Put a held operation into the region. -/
def holdOp (s : State) (e : Env) (h : Held) : State :=
  modCtx s e.key (fun c => { c with region := c.region.map (fun r => { r with items := r.items ++ [.held h] }) })

def execNbinit (f : FmtA) (s : State) : Host.Outcome State Fault Refusal :=
  issue (.nbinit f) { gov := false, held := true, reads := ownReads [(f.a, 3), (f.b, 3)] }
    (fun e s =>
      let k := kOf f.d
      if !barExists e k then trapE s e (barTrap k 1 (ePc e))
      else finish (holdOp s e (.barInit k (opWord e 9 f.imm f.a 0).toNat (opWord e 9 f.imm f.b 0).toNat (snapOf e))) e
        id) s

def execNbarv (f : FmtA) (s : State) : Host.Outcome State Fault Refusal :=
  issue (.nbarv f) { gov := false, held := true } (fun e s =>
    let k := barNo f
    if !barExists e k then trapE s e (barTrap k 2 (ePc e))
    else finish (holdOp s e (.barArrive k (snapOf e))) e id) s

/-- The region of the context holds a barrier operation that has not been applied. -/
def holdsBarOp (c : Ctx) : Bool :=
  (heldOf (regionItems c)).any (fun h => match h with | .barInit .. => true | .barArrive .. => true | _ => false)

/-- The wait ends: the pending bit is cleared and the context goes on (10 R306, R307). -/
def barReturn (s : State) (e : Env) (k : Nat) : State :=
  waitOver s e (fun r => { r with pend := r.pend &&& ~~~(1#17 <<< k) })

/-- What a held job does to its own cohort: a multicast acts on it only as one of its destinations. -/
def actsHere (e : Env) (j : Job) : Bool :=
  !j.multi || j.dests.any (fun d => d.2.1 = eCore e && d.2.2 = eTag e % 2 ^ 32)

/-- The region of the context holds a copy or a DZ job that signals barrier k (11 R333; log entry 47). -/
def holdsSignal (e : Env) (k : Nat) : Bool :=
  (heldOf (regionItems e.c)).any (fun h => match h with | .job j => actsHere e j && j.bar = some k | _ => false)

/-- Scratchpad bytes that a job writes: its payload, and its completion word. -/
def jobWrites (j : Job) : List (Nat × Nat) :=
  (match j.kind with
   | .linIn => [(j.so, j.len)]
   | .boxIn => [(j.so, j.rows * j.cols * (elemBits (recFormat j.hrec) / 8))]
   | .accOutSp => [(j.so, j.rows * (if j.cvt = 0 then 256 else 128))]
   | .dzSp => [(j.so, j.len)]
   | _ => []) ++ (match j.cw with | some w => [(w.1, 4)] | none => [])

/-- The region of the context holds a copy or a DZ job that writes bytes of the word at `o` (11 R333; log entry 47). -/
def holdsWrite (e : Env) (o : Nat) : Bool :=
  (heldOf (regionItems e.c)).any (fun h => match h with
    | .job j => actsHere e j && (jobWrites j).any (fun w => w.1 < o + 4 && o < w.1 + w.2)
    | _ => false)

/-- Wait for barrier `k` to leave phase `p`; `woken` says that it has done so since the wait began (10 R306). -/
def barWait (s : State) (e : Env) (k : Nat) (p woken : Bool) : State :=
  let b := barOf s (eTag e) k
  if b.misuse || !b.init then trapE s e (barTrap k 3 (ePc e))
  else if b.phase ≠ p || woken then barReturn s e k
  else
    let s := modCtx s e.key (fun c => { c with status := .waitBar k p, woken := false })
    if holdsSignal e k then endRegion s e.key else s

/-- The phase that a wait leaves: that of the pending arrival, else the present one (10 R306). -/
def waitPhase (s : State) (e : Env) (k : Nat) : Bool :=
  if e.c.r.pend.getLsbD k then e.c.r.arrph.getLsbD k else (barOf s (eTag e) k).phase

/-- Wait, or go on waiting. -/
def barGoOn (s : State) (e : Env) (k : Nat) : State :=
  match e.c.status with
  | .waitBar j p => if j = k then barWait s e k p e.c.woken else barWait s e k (waitPhase s e k) false
  | _ => barWait s e k (waitPhase s e k) false

def execNbwt (f : FmtA) (s : State) : Host.Outcome State Fault Refusal :=
  issue (.nbwt f) { gov := false, bare := outside s } (fun e s =>
    let k := barNo f
    if !barExists e k then trapE s e (barTrap k 3 (ePc e))
    else if holdsBarOp e.c then endRegion (setStatus s e.key .barEnd) e.key
    else barGoOn s e k) s

def execNbsync (f : FmtA) (s : State) : Host.Outcome State Fault Refusal :=
  issue (.nbsync f) { gov := false, held := !outside s, bare := outside s } (fun e s =>
    let k := barNo f
    if !barExists e k then trapE s e (barTrap k 2 (ePc e))
    else if e.c.status = .running then
      endRegion (setStatus (holdOp s e (.barArrive k (snapOf e))) e.key .barEnd) e.key
    else barGoOn s e k) s

/-! ## Completion words (10 R310) -/

/-- The wait of `waddr` is over. -/
def waddrMet (ty : BitVec 4) (w x : Word) : Bool :=
  if ty = 10 then x.toNat ≤ w.toNat else (w - x).toNat < 2 ^ 31

def execWaddr (f : FmtM) (s : State) : Host.Outcome State Fault Refusal :=
  issue (.waddr f)
    { gov := false, reads := ownReads (addrReads f ++ [(f.d, 3)]) } (fun e s =>
    let o := addrM e f 0
    if pkSpBytes e.la.pkt < o.toNat + 4 then trapE s e (accessTrap cScratchRange 0 9 0 o (ePc e))
    else if o.toNat % 4 ≠ 0 then trapE s e (accessTrap cMisaligned 0 9 0 o (ePc e))
    else if scratchBusy s e o.toNat 4 then s
    else if waddrMet f.ty (BitVec.ofNat 32 (seenScratch s e o.toNat 4)) (opWord e 9 0 f.d 0) then
      finish (joinGranules s e [o.toNat / 128]) e id
    else if holdsWrite e o.toNat then endRegion s e.key
    else s) s

end Sys2Proof.Machine
end

