-- ==== Sys2Proof/Machine/Control.lean ====
section
/-!
DEFINITION. Control flow: MAJ 0x0D (07 R179 to R196, R204), splits and merges of a group, width changes, and the end of
a group.
-/

namespace Sys2Proof.Machine

/-! ## Contexts that come and go -/

/-- Replace a context key in a list of owners. -/
def renameKeys (old : Nat) (new l : List Nat) : List Nat :=
  distinct (l.flatMap (fun k => if k = old then new else [k]))
def renameBand (old : Nat) (new : List Nat) (b : Band) : Band :=
  let mv (m : MoveJob) : MoveJob := { m with ctxs := renameKeys old new m.ctxs }
  { b with move := b.move.map mv, pinWait := b.pinWait.map mv,
           queue := b.queue.map (fun o => { o with ctxs := renameKeys old new o.ctxs }) }

/-- Give the outstanding operations of a context to the contexts that take its place (07 R188, R191, R194). -/
def passOn (s : State) (old : Nat) (new : List Nat) : State :=
  { s with
    jobs := s.jobs.map (fun p => (p.1, { p.2 with
      owners := renameKeys old new p.2.owners, uncounted := renameKeys old new p.2.uncounted }))
    accQ := s.accQ.map (fun p => (p.1, p.2.map (fun a => { a with owners := renameKeys old new a.owners })))
    redsts := s.redsts.map (fun p => (p.1, { p.2 with owners := renameKeys old new p.2.owners }))
    fabs := s.fabs.map (fun p => (p.1, { p.2 with owners := renameKeys old new p.2.owners }))
    bands := s.bands.map (fun p => (p.1, renameBand old new p.2)) }

/-- A context ends: no invalidation answers it any more. -/
def dropCtx (s : State) (key : Nat) : State :=
  { s with ctxs := aerase s.ctxs key, agenda := s.agenda.filter (· ≠ .rollbackWindowExpiry key)
           tlbInvs := s.tlbInvs.map (fun p => (p.1, if p.2.ctx = some key then { p.2 with ctx := none } else p.2)) }

/-- GEN of the next context in a slot (18 R418). -/
def nextGen (s : State) (key : Nat) : BitVec 12 := agetD s.gens 0 key + 1

/-- Registers of a context with nothing written since the split (07 Table 7-6). -/
def CtxRegs.settled (r : CtxRegs) : CtxRegs := { r with wroteG := [], wroteM := [], randRuns := 0, seedReset := false }

/-- A new context in a slot: it has the next GEN, and its first region opens, with its copy of the overflow table (18 R418,
07 R197; 03 R79). -/
def bornCtx (s : State) (key : Nat) (c : Ctx) : State :=
  { s with
    gens := aput s.gens key (nextGen s key)
    ctxs := aput s.ctxs key { c with
      r := { c.r.settled with ovt := (viOf s (viOfCtx s key)).ovt }, region := none, status := .running, fault := none,
      gen := nextGen s key, same := 0, win := 0, winOpen := false, drain := [], ibuf := none, recSlot := none,
      paused := none, woken := false, carried := [], handed := none } }

/-- Operations that count in a context's CP and ST classes once nothing of its own waits (07 R170). -/
def jobsOf (s : State) (key : Nat) : Nat := (s.jobs.filter (fun p => p.2.owners.contains key && !p.2.uncounted.contains key)).length
def redstsOf (s : State) (key : Nat) : Nat := (s.redsts.filter (fun p => p.2.owners.contains key)).length

/-! ## Branches, calls, returns (07 R179 to R184) -/

def targetOf (e : Env) (f : FmtB) : Word64 := lineTarget (ePc e) f.toff f.tslot
def joinOf (e : Env) (f : FmtB) : Word64 := lineTarget (ePc e) f.joff f.jslot

/-- Transfer of control to a slot whose TGT bit is checked (06 R133). -/
def jumpTo (s : State) (e : Env) (pc : Word64) : State := modCtx s e.key (fun c => jump c pc true)

def execBra (f : FmtB) (s : State) : Host.Outcome State Fault Refusal :=
  issue (.bra f) { gov := false } (fun e s =>
    if branchTaken f.cond.toNat e.c.r.m0 (maskOf e.c.r f.mask.toNat) then jumpTo s e (targetOf e f)
    else finish s e id) s

/-- Push a return entry and transfer (07 R183). -/
def callTo (s : State) (e : Env) (pc : Word64) : State :=
  if 32 ≤ e.c.r.rstack.length then trapE s e (plainTrap cStackOverflow (ePc e))
  else
    let entry : Amap Word64 := (lanesOf e.c.live).map (fun l => (l, nextSlot (ePc e)))
    jumpTo (modRegs s e.key (fun r => { r with rstack := entry :: r.rstack })) e pc

def execCall (f : FmtB) (s : State) : Host.Outcome State Fault Refusal :=
  issue (.call f) { gov := false } (fun e s => callTo s e (targetOf e f)) s

/-- The register that `calli` names (06 R143). -/
def calliReg (f : FmtB) : Spec := f.joff.setWidth 9

def execCalli (f : FmtB) (s : State) : Host.Outcome State Fault Refusal :=
  issue (.calli f) { gov := false, reads := ownReads (pairReads (calliReg f)) } (fun e s =>
    let t := opPair e (calliReg f) 0
    if !pcOk t then trapE s e (plainTrap cIllegalTarget (ePc e)) else callTo s e t) s

/-- The links of the top return entry over the active lanes are one PC. -/
def commonLink (e : Env) (entry : Amap Word64) : Option Word64 :=
  match (lanesOf e.c.r.m0).map (agetD entry 0) with
  | [] => none
  | a :: r => if r.all (· = a) then some a else none

def retDo (e : Env) (s : State) : State :=
  match e.c.r.rstack with
  | [] => trapE s e (plainTrap cReturnUnderflow (ePc e))
  | entry :: rest =>
    let depth := e.c.r.rstack.length
    let inNest := match e.c.r.dstack with | t :: _ => t.depth = depth | [] => false
    let inSplit := e.c.arm ≠ .whole && (match e.g.split with | some sp => sp.depth = depth | none => false)
    if inNest || inSplit then trapE s e (plainTrap cDivergentReturn (ePc e))
    else match commonLink e entry with
      | none => trapE s e (plainTrap cDivergentReturn (ePc e))
      | some pc => jumpTo (modRegs s e.key (fun r => { r with rstack := rest })) e pc

def execRet (f : FmtB) (s : State) : Host.Outcome State Fault Refusal :=
  issue (.ret f) { gov := false } (fun e s => retDo e s) s

/-- `rgn`: a region boundary and no more (07 R204). -/
def execRgn (f : FmtB) (s : State) : Host.Outcome State Fault Refusal :=
  issue (.rgn f) { gov := false, stall := true } (fun e s => finishStall s e id) s

/-- `trap` and `brk`: the context halts at the slot after (07 R186). -/
def haltHere (cause : Nat) (f : FmtB) (e : Env) (s : State) : State :=
  trapE s e { plainTrap cause (ePc e) with code := f.toff, pc := nextSlot (ePc e) }
def execTrap (f : FmtB) (s : State) : Host.Outcome State Fault Refusal :=
  issue (.trap f) { gov := false, stall := true } (haltHere cUserTrap f) s
def execBrk (f : FmtB) (s : State) : Host.Outcome State Fault Refusal :=
  issue (.brk f) { gov := false, stall := true } (haltHere cBreakpoint f) s

/-! ## `brm` (07 R182, R188, R189) -/

def takenSet (r : CtxRegs) (f : FmtB) : LaneMask := r.m0 &&& maskOf r f.mask.toNat
def fallSet (r : CtxRegs) (f : FmtB) : LaneMask := r.m0 &&& ~~~(maskOf r f.mask.toNat)

/-- The context is a whole group whose `brm` splits it: a region boundary. -/
def brmSplits (f : FmtB) (s : State) : Bool :=
  match aget s.ctxs s.cur with
  | some c => c.arm = .whole && takenSet c.r f ≠ 0 && fallSet c.r f ≠ 0
  | none => false

/-- The fall-through arm's key. -/
def fallKey (key first : Nat) : Nat := ctxKey (coreOf key) (key % 65536 / 512) (ctxIndex first .fall)

/-- A whole group becomes two arms (07 R188). -/
def splitDo (f : FmtB) (e : Env) (s : State) : State :=
  let t := takenSet e.c.r f
  let n := fallSet e.c.r f
  let fk := fallKey e.key e.g.first
  let sp : SplitRec :=
    { jpc := joinOf e f, depth := e.c.r.rstack.length, fmt := e.c.r.fmt, mask := e.c.live,
      lanesT := t, lanesF := n }
  let s := modGroup s e.c.group (fun g => { g with split := some sp })
  let s := passOn s e.key [e.key, fk]
  let arm (a : Arm) (m : LaneMask) (pc : Word64) (checked : Bool) : Ctx :=
    { e.c with
      r := { e.c.r with m0 := m, pc := pc, pblk := none, xwords := [] }, arm := a, live := m, arrived := checked }
  bornCtx (bornCtx s e.key (arm .taken t (targetOf e f) true)) fk (arm .fall n (nextSlot (ePc e)) false)

/-- An arm pushes a divergence entry (07 R189). -/
def nestDo (f : FmtB) (e : Env) (s : State) : State :=
  if 16 ≤ e.c.r.dstack.length then trapE s e (plainTrap cStackOverflow (ePc e))
  else
    let entry : DivEntry :=
      { jpc := joinOf e f, depth := e.c.r.rstack.length, mask := e.c.r.m0, epc := nextSlot (ePc e),
        emask := fallSet e.c.r f, fmt := e.c.r.fmt, elsePhase := false }
    jumpTo (modRegs s e.key (fun r => { r with dstack := entry :: r.dstack, m0 := takenSet e.c.r f })) e (targetOf e f)

def brmDo (f : FmtB) (e : Env) (s : State) : State :=
  if fallSet e.c.r f = 0 then jumpTo s e (targetOf e f)
  else if takenSet e.c.r f = 0 then finish s e id
  else if e.c.arm = .whole then splitDo f e s
  else nestDo f e s

def execBrm (f : FmtB) (s : State) : Host.Outcome State Fault Refusal :=
  issue (.brm f) { gov := false, stall := brmSplits f s } (brmDo f) s

/-! ## Joins (07 R190, R191) -/

/-- `nested_arrive`. -/
def nestedArrive (live : LaneMask) (r : CtxRegs) : CtxRegs :=
  match r.dstack with
  | [] => r
  | t :: rest =>
    if !t.elsePhase && t.emask &&& live ≠ 0 then
      { r with dstack := { t with elsePhase := true } :: rest, m0 := t.emask &&& live, fmt := t.fmt, pc := t.epc,
               pblk := none, xwords := [] }
    else
      { r with dstack := rest, m0 := t.mask &&& live, fmt := t.fmt, pc := nextSlot t.jpc, pblk := none, xwords := [] }

/-- Apply `nested_arrive` while no lane is active and entries remain (07 R192). -/
def nestedArrives (live : LaneMask) : Nat → CtxRegs → CtxRegs
  | 0, r => r
  | n + 1, r => if r.m0 = 0 && !r.dstack.isEmpty then nestedArrives live n (nestedArrive live r) else r

/-- A mask register of the merged group (07 Table 7-6). -/
def mergedMask (sp : SplitRec) (t f : CtxRegs) (k : Nat) : LaneMask :=
  let whole := if f.wroteM.contains k then maskOf f k else maskOf t k
  (whole &&& ~~~(sp.lanesT ||| sp.lanesF)) ||| (maskOf t k &&& sp.lanesT) ||| (maskOf f k &&& sp.lanesF)

/-- The registers of the merged group (07 Table 7-6; 10 R306). -/
def mergedRegs (sp : SplitRec) (tc fc : Ctx) : CtxRegs :=
  let t := tc.r
  let f := fc.r
  let gs := (f.wroteG.filter (fun i => 256 ≤ i && i < 384)).map (· - 256)
  let hs := (f.wroteG.filter (fun i => 512 ≤ i && i < 528)).map (· - 512)
  let seed (hi : Bool) : Word :=
    let r := if f.wroteG.contains (if hi then 601 else 600) then f else t
    if hi then r.seed.extractLsb' 32 32 else r.seed.extractLsb' 0 32
  let entry (p : Amap Word64 × Amap Word64) : Amap Word64 :=
    (List.range 64).filterMap (fun l => (aget (if sp.lanesT.getLsbD l then p.1 else p.2) l).map (fun w => (l, w)))
  { t with
    pc := nextSlot sp.jpc
    m0 := tc.live ||| fc.live
    masks := (List.range 15).foldl (fun m k => asetD m 0 (k + 1) (mergedMask sp t f (k + 1))) []
    g := gs.foldl (fun m n => asetD m 0 n (agetD f.g 0 n)) t.g
    gpoison := gs.foldl (fun m n => asetD m 0 n (agetD f.gpoison 0 n)) t.gpoison
    handles := hs.foldl (fun m k => match aget f.handles k with | some h => aput m k h | none => m) t.handles
    fmt := sp.fmt
    seed := seed true ++ seed false
    randCnt := if f.seedReset then f.randCnt else t.randCnt + f.randRuns
    latch := none
    rstack := (t.rstack.zip f.rstack).map entry
    dstack := []
    pblk := none
    xwords := []
    pend := f.pend
    arrph := f.arrph }

/-- The key of a whole group's context. -/
def wholeKey (key first : Nat) : Nat := ctxKey (coreOf key) (key % 65536 / 512) (ctxIndex first .whole)

/-- A job of both arms counts once in the merged group: it does unless both counts have lost it (07 Table 7-6; 10 R301). -/
def mergeCounts (s : State) (tk fk : Nat) : State :=
  { s with jobs := s.jobs.map (fun p =>
      (p.1, if [tk, fk].all p.2.owners.contains && !([tk, fk].all p.2.uncounted.contains)
            then { p.2 with uncounted := p.2.uncounted.filter (fun k => k ≠ tk && k ≠ fk) } else p.2)) }

/-- Both arms have arrived: they merge (07 R191). -/
def mergeArms (s : State) (group first : Nat) (sp : SplitRec) (tk fk : Nat) (tc fc : Ctx) : State :=
  let key := wholeKey tk first
  let s := modGroup s group (fun g => { g with split := none })
  let s := passOn (passOn (mergeCounts s tk fk) tk [key]) fk [key]
  let s := dropCtx (dropCtx s tk) fk
  bornCtx s key { tc with
    r := mergedRegs sp tc fc, arm := .whole, live := tc.live ||| fc.live, arrived := false,
    nLd := 0, nSt := redstsOf s key, nCp := jobsOf s key, nTl := 0 }

/-- The remaining arm becomes the whole group (07 R192). -/
def becomeWhole (s : State) (key : Nat) (c : Ctx) (first : Nat) (sp : SplitRec) : State :=
  let k := wholeKey key first
  let s := modGroup s c.group (fun g => { g with split := none })
  let s := dropCtx (passOn s key [k]) key
  bornCtx s k { c with
    r := { c.r with pc := nextSlot sp.jpc, m0 := c.live, fmt := sp.fmt, dstack := [], pblk := none, xwords := [] },
    arm := .whole, arrived := false }

/-- The arm arrives at the join of its split (07 R190). -/
def joinArrives (s : State) : Bool :=
  match aget s.ctxs s.cur with
  | some c =>
    match (aget s.groups c.group).bind (·.split) with
    | some sp =>
      c.arm ≠ .whole && c.r.dstack.isEmpty && sp.jpc = c.r.pc && sp.depth = c.r.rstack.length
    | none => false
  | none => false

/-- `arm_arrive` (07 R191); a parked sibling that is about to halt has not arrived (R187). -/
def armArrive (s : State) (e : Env) (sp : SplitRec) : State :=
  match siblingOf s e.key e.c.group with
  | none => becomeWhole s e.key e.c e.g.first sp
  | some (k, c) =>
    if c.status = .parkedJoin && c.fault.isNone then
      if e.c.arm = .taken then mergeArms s e.c.group e.g.first sp e.key k e.c c
      else mergeArms s e.c.group e.g.first sp k e.key c e.c
    else modCtx s e.key (fun c => { c with status := .parkedJoin, ibuf := none })

def joinDo (e : Env) (s : State) : State :=
  let nested := match e.c.r.dstack with
    | t :: _ => t.jpc = ePc e && t.depth = e.c.r.rstack.length
    | [] => false
  if nested then
    modCtx s e.key (fun c => { c with r := nestedArrive c.live c.r, ibuf := none, arrived := false })
  else if joinArrives { s with cur := e.key } then
    match e.g.split with
    | some sp => armArrive s e sp
    | none => s
  else finish s e id

def execJoin (f : FmtB) (s : State) : Host.Outcome State Fault Refusal :=
  issue (.join f) { gov := false, stall := joinArrives s } (fun e s => joinDo e s) s

/-! ## Width changes (07 R193 to R196) -/

/-- The group of W lanes from `first` holds the lane that was first in the producer group at launch (07 R196). -/
def isProducerWindow (la : Launch) (frameNo first w : Nat) : Bool :=
  let w0 := pkWidth la.pkt
  let lane := pkProd la.pkt % (64 / w0) * w0
  pkProdEn la.pkt && frameNo = pkProd la.pkt / (64 / w0) && first ≤ lane && lane < first + w

/-- s.group of a group that a `wset` produces (07 R196). -/
def widthGid (frameNo first : Nat) : Word := BitVec.ofNat 32 (0x00010000 + 64 * frameNo + first)

/-- A new group of a width change and its context. -/
def newGroup (s : State) (core fk : Nat) (fr : Frame) (la : Launch) (first w : Nat) (c : Ctx) : State :=
  let n := fresh s
  let key := ctxKey core fr.phys (ctxIndex first .whole)
  let g : Group :=
    { core := core, frame := fk, first := first, width := w, gid := widthGid fr.no first,
      prod := isProducerWindow la fr.no first w, slots := 0, split := none }
  let live := fr.live &&& laneWindow first w
  bornCtx { n.2 with groups := aput n.2.groups n.1 g } key { c with
    r := { c.r with m0 := live, rstack := [], dstack := [], pblk := none, xwords := [], latch := none },
    arm := .whole, group := n.1, live := live, arrived := false, nLd := 0, nSt := 0, nCp := 0, nTl := 0 }

/-- The group becomes narrower groups at once; a part with no live lane has ended (07 R194). -/
def narrow (s : State) (e : Env) (w : Nat) : State :=
  let firsts := ((List.range (e.g.width / w)).map (fun i => e.g.first + i * w)).filter (fun a =>
    e.fr.live &&& laneWindow a w ≠ 0)
  let c := { e.c with r := advance e.c.r }
  let s := dropCtx { s with groups := aerase s.groups e.c.group } e.key
  let s := passOn s e.key (firsts.map (fun a => wholeKey e.key a))
  firsts.foldl (fun s a => newGroup s (eCore e) (frameKeyOf e.key) e.fr e.la a w c) s

/-- Contexts of a frame. -/
def frameCtxs (s : State) (fk : Nat) : List (Nat × Ctx) := s.ctxs.filter (fun p => frameKeyOf p.1 = fk)
/-- First lane of the group of a context. -/
def firstOf (s : State) (c : Ctx) : Nat := match aget s.groups c.group with | some g => g.first | none => 0

/-- Contexts of a frame whose group lies in the window of w lanes that holds `first`. -/
def windowCtxs (s : State) (fk first w : Nat) : List (Nat × Ctx) :=
  (frameCtxs s fk).filter (fun p => firstOf s p.2 / w = first / w)

/-- Every group of the window that has a live lane is parked at this `wset` (07 R195). -/
def fuseReady (s : State) (fk first w : Nat) (pc : Word64) : Bool :=
  (windowCtxs s fk first w).all (fun p => p.2.status = .parkedWset w && p.2.r.pc = pc && p.2.fault.isNone)

/-- The lanes of a context's group, those that have exited among them. -/
def groupLanes (s : State) (c : Ctx) : LaneMask :=
  match aget s.groups c.group with
  | some g => laneWindow g.first g.width
  | none => 0

/-- A mask register of the fused group, bit by bit from the group that held each lane; a group all of whose lanes have exited
supplies none, and what its bits become is open (07 R195). -/
def fusedMask (s : State) (cs : List (Nat × Ctx)) (k : Nat) : LaneMask :=
  let held := cs.foldl (fun m p => m ||| groupLanes s p.2) (0 : LaneMask)
  let open_ : LaneMask := BitVec.ofNat 64 (Config.choice s.tick (2000 + k))
  cs.foldl (fun m p => m ||| (maskOf p.2.r k &&& groupLanes s p.2)) (open_ &&& ~~~held)

/-- The groups of a window become one (07 R195): the state of the group that holds the lowest live lane. -/
def fuse (s : State) (fk : Nat) (fr : Frame) (la : Launch) (first w : Nat) : State :=
  let cs := windowCtxs s fk first w
  let start := first / w * w
  match lowestLane (fun p => (lanesOf p.2.live).headD 64) cs with
  | none => s
  | some p =>
    let key := wholeKey p.1 start
    let masks := (List.range 15).foldl (fun m k => asetD m 0 (k + 1) (fusedMask s cs (k + 1))) []
    let c := { p.2 with r := { p.2.r with masks := masks, pc := nextSlot p.2.r.pc } }
    let s := cs.foldl (fun s q =>
      dropCtx (passOn { s with groups := aerase s.groups q.2.group } q.1 [key]) q.1) s
    newGroup s fr.core fk fr la start w c

/-- Fuse the windows of a frame that a parked `wset` or the end of a group has completed (07 R195). -/
def fuseScan (s : State) (fk : Nat) : State :=
  match aget s.frames fk with
  | none => s
  | some fr =>
    match (aget s.cohorts fr.tag).bind (fun co => aget s.launches co.launch) with
    | none => s
    | some la =>
      (frameCtxs s fk).foldl (fun s p =>
        match (aget s.ctxs p.1).map (fun c : Ctx => c.status) with
        | some (Status.parkedWset w) =>
          let first := firstOf s p.2
          if p.2.fault.isNone && fuseReady s fk first w p.2.r.pc then fuse s fk fr la first w else s
        | _ => s) s

/-- Parked requests in overlapping windows that name another width or PC (07 R195). -/
def fuseClash (s : State) (e : Env) (w : Nat) : List Nat :=
  (frameCtxs s (frameKeyOf e.key)).filterMap (fun p =>
    match p.2.status with
    | .parkedWset v =>
      let m := Nat.max v w
      if p.1 ≠ e.key && p.2.fault.isNone && firstOf s p.2 / m = e.g.first / m && (v ≠ w || p.2.r.pc ≠ ePc e)
      then some p.1 else none
    | _ => none)

/-- W of the instruction. -/
def wsetWidth (f : FmtB) : Nat := 8 * 2 ^ f.cond.toNat

def wsetDo (f : FmtB) (e : Env) (s : State) : State :=
  let w := wsetWidth f
  let clash := fuseClash s e w
  if e.c.arm ≠ .whole || !e.c.r.dstack.isEmpty || !e.c.r.rstack.isEmpty then
    trapE s e (plainTrap cIllegalConvergence (ePc e))
  else if e.c.nLd ≠ 0 || e.c.nSt ≠ 0 || e.c.nCp ≠ 0 || e.c.nTl ≠ 0 || e.g.slots ≠ 0 then s
  else if w = e.g.width then finishStall s e id
  else if w < e.g.width then narrow s e w
  else if !clash.isEmpty then
    clash.foldl (fun s k => match aget s.ctxs k with
      | some c => takeTrap s k (plainTrap cIllegalConvergence c.r.pc)
      | none => s) (trapE s e (plainTrap cIllegalConvergence (ePc e)))
  else
    fuseScan (modCtx s e.key (fun c => { c with status := .parkedWset w, ibuf := none })) (frameKeyOf e.key)

def execWset (f : FmtB) (s : State) : Host.Outcome State Fault Refusal :=
  issue (.wset f) { gov := false, stall := true } (wsetDo f) s

/-! ## `exit` (07 R185, R192; 10 R291; 20 R455) -/

/-- The group has ended: a `wset` that waited for it may fuse, and its cohort may end (07 R195; 18 R438, R439). -/
def endGroup (s : State) (e : Env) : State :=
  let s := dropCtx (passOn { s with groups := aerase s.groups e.c.group } e.key []) e.key
  laterOnce (fuseScan s (frameKeyOf e.key)) (.cohortEnd (eTag e))

/-- An arm has ended: its exit is its arrival (07 R192). -/
def endArm (s : State) (e : Env) (sp : SplitRec) : State :=
  match siblingOf s e.key e.c.group with
  | none => endGroup s e
  | some (k, c) =>
    let s := dropCtx { passOn s e.key [] with accQ := (passOn s e.key [k]).accQ } e.key
    if c.status = .parkedJoin && c.fault.isNone then becomeWhole s k c e.g.first sp else s

/-- The lanes of a mask leave a divergence entry. -/
def entryExit (m : LaneMask) (t : DivEntry) : DivEntry := { t with mask := t.mask &&& ~~~m, emask := t.emask &&& ~~~m }

/-- Copies and fabric operations that hold back the end of a context (10 R291, 20 R455). -/
def endWaits (s : State) (e : Env) : Bool := e.c.nCp ≠ 0 || s.fabs.any (fun p => !p.2.failed && p.2.owners.contains e.key)

def exitDo (e : Env) (s : State) : State :=
  let m := e.c.r.m0
  let live := e.c.live &&& ~~~m
  if live = 0 && endWaits s e then s
  else
    let r := nestedArrives live 40 { e.c.r with
      ovt := (viOf s (eVi e)).ovt, m0 := 0, dstack := e.c.r.dstack.map (entryExit m), pblk := none, xwords := [] }
    let s := modFrame s (frameKeyOf e.key) (fun fr => { fr with live := fr.live &&& ~~~m })
    let s := modGroup s e.c.group (fun g => { g with split := g.split.map (fun sp =>
      { sp with mask := sp.mask &&& ~~~m }) })
    let c := { e.c with r := r, live := live, ibuf := none, arrived := false }
    let s := setCtx s e.key c
    if r.m0 ≠ 0 then s
    else
      let e := { e with c := c }
      match e.c.arm, e.g.split with
      | .whole, _ => endGroup s e
      | _, some sp => endArm s e sp
      | _, none => endGroup s e

def execExit (f : FmtB) (s : State) : Host.Outcome State Fault Refusal :=
  issue (.exit f) { gov := false, stall := true } (fun e s => exitDo e s) s

end Sys2Proof.Machine
end

