-- ==== Sys2Proof/Machine/Copy.lean ====
section
/-!
DEFINITION. Copies, accumulator copies and DZ jobs: MAJ 0x0B (10 R290 to R303, R311, R316). The issue checks of 10 Table
10-4 and what a job takes along at issue; how a job then runs is in Engines.lean.
-/

namespace Sys2Proof.Machine

/-! ## Operands of Format E (10 R293) -/

/-- A scratchpad offset, accumulator row or length register. -/
def eVal (e : Env) (sp : Spec) : Nat := (opWord e 9 0 sp 0).toNat
/-- LEN: the length register, or the EXT field when S2 is 510. -/
def eLength (e : Env) (f : FmtE) : Nat := if isNone f.s2 then eLen f else eVal e f.s2
/-- OUTLEN of `dzjob`: bits [23:0] (10 R316). -/
def eOutLen (e : Env) (f : FmtE) : Nat := eLength e f % 2 ^ 24
/-- Rows and columns of a box (10 Table 10-2). -/
def eRows (f : FmtE) : Nat := (f.ext.extractLsb' 12 12).toNat + 1
def eCols (f : FmtE) : Nat := (f.ext.extractLsb' 0 12).toNat + 1
/-- Fields of an accumulator copy. -/
def eAccRows (f : FmtE) : Nat := (f.ext.extractLsb' 12 11).toNat + 1
def eCvt (f : FmtE) : Nat := (f.ext.extractLsb' 23 2).toNat
def eSetEn (f : FmtE) : Bool := f.ext.getLsbD 11
def eSetSlot (f : FmtE) : Nat := (f.ext.extractLsb' 8 3).toNat
def eWaitM (f : FmtE) : BitVec 8 := f.ext.extractLsb' 0 8
def eBarNo (f : FmtE) : Option Nat := if f.baren then some f.nb.toNat else none
def eCw (e : Env) (f : FmtE) : Option (Nat × Word) :=
  if f.cwen then some (eVal e f.cwreg, gAt e.c.r (f.cwreg.toNat - 256 + 1)) else none
/-- Coordinate k of the triple in S2. -/
def eCoord (e : Env) (f : FmtE) (k : Nat) : Int := (gAt e.c.r (f.s2.toNat - 256 + k)).toInt

/-- Bytes of an element in the scratchpad: a T6 element takes one (10 R295). -/
def boxElemBytes (h : BitVec 1024) : Nat := elemBits (recFormat h) / 8

/-- Register reads of an address pair, a coordinate triple, a completion-word pair. -/
def pairR (sp : Spec) : List (Spec × BitVec 2) := [(sp, 3), (sp + 1, 3)]
def cwReads (f : FmtE) : List (Spec × BitVec 2) := if f.cwen then pairR f.cwreg else []

/-! ## Checks (10 Table 10-4) -/

/-- The context belongs to the producer group and the launch has one (10 R290; 02 R31). -/
def isProducer (e : Env) : Bool := pkProdEn e.la.pkt && e.g.prod

/-- A trap of an instruction that acts once, with the kind and the value of the failing operand (18 R491). -/
def onceTrap (e : Env) (cause kind : Nat) (v : Word64) : TrapInfo := accessTrap cause 0 kind 0 v (ePc e)
def v64 (n : Nat) : Word64 := BitVec.ofNat 64 n

/-- The first failing operand of a list of (failed, kind, value). -/
def firstFail (e : Env) (cause : Nat) (l : List (Bool × Nat × Word64)) : Option TrapInfo :=
  (l.find? (fun x => x.1)).map (fun x => onceTrap e cause x.2.1 x.2.2)

/-- Checks that every copy makes first: producer right, barrier number. -/
def copyRights (e : Env) (f : FmtE) : Option TrapInfo :=
  if !isProducer e then some (plainTrap cProducerRights (ePc e))
  else match eBarNo f with
    | some k => if barExists e k then none else some { plainTrap cBarrierMisuse (ePc e) with code := BitVec.ofNat 32 k }
    | none => none

def cwAlign (e : Env) (f : FmtE) : Bool × Nat × Word64 :=
  match eCw e f with
  | some w => (w.1 % 4 ≠ 0, 9, v64 w.1)
  | none => (false, 0, 0)
def cwRange (e : Env) (f : FmtE) : Bool × Nat × Word64 :=
  match eCw e f with
  | some w => (pkSpBytes e.la.pkt < w.1 + 4, 9, v64 w.1)
  | none => (false, 0, 0)

/-- Linear copy: MISALIGNED, then SCRATCH_RANGE; `kind` is 11 for a memory source, 12 for a destination. -/
def linearTrap (e : Env) (f : FmtE) (kind : Nat) : Option TrapInfo :=
  let so := eVal e f.s0
  let a := opPair e f.s1 0
  let len := eLength e f
  (firstFail e cMisaligned [(so % 16 ≠ 0, 9, v64 so), (a.toNat % 16 ≠ 0, kind, a), (len % 16 ≠ 0, 9, v64 len),
    cwAlign e f]).orElse (fun _ =>
  firstFail e cScratchRange [(pkSpBytes e.la.pkt < so + len, 9, v64 so), cwRange e f])

/-- Box copy: PROTECTION, MISALIGNED, COORD_RANGE, SCRATCH_RANGE. -/
def boxTrap (e : Env) (f : FmtE) (kind : Nat) : Option TrapInfo :=
  match hAt e.c.r (kOf f.s1) with
  | none => some (accessTrap cProtection (firstLane e) kind 0 0 (ePc e))
  | some h =>
    if recFormat h = 4 && recScales h then some (accessTrap cProtection (firstLane e) kind 0 0 (ePc e))
    else
      let so := eVal e f.s0
      let w := boxElemBytes h
      let c0 := eCoord e f 0
      let c1 := eCoord e f 1
      let c2 := eCoord e f 2
      let inside := 0 ≤ c0 && 0 ≤ c1 && 0 ≤ c2 && c0 + eCols f ≤ recDim h 0 && c1 + eRows f ≤ recDim h 1
        && c2 < recDim h 2
      (firstFail e cMisaligned [(so % 16 ≠ 0, 9, v64 so), (eCols f * w % 16 ≠ 0, 9, v64 (eCols f * w)),
        cwAlign e f]).orElse (fun _ =>
      (firstFail e cCoordRange [(!inside, kind, BitVec.ofInt 32 c1 ++ BitVec.ofInt 32 c0)]).orElse (fun _ =>
      firstFail e cScratchRange [(pkSpBytes e.la.pkt < so + eRows f * eCols f * w, 9, v64 so), cwRange e f]))

/-! ## Issue -/

/-- A job with the fields that every kind takes at issue. -/
def jobBase (e : Env) (f : FmtE) (kind : JobKind) : Job :=
  { kind := kind, owners := [e.key], group := e.c.group, tag := eTag e, vi := eVi e, pc := ePc e, so := eVal e f.s0, addr := 0,
    hrec := 0, c0 := 0, c1 := 0, c2 := 0, cols := 0, rows := 0, len := 0, accRow := 0, cvt := 0, ovt := e.c.r.ovt, dests := [],
    multi := false, bar := eBarNo f, cw := eCw e f, setSlot := none, core := eCore e, left := [],
    inflight := [], stale := [], cwDone := [], uncounted := [], owned := [], dz := none }

def linearJob (e : Env) (f : FmtE) (kind : JobKind) : Job :=
  { jobBase e f kind with
    addr := opPair e f.s1 0, len := eLength e f, left := List.range (eLength e f / 16) }
def boxJob (e : Env) (f : FmtE) (kind : JobKind) : Job :=
  { jobBase e f kind with
    hrec := (hAt e.c.r (kOf f.s1)).getD 0, c0 := (eCoord e f 0).toNat, c1 := (eCoord e f 1).toNat,
    c2 := (eCoord e f 2).toNat, cols := eCols f, rows := eRows f, left := List.range (eRows f * eCols f) }

/-- Count a copy and hold it (07 R170, R199). -/
def holdJob (s : State) (e : Env) (j : Job) : State :=
  modCtx s e.key (fun c => { c with nCp := c.nCp + 1, region := c.region.map (fun r =>
    { r with items := r.items ++ [.held (.job j)], nCp := r.nCp + 1 }) })

/-- Issue a copy: its first trap, or it is held. -/
def copyIssue (s : State) (e : Env) (trap : Option TrapInfo) (j : Job) : State :=
  match trap with
  | some t => trapE s e t
  | none => finish (holdJob s e j) e id

def reqCopy (f : FmtE) : Req :=
  { gov := false, held := true, cls := .cp,
    reads := ownReads ([(f.s0, 3)] ++ (if f.var = 0 then pairR f.s1 ++ [(f.s2, 3)]
      else [(f.s2, 3), (f.s2 + 1, 3), (f.s2 + 2, 3)]) ++ cwReads f) }

/-- `cpy` and `cpyo`: linear or box. -/
def copyDo (f : FmtE) (lin box : JobKind) (kind : Nat) (e : Env) (s : State) : State :=
  if f.var = 0 then copyIssue s e ((copyRights e f).orElse (fun _ => linearTrap e f kind)) (linearJob e f lin)
  else copyIssue s e ((copyRights e f).orElse (fun _ => boxTrap e f kind)) (boxJob e f box)

def execCpy (f : FmtE) (s : State) : Host.Outcome State Fault Refusal :=
  issue (.cpy f) (reqCopy f) (copyDo f .linIn .boxIn 11) s
def execCpyo (f : FmtE) (s : State) : Host.Outcome State Fault Refusal :=
  issue (.cpyo f) (reqCopy f) (copyDo f .linOut .boxOut 12) s

/-- Destinations of a multicast: position, core and tag from the sibling table (05 R122). -/
def multiDests (e : Env) (f : FmtE) : List (Nat × Nat × Nat) :=
  (List.range 4).filterMap (fun i =>
    if f.dmask.getLsbD i then (e.co.sibs[i]?).map (fun p => (i, p.1, p.2)) else none)
def multiJob (e : Env) (f : FmtE) : Job :=
  let j := if f.var = 0 then linearJob e f .linIn else boxJob e f .boxIn
  { j with multi := true, dests := multiDests e f }

/-- `cpym` in a launch without clusters traps PROTECTION (10 Table 10-4). -/
def clusterTrap (e : Env) : Option TrapInfo :=
  if pkCluster e.la.pkt then none else some (accessTrap cProtection (firstLane e) 11 0 0 (ePc e))

def execCpym (f : FmtE) (s : State) : Host.Outcome State Fault Refusal :=
  issue (.cpym f) (reqCopy f) (fun e s =>
    copyIssue s e ((copyRights e f).orElse (fun _ => (clusterTrap e).orElse (fun _ =>
      if f.var = 0 then linearTrap e f 11 else boxTrap e f 11))) (multiJob e f)) s

/-! ## Accumulator copies (10 R302, R303) -/

/-- SLOT_MISUSE: a busy set slot that the wait mask does not name (07 R173). -/
def slotTrap (e : Env) (en : Bool) (slot : Nat) (mask : BitVec 8) : Option TrapInfo :=
  if en && e.g.slots.getLsbD slot && !mask.getLsbD slot then some (plainTrap cSlotMisuse (ePc e)) else none
/-- Mark the set slot busy. -/
def busySlot (s : State) (e : Env) (en : Bool) (slot : Nat) : State :=
  if en then modGroup s e.c.group (fun g => { g with slots := g.slots ||| (1#8 <<< slot) }) else s
/-- Accumulator rows of the cohort (05 R115). -/
def accLimit (e : Env) : Nat := 64 * pkAcct e.la.pkt

/-- Bytes of a row outside the accumulator (10 R302). -/
def accRowBytes (cvt : Nat) : Nat := if cvt = 0 then 256 else 128

def accCopyTrap (e : Env) (f : FmtE) (scratch : Bool) : Option TrapInfo :=
  let ar := eVal e f.s0
  let rows := eAccRows f
  let a := opPair e f.s1 0
  let so := eVal e f.s1
  (copyRights e f).orElse (fun _ =>
  (slotTrap e (eSetEn f) (eSetSlot f) (eWaitM f)).orElse (fun _ =>
  (firstFail e cMisaligned [(!scratch && a.toNat % 16 ≠ 0, if f.var = 0 then 12 else 11, a)]).orElse (fun _ =>
  firstFail e cScratchRange [(accLimit e < ar + rows, 9, v64 ar),
    (scratch && pkSpBytes e.la.pkt < so + rows * accRowBytes (eCvt f), 9, v64 so)])))

def accCopyJob (e : Env) (f : FmtE) (kind : JobKind) (scratch : Bool) : Job :=
  { jobBase e f kind with
    so := if scratch then eVal e f.s1 else 0, addr := if scratch then 0 else opPair e f.s1 0,
    accRow := eVal e f.s0, rows := eAccRows f, cvt := eCvt f, bar := none, cw := none,
    setSlot := if eSetEn f then some (eSetSlot f) else none, left := List.range (eAccRows f) }

def reqAccCopy (f : FmtE) (scratch : Bool) : Req :=
  { gov := false, held := true, cls := .cp, waitm := eWaitM f,
    reads := ownReads ((f.s0, 3) :: (if scratch then [(f.s1, 3)] else pairR f.s1)) }

def accCopyDo (f : FmtE) (out inn : JobKind) (scratch : Bool) (e : Env) (s : State) : State :=
  match accCopyTrap e f scratch with
  | some t => trapE s e t
  | none =>
    let j := accCopyJob e f (if f.var = 0 then out else inn) scratch
    finish (holdJob (busySlot s e (eSetEn f) (eSetSlot f)) e j) e id

def execCpyacc (f : FmtE) (s : State) : Host.Outcome State Fault Refusal :=
  issue (.cpyacc f) (reqAccCopy f false) (accCopyDo f .accOutMem .accInMem false) s
def execCpyacs (f : FmtE) (s : State) : Host.Outcome State Fault Refusal :=
  issue (.cpyacs f) (reqAccCopy f true) (accCopyDo f .accOutSp .accInSp true) s

/-! ## DZ jobs (10 R316) -/

def dzTrap (e : Env) (f : FmtE) : Option TrapInfo :=
  let so := eVal e f.s0
  let a := opPair e f.s1 0
  (copyRights e f).orElse (fun _ =>
  (firstFail e cMisaligned [(a.toNat % 64 ≠ 0, 13, a), cwAlign e f]).orElse (fun _ =>
  firstFail e cScratchRange [(f.var = 0 && pkSpBytes e.la.pkt < so + eOutLen e f, 9, v64 so), cwRange e f]))

def reqDz (f : FmtE) : Req :=
  { gov := false, held := true, cls := .cp,
    reads := ownReads ([(f.s0, 3)] ++ pairR f.s1 ++ [(f.s2, 3)] ++ cwReads f) }

def execDzjob (f : FmtE) (s : State) : Host.Outcome State Fault Refusal :=
  issue (.dzjob f) (reqDz f) (fun e s =>
    copyIssue s e (dzTrap e f) { jobBase e f (if f.var = 0 then .dzSp else .dzMem) with
      addr := opPair e f.s1 0, len := eOutLen e f }) s

end Sys2Proof.Machine
end

