-- ==== Sys2Proof/Machine/Matrix.lean ====
section
/-!
DEFINITION. The matrix engine and the accumulator store: MAJ 0x0C (11 R317 to R340) and the completion of a released
accumulator write.
-/

namespace Sys2Proof.Machine

/-! ## Shapes and fragments (11 R317 to R320) -/

/-- K of a shape. -/
def shapeK (shape : Nat) : Nat := match shape with | 0 => 16 | 1 => 32 | _ => 8
/-- The element format of a shape. -/
def shapeFmt (shape : Nat) : Nat := match shape with | 0 => 3 | 1 => 4 | _ => 1
/-- fmt holds the combination that the shape accepts (11 Table 11-1). -/
def fmtFits (shape : Nat) (fmt : Word) : Bool :=
  (fmt.extractLsb' 0 4).toNat = shapeFmt shape && (fmt.extractLsb' 4 4).toNat = shapeFmt shape
  && fmt.extractLsb' 8 4 = 0
/-- A's, and B's, scale fragment is in use (11 R319; 03 R82). -/
def useAsc (shape : Nat) (fmt : Word) : Bool := shape ≠ 2 && fmt.getLsbD 12
def useBsc (shape : Nat) (fmt : Word) : Bool := shape ≠ 2 && fmt.getLsbD 13

/-- Registers of a fragment. -/
def fragList (base shape : Nat) : List Nat := (List.range (fragRegs shape)).map (fun i => base + i)
/-- The words of a fragment, per lane. -/
def fragWords (e : Env) (base shape : Nat) : List (List Word) :=
  (List.range 64).map (fun l => (fragList base shape).map (fun n => vAt e.fr n l))

/-- Every register that a product reads: fragments, and scale fragments in use. -/
def productRegs (f : FmtX) (fmt : Word) : List Nat :=
  let sh := f.shape.toNat
  let a := f.abase.toNat
  let b := f.bbase.toNat
  fragList a sh ++ (if useAsc sh fmt then fragList (a + fragRegs sh) sh else [])
  ++ fragList b sh ++ (if useBsc sh fmt then fragList (b + fragRegs sh) sh else [])

/-! ## Issue checks (11 Table 11-5) -/

/-- ILLEGAL_CONVERGENCE unless the context is 64 lanes wide with all of them active (11 R324). -/
def fullMask (e : Env) : Bool := e.g.width = 64 && e.c.r.m0 = BitVec.allOnes 64

/-- Rows 3 to 5. -/
def matrixTrap (e : Env) (f : FmtX) (rows : Nat) : Option TrapInfo :=
  if !fullMask e then some (plainTrap cIllegalConvergence (ePc e))
  else (slotTrap e f.seten f.setslot.toNat f.waitm).orElse (fun _ =>
    if accLimit e < f.accrow.toNat + rows then
      some (accessTrap cScratchRange (firstLane e) 9 0 (v64 f.accrow.toNat) (ePc e))
    else none)

/-- Row 6: the lowest lane with a poisoned register, in the order of the registers. -/
def fragPoison (e : Env) (regs : List Nat) : Option TrapInfo :=
  (List.range 64).findSome? (fun l =>
    (regs.find? (fun n => vPoisonAt e.fr n l ≠ 0)).map (fun n =>
      { plainTrap cRegfile (ePc e) with
        lane := l
        code := BitVec.ofNat 32 (n + (if (vPoisonAt e.fr n l).getLsbD 0 then 0 else 65536)) }))

def reqMatrix (f : FmtX) (vregs : List Nat) : Req :=
  { gov := false, held := true, waitm := f.waitm, vregs := vregs }

/-- Hold an accumulator write (11 R331). -/
def holdAcc (s : State) (e : Env) (f : FmtX) (a : AccOp) : State :=
  finish (holdOp (busySlot s e f.seten f.setslot.toNat) e (.acc a)) e id

def accBase_ (e : Env) (f : FmtX) (kind : AccKind) : AccOp :=
  { kind := kind, owners := [e.key], tag := eTag e, row := f.accrow.toNat, shape := f.shape.toNat, fmt := e.c.r.fmt,
    neg := f.neg, ovt := e.c.r.ovt, a := [], as_ := [], b := [], bs := [],
    setSlot := if f.seten then some f.setslot.toNat else none }

/-- `mma` and `mmaz` at issue (11 R325). -/
def productDo (kind : AccKind) (f : FmtX) (e : Env) (s : State) : State :=
  let sh := f.shape.toNat
  let fmt := e.c.r.fmt
  let regs := productRegs f fmt
  if !fmtFits sh fmt || regs.any (fun n => pkVregs e.la.pkt ≤ n) then
    trapE s e (plainTrap cIllegalEncoding (ePc e))
  else
    match (matrixTrap e f 64).orElse (fun _ => fragPoison e regs) with
    | some t => trapE s e t
    | none =>
      holdAcc s e f { accBase_ e f kind with
        a := fragWords e f.abase.toNat sh
        b := fragWords e f.bbase.toNat sh
        as_ := if useAsc sh fmt then fragWords e (f.abase.toNat + fragRegs sh) sh else []
        bs := if useBsc sh fmt then fragWords e (f.bbase.toNat + fragRegs sh) sh else [] }

/-- Registers that a product's slot alone names. -/
def productSlotRegs (f : FmtX) : List Nat :=
  fragList f.abase.toNat f.shape.toNat ++ fragList f.bbase.toNat f.shape.toNat

def execMma (f : FmtX) (s : State) : Host.Outcome State Fault Refusal :=
  issue (.mma f) (reqMatrix f (productSlotRegs f)) (productDo .mma f) s
def execMmaz (f : FmtX) (s : State) : Host.Outcome State Fault Refusal :=
  issue (.mmaz f) (reqMatrix f (productSlotRegs f)) (productDo .mmaz f) s

def execAccz (f : FmtX) (s : State) : Host.Outcome State Fault Refusal :=
  issue (.accz f) (reqMatrix f []) (fun e s =>
    match matrixTrap e f 64 with
    | some t => trapE s e t
    | none => holdAcc s e f (accBase_ e f .accz)) s

/-- The eight registers from a base. -/
def eightRegs (base : Nat) : List Nat := (List.range 8).map (fun i => base + i)

def execAccwr (f : FmtX) (s : State) : Host.Outcome State Fault Refusal :=
  let regs := eightRegs f.bbase.toNat
  issue (.accwr f) (reqMatrix f regs) (fun e s =>
    match (matrixTrap e f 8).orElse (fun _ => fragPoison e regs) with
    | some t => trapE s e t
    | none =>
      holdAcc s e f { accBase_ e f .accwr with
        a := (List.range 64).map (fun l => regs.map (fun n => vAt e.fr n l)) }) s

/-! ## Reading rows (11 R329, R332 to R334, R339) -/

/-- Rows that an accumulator write writes. -/
def accRows (a : AccOp) : Nat := match a.kind with | .accwr => 8 | _ => 64
/-- It touches one of the eight rows from `row`. -/
def accTouches (a : AccOp) (row : Nat) : Bool := a.row < row + 8 && row < a.row + accRows a

/-- A held accumulator write of the region touches the rows: the region ends (11 R333). -/
def ownRows (c : Ctx) (row : Nat) : Bool :=
  (heldOf (regionItems c)).any (fun h => match h with | .acc a => accTouches a row | _ => false)
/-- A released accumulator write of the context that touches the rows has not completed (11 R332). -/
def rowsPending (s : State) (e : Env) (row : Nat) : Bool :=
  s.accQ.any (fun p => p.2.any (fun a => a.owners.contains e.key && accTouches a row))

def accWord (co : Cohort) (row col : Nat) : Word := agetD co.acc 0 (row * 64 + col)
def accPoisoned (co : Cohort) (row col : Nat) : Bool := agetD co.accPoison false (row * 64 + col)

/-- Lane words of eight rows. -/
def rowWords (co : Cohort) (base row : Nat) : List (Nat × Word) :=
  (List.range 8).flatMap (fun i => (List.range 64).map (fun n => (64 * (base + i) + n, accWord co (row + i) n)))
def rowPoison (co : Cohort) (base row : Nat) : List Nat :=
  (List.range 8).flatMap (fun i => (List.range 64).filterMap (fun n =>
    if accPoisoned co (row + i) n then some (64 * (base + i) + n) else none))

def execAccrd (f : FmtX) (s : State) : Host.Outcome State Fault Refusal :=
  let regs := eightRegs f.abase.toNat
  let row := f.accrow.toNat
  issue (.accrd f) { reqMatrix f regs with held := false, shadows := regs } (fun e s =>
    match matrixTrap e f 8 with
    | some t => trapE s e t
    | none =>
      if ownRows e.c row then endRegion s e.key
      else if rowsPending s e row then s
      else
        let s := writeV s e.key 3 (rowWords e.co f.abase.toNat row)
        finish (poisonV s e.key (rowPoison e.co f.abase.toNat row)) e id) s

/-! ## Completion (11 R325 to R328, R330, R339) -/

/-- Element k of a lane's fragment (11 Table 11-2). -/
def fragElem (shape : Nat) (w : List Word) (k : Nat) : Nat :=
  if shape = 2 then elem 1 (w.getD (k / 2) 0) (k % 2) else elem 3 (w.getD (k / 4) 0) (k % 4)

/-- An element widened exactly (11 R325; 03 R70, R71). -/
def widen (shape : Nat) (code : Nat) (scale : Option Nat) : Num :=
  if shape = 2 then ieeeVal 1 code
  else
    let v := if shape = 1 then tVal 4 (code % 64) else tVal 3 code
    match scale with
    | none => v
    | some 255 => .nan
    | some x => numScale ((x : Int) - 127) v

/-- Element k of lane l of a fragment with its scales. -/
def fragVal (shape : Nat) (x xs : List (List Word)) (l k : Nat) : Num :=
  let scale := if xs.isEmpty then none else some (elem 6 ((xs.getD l []).getD (k / 4) 0) (k % 4))
  widen shape (fragElem shape (x.getD l []) k) scale

/-- A finite sum of zero is +0 (11 R326). -/
def plusZero : Num → Num
  | .fin _ 0 _ => .fin false 0 0
  | x => x

/-- segsum of row m and column n, negated under NEG (11 R325, R326). -/
def segsum (a : AccOp) (m n : Nat) : Num :=
  let p := (List.range (shapeK a.shape)).foldl (fun acc k =>
    numAdd false acc (numMul (fragVal a.shape a.a a.as_ m k) (fragVal a.shape a.b a.bs n k))) (.fin false 0 0)
  plusZero (if a.neg then numNeg p else p)

/-- The FP32 word of a segment. -/
def segWord (a : AccOp) (m n : Nat) : Word := BitVec.ofNat 32 (roundTo 0 0 a.ovt (segsum a m n))

/-- The word that an accumulator write puts into row m (counted from its base) and column n over `old`. -/
def accNew (a : AccOp) (old : Word) (m n : Nat) : Word :=
  match a.kind with
  | .mma => fp32AddRne a.ovt old (segWord a m n)
  | .mmaz => segWord a m n
  | .accz => 0
  | .accwr => (a.a.getD n []).getD m 0

/-- Apply an accumulator write to its cohort; a product that adds keeps a column's poison (11 R339). -/
def applyAcc (a : AccOp) (co : Cohort) : Cohort :=
  let cells := (List.range (accRows a)).flatMap (fun m => (List.range 64).map (fun n => (m, n)))
  cells.foldl (fun co p =>
    let key := (a.row + p.1) * 64 + p.2
    { co with acc := asetD co.acc 0 key (accNew a (agetD co.acc 0 key) p.1 p.2),
              accPoison := if a.kind = .mma then co.accPoison else aerase co.accPoison key }) co

/-- The head of a frame's queue completes: its rows are written, its slot is cleared (11 R331, R340). -/
def execMatrixInstructionCompletion (frame : Nat) (s : State) : Host.Outcome State Fault Refusal :=
  match agetD s.accQ [] frame with
  | [] => .next s
  | a :: rest =>
    let s := { s with accQ := asetD s.accQ [] frame rest }
    let s := modCohort s a.tag (applyAcc a)
    .next (match a.owners with
      | k :: _ =>
        match aget s.ctxs k with
        | some c => modGroup s c.group (fun g => { g with slots := clearSlot g.slots a.setSlot })
        | none => s
      | [] => s)

end Sys2Proof.Machine
end

