-- ==== Sys2Proof/Machine/Engines.lean ====
section
/-!
DEFINITION. Released copies, accumulator copies, DZ jobs and the local side of fabric operations: their units
(10 R294 to R303), multicast (R311 to R313), DZ (R314 to R316), and ENGINE_FAULT (R301; 18 R410, R415).
-/

namespace Sys2Proof.Machine

/-! ## Memory as an engine sees it -/

/-- What one act of an engine comes to: it is done; it waits for lines (`claim`: it is to write them); or it fails with a
subcause, a kind and an address. -/
inductive EngRes where
  | done (s : State)
  | wait (s : State)
  | fail (sub kind : Nat) (addr : Word64)

/-- An engine: core whose address space it uses, VI, agent, and the contexts that it works for: their own committed stores do
not hold it up, which wait behind its job in program order (07 R199). -/
structure Eng where
  core  : Nat
  vi    : Nat
  agent : Nat
  mine  : List Nat
  deriving DecidableEq, Repr

def engDie (g : Eng) : Nat := dieOfCore g.core

/-- Translate and check: the subcause of a failure is 1 or 2 (18 Table 18-3). -/
def engXlat (s : State) (g : Eng) (acc : Access) (va : Word64) : Except Nat Xlat :=
  match translate s g.core g.vi va with
  | .error _ => .error 1
  | .ok x => if pageRefuses (viOf s g.vi).desc acc x then .error 2 else .ok x

/-- Read one byte of what the engine's die sees: the byte and the lines read, or a subcause and the address. -/
def engByte (s : State) (g : Eng) (acc : Access) (va : Word64) : Except (Nat × Word64) (Byte × List Nat) :=
  match engXlat s g acc va with
  | .error n => .error (n, va)
  | .ok x =>
    match readXlat (dieSees s (engDie g)) x 1 with
    | some (b :: _) =>
      let lines := linesRead s x 1
      if lines.any (isPoisoned s) then .error (3, va) else .ok (b, lines)
    | _ => .error (2, va)

/-- Read `n` bytes (10 Table 10-3). -/
def engRead (s : State) (g : Eng) (acc : Access) (va : Word64) : Nat → Except (Nat × Word64) (List Byte × List Nat)
  | 0 => .ok ([], [])
  | n + 1 =>
    match engByte s g acc va, engRead s g acc (va + 1) n with
    | .ok p, .ok q => .ok (p.1 :: q.1, addNew p.2 q.2)
    | .error x, _ => .error x
    | _, .error x => .error x

/-- Translate `n` bytes for writing: physical addresses in order, and whether a page is tolerant. -/
def engPlaces (s : State) (g : Eng) (acc : Access) (va : Word64) : Nat → Except (Nat × Word64) (List (Nat × Bool))
  | 0 => .ok []
  | n + 1 =>
    match engXlat s g acc va, engPlaces s g acc (va + 1) n with
    | .ok x, .ok l => .ok ((x.pa, pteTol x.pte) :: l)
    | .error k, _ => .error (k, va)
    | _, .error x => .error x

/-- An address in each line of `n` bytes. -/
def lineVas (va : Word64) (n : Nat) : List Word64 :=
  if n = 0 then [] else (List.range ((n - 1) / 128 + 2)).map (fun k => va + v64 (Nat.min (128 * k) (n - 1)))

/-- The translations of an engine's access to `n` bytes, line by line. -/
def engXlats (s : State) (g : Eng) (va : Word64) (n : Nat) : List Xlat :=
  (lineVas va n).filterMap (fun a => (translate s g.core g.vi a).toOption)

/-- The fills of an engine's access to `n` bytes: the class of a line is that of its page (04 R96). -/
def engFill (s : State) (g : Eng) (va : Word64) (n : Nat) : Nat → Fill := xlatFill s g.vi 0 (engXlats s g va n)

/-- The lines that a read of `n` bytes needs, as far as they translate. -/
def engLines (s : State) (g : Eng) (acc : Access) (va : Word64) (n : Nat) : List Nat :=
  (lineVas va n).foldl (fun l a => match engXlat s g acc a with
    | .ok x => addNew l (linesRead s x 1)
    | .error _ => l) []

/-- Another engine owns the line. -/
def otherEngine (s : State) (g : Eng) (line : Nat) : Bool :=
  match engineOwner s line with
  | some o => o ≠ (engDie g, g.agent)
  | none => false

/-- An engine waits for lines: another engine owns one, a committed store locks one, its home or its L2 has no turn or no
room for it, or a claim of it is delayed by a line hold (16 R384, R390, R399, R405). -/
def engBlocked (s : State) (g : Eng) (f : Nat → Fill) (lines : List Nat) (claim : Bool) : Bool :=
  lines.any (fun l => storeLock s g.mine l || otherEngine s g l) || linesWait s (engDie g) claim f lines
  || (claim && !(holders s none lines).isEmpty)

/-- The state while an engine waits for lines. -/
def engWaiting (s : State) (g : Eng) (f : Nat → Fill) (lines : List Nat) (claim : Bool) : State :=
  let s := askLines (recallAll s (lines.filter (otherEngine s g))) (engDie g) claim f lines
  if claim then expireHolds s none lines else s

/-- Own a line for a job that will write it again (16 R389): a line that several jobs of an agent hold is listed once for
each. -/
def engOwnLine (s : State) (g : Eng) (line : Nat) : State := { s with engOwn := s.engOwn ++ [(engDie g, g.agent, line)] }

/-- A job lets a line go. -/
def engRelease (s : State) (g : Eng) (line : Nat) : State := { s with engOwn := s.engOwn.erase (engDie g, g.agent, line) }

/-- The lines that a job of an engine owns change from `old` to `new`; each is paired with the virtual line that it is for
(16 R389). -/
def holdLines (s : State) (g : Eng) (old new : List (Nat × Nat)) : State :=
  let s := (new.filter (fun p => !old.contains p)).foldl (fun s p => engOwnLine s g p.2) s
  (old.filter (fun p => !new.contains p)).foldl (fun s p => engRelease s g p.2) s

/-- What a job owns after it has written virtual lines that lie at `now`: the lines that it is still to write. -/
def ownedNext (owned now : List (Nat × Nat)) (need : Nat → Bool) : List (Nat × Nat) :=
  (now.foldl (fun l x => if l.contains x then l else l ++ [x]) owned).filter (fun p => need p.1)

/-- Take lines for reading. -/
def engTake (s : State) (g : Eng) (f : Nat → Fill) (lines : List Nat) : State :=
  lines.foldl (fun s l => takeShared s (engDie g) (agentBit g.agent) (f l) l) s

/-- Take a line for writing; the key is that of the VI. -/
def engClaim (s : State) (g : Eng) (f : Nat → Fill) (tol : Nat → Bool) (line : Nat) : State :=
  noteWrite (noteKey (ownLine s none (engDie g) (agentBit g.agent) (f line) line) g.vi line) line none (tol line)

/-- Write bytes to memory: each line is owned, the places are those of `engPlaces` (16 R389, R396). -/
def engStore (s : State) (g : Eng) (f : Nat → Fill) (places : List (Nat × Bool)) (bytes : List Byte) : State :=
  let cells : List Host.Cell := (places.zip bytes).map (fun p => (p.1.1, p.2))
  writeCells ((cellLines cells).foldl (fun s l => engClaim s g f (fun l => places.any (fun p => lineOf p.1 = l && p.2)) l) s)
    cells

/-- A read of `n` bytes waits for lines: before it fails on one that is poisoned, too (16 R390, R399). -/
def readWaits (s : State) (g : Eng) (acc : Access) (va : Word64) (n : Nat) : Option State :=
  let lines := match engRead s g acc va n with
    | .ok p => p.2
    | .error x => if x.1 = 3 then engLines s g acc x.2 1 else []
  let f := engFill s g va n
  if engBlocked s g f lines false then some (engWaiting s g f lines false) else none

/-- Read `n` bytes at an address and go on with them. -/
def withRead (s : State) (g : Eng) (acc : Access) (kind : Nat) (va : Word64) (n : Nat) (k : State → List Byte → EngRes) :
    EngRes :=
  match readWaits s g acc va n, engRead s g acc va n with
  | some s', _ => .wait s'
  | none, .error x => .fail x.1 kind x.2
  | none, .ok (bytes, lines) => k (engTake s g (engFill s g va n) lines) bytes

/-- The lines of places. -/
def placeLines (places : List (Nat × Bool)) : List Nat := distinct (places.map (fun p => lineOf p.1))

/-- Write bytes at an address and go on with the lines written. -/
def withWrite (s : State) (g : Eng) (va : Word64) (bytes : List Byte) (k : State → List Nat → EngRes) : EngRes :=
  match engPlaces s g .copyOut va bytes.length with
  | .error x => .fail x.1 12 x.2
  | .ok places =>
    let lines := placeLines places
    let f := engFill s g va bytes.length
    if engBlocked s g f lines true then .wait (engWaiting s g f lines true) else k (engStore s g f places bytes) lines

/-- Virtual lines of `n` bytes from an address. -/
def linesFrom (va : Word64) (n : Nat) : List Nat :=
  (List.range ((va.toNat + n - 1) / 128 - va.toNat / 128 + 1)).map (· + va.toNat / 128)

/-! ## The life of a job -/

def putJob (s : State) (n : Nat) (j : Job) : State := { s with jobs := aput s.jobs n j }

/-- The engine that runs a job: its streamer, or DZ (16 Table 16-1). -/
def jobEng (j : Job) : Eng :=
  { core := j.core, vi := j.vi, agent := match j.kind with | .dzSp | .dzMem => agentDz | _ => agentStr j.core,
    mine := j.owners }

def isDz (j : Job) : Bool := match j.kind with | .dzSp | .dzMem => true | _ => false

/-- The lines that a job owns change (16 R389). -/
def setOwned (s : State) (n : Nat) (j : Job) (new : List (Nat × Nat)) : State :=
  holdLines (putJob s n { j with owned := new }) (jobEng j) j.owned new

/-- A job is over: its lines are released. -/
def dropJob (s : State) (n : Nat) (j : Job) : State := holdLines { s with jobs := aerase s.jobs n } (jobEng j) j.owned []

/-- The next act of a job: a unit, the delivery that remains, the end of the payload (10 R296, R297). -/
def nextUnit (s : State) (n : Nat) : State :=
  match aget s.jobs n with
  | none => s
  | some j =>
    if isDz j then
      match j.dz with
      | some d =>
        let acts := (if d.status.isNone then [0] else []) ++ d.todo.map (fun p => p.1 + 1)
        match acts[free s n acts.length]? with
        | some u => later s (.copyUnitTransfer n u)
        | none => later s (.dzJobEnd n)
      | none => later s (.copyUnitTransfer n 0)
    else match j.left[free s n j.left.length]? with
      | some u => later s (.copyUnitTransfer n u)
      | none => if j.inflight.isEmpty then laterOnce s (.copyCompletion n) else s

/-- Release a job to its engine (10 R292). -/
def startJob (s : State) (j : Job) : State :=
  let n := fresh s
  nextUnit (putJob n.2 n.1 j) n.1

/-! ## ENGINE_FAULT (10 R301; 18 R410, R415) -/

/-- The CP count of a context is cleared: its copies no longer count. -/
def clearCp (s : State) (key : Nat) : State :=
  let s := modCtx s key (fun c => { c with nCp := 0 })
  { s with jobs := s.jobs.map (fun p =>
      (p.1, if p.2.owners.contains key then { p.2 with uncounted := addNew p.2.uncounted [key] } else p.2)) }

/-- A context is already halted: it has stopped, or its halt needs nothing but its committed stores. -/
def alreadyHalted (c : Ctx) : Bool :=
  (match c.status with | .halted _ => true | .resuming _ => true | _ => false) || (c.fault.isSome && c.region.isNone)

/-- An engine operation of these owners fails: the first that lives halts, or a secondary record is written. -/
def engineFault (s : State) (owners : List Nat) (pc : Word64) (sub kind : Nat) (addr : Word64) : State :=
  match owners.find? (fun k => (aget s.ctxs k).isSome) with
  | none => s
  | some k =>
    let t : TrapInfo := { plainTrap cEngineFault pc with sub := sub, addr := addr, kind := kind }
    match aget s.ctxs k with
    | none => s
    | some c =>
      if alreadyHalted c then
        let t := { t with pc := c.r.pc }
        queueRecord (trapAmber s k c (viOfCtx s k) t) k t true
      else
        let s := clearCp (rollback s k false) k
        match aget s.ctxs k with
        | some c => takeTrap s k { t with pc := c.r.pc }
        | none => s

/-- The copies of owners leave their CP counts (07 R170). -/
def uncountJob (s : State) (j : Job) : State :=
  (j.owners.filter (fun k => !j.uncounted.contains k)).foldl (fun s k =>
    modCtx s k (fun c => { c with nCp := c.nCp - 1 })) s

/-- The slot that a job set is clear: its group waits for the job no more (07 R174). -/
def clearJobSlot (s : State) (j : Job) : State :=
  modGroup s j.group (fun g => { g with slots := clearSlot g.slots j.setSlot })

/-- A job fails: the bytes written stay; it counts and signals nothing more. -/
def failJob (s : State) (n : Nat) (j : Job) (sub kind : Nat) (addr : Word64) : State :=
  let s := clearJobSlot (uncountJob (dropJob s n j) j) j
  laterOnce (engineFault s j.owners j.pc sub kind addr) (.cohortEnd j.tag)

/-! ## Delivery -/

/-- The cohort with the tag that is resident on the core (10 R312). -/
def destOf (s : State) (core tag : Nat) : Option Nat :=
  (s.cohorts.find? (fun p => p.1 % 2 ^ 32 = tag && p.2.core = core && !p.2.saved)).map (·.1)

/-- A delivery finds its destination stale: the core counts the multicast once (10 R312). -/
def dropDelivery (s : State) (n : Nat) (j : Job) (pos core : Nat) : State :=
  if j.stale.contains pos then s
  else
    let s := putJob s n { j with stale := pos :: j.stale }
    { s with discards := aput s.discards core (Nat.min (agetD s.discards 0 core + 1) 0xFFFFFFFF) }

/-- Bytes as scratchpad cells. -/
def spCells (off : Nat) (bytes : List Byte) : List Host.Cell :=
  (List.range bytes.length).map (fun k => (off + k, bytes.getD k 0))

/-- Write bytes into a cohort's scratchpad and count them (10 R296, R308). -/
def deliver (s : State) (tag : Nat) (bar : Option Nat) (off : Nat) (bytes : List Byte) : State :=
  countBytes (writeScratch s tag none (spCells off bytes)) tag bar bytes.length

/-- A unit of an inward copy has been read: it is written, or sent to the destinations of a multicast. -/
def deliverUnit (s : State) (n : Nat) (j : Job) (off : Nat) (bytes : List Byte) : State :=
  if j.multi then
    let s := putJob s n { j with inflight := j.inflight ++ j.dests.map (fun d => (d.1, off, bytes)) }
    j.dests.foldl (fun s d => later s (.multicastDelivery n d.1)) s
  else deliver s j.tag j.bar off bytes

/-- The completion word of a multicast at a position, once every payload write there is done; at a stale destination it is
dropped (10 R296, R312; 15 R372). -/
def writeWord (s : State) (n : Nat) (j : Job) (w : Nat × Word) (d : Nat × Nat × Nat) : State :=
  let j := { j with cwDone := d.1 :: j.cwDone }
  let s := putJob s n j
  match destOf s d.2.1 d.2.2 with
  | some key => writeScratch s key none (spCells w.1 (natLe 4 w.2.toNat))
  | none => dropDelivery s n j d.1 d.2.1

/-- Nothing of the payload of a multicast is left for a position. -/
def positionDone (j : Job) (pos : Nat) : Bool := j.left.isEmpty && !j.inflight.any (fun d => d.1 = pos)

/-- A write of a multicast to a destination waits for the committed stores there that write the same bytes (16 R399). -/
def destBusy (s : State) (d : Nat × Nat × Nat) (off n : Nat) : Bool :=
  match destOf s d.2.1 d.2.2 with
  | some key => scratchLock s [] key off n
  | none => false

/-- A delivery of a multicast arrives at a position, or after the last one the completion word (10 R311, R312; 15 R372). -/
def execMulticastDelivery (job pos : Nat) (s : State) : Host.Outcome State Fault Refusal :=
  match aget s.jobs job with
  | none => .next s
  | some j =>
    match j.dests.find? (fun d => d.1 = pos) with
    | none => .next s
    | some d =>
      match j.inflight.find? (fun x => x.1 = pos) with
      | some (_, off, bytes) =>
        if destBusy s d off bytes.length then .next (later s (.multicastDelivery job pos)) else
        let j := { j with inflight := j.inflight.erase (pos, off, bytes) }
        let s := putJob s job j
        let s := match destOf s d.2.1 d.2.2 with
          | some key => deliver s key j.bar off bytes
          | none => dropDelivery s job j pos d.2.1
        let s := if positionDone j pos then later s (.multicastDelivery job pos) else s
        .next (if j.left.isEmpty && j.inflight.isEmpty then laterOnce s (.copyCompletion job) else s)
      | none => .next (match j.cw with
        | some w =>
          if !(positionDone j pos) || j.cwDone.contains pos then s
          else if destBusy s d w.1 4 then later s (.multicastDelivery job pos)
          else writeWord s job j w d
        | none => s)

/-- The bound of R123 passes with deliveries still to be made. -/
def execMulticastBoundExpiry (job : Nat) (s : State) : Host.Outcome State Fault Refusal :=
  match aget s.jobs job with
  | some j =>
    .next (if j.multi && !(j.left.isEmpty && j.inflight.isEmpty) then failJob s job j 5 12 (v64 j.so) else s)
  | none => .next s

/-! ## Units -/

/-- Bytes of the cohort's scratchpad. -/
def cohortBytes (s : State) (tag off n : Nat) : List Byte :=
  match aget s.cohorts tag with
  | some co => spBytes co off n
  | none => []

/-- Virtual lines that a unit of an outward job writes. -/
def unitLines (j : Job) (u : Nat) : List Nat :=
  let size := match j.kind with | .linOut => 16 | _ => accRowBytes j.cvt
  linesFrom (j.addr + v64 (u * size)) size

/-- After an outward unit: hold its lines that a remaining unit writes, let the others go (16 R389). -/
def keepLines (s : State) (n : Nat) (j : Job) (u : Nat) (pas : List Nat) : State :=
  let need := (j.left.filter (· ≠ u)).flatMap (unitLines j)
  setOwned s n j (ownedNext j.owned ((unitLines j u).zip pas) need.contains)

/-- Committed stores to these bytes of the cohort's scratchpad are to be performed first (16 R399). -/
def scratchFirst (s : State) (mine : List Nat) (tag off n : Nat) (k : EngRes) : EngRes :=
  if scratchLock s mine tag off n then .wait s else k

/-- A unit that comes into the job's own cohort waits for committed stores to its bytes; a multicast waits at its
destinations. -/
def inFirst (s : State) (j : Job) (off n : Nat) (k : EngRes) : EngRes :=
  if j.multi then k else scratchFirst s j.owners j.tag off n k

def linInUnit (s : State) (n : Nat) (j : Job) (u : Nat) : EngRes :=
  inFirst s j (j.so + 16 * u) 16 <| withRead s (jobEng j) .copyIn 11 (j.addr + v64 (16 * u)) 16 (fun s bytes =>
    .done (deliverUnit s n j (j.so + 16 * u) bytes))

def linOutUnit (s : State) (n : Nat) (j : Job) (u : Nat) : EngRes :=
  scratchFirst s j.owners j.tag (j.so + 16 * u) 16 <| withWrite s (jobEng j) (j.addr + v64 (16 * u))
    (cohortBytes s j.tag (j.so + 16 * u) 16) (fun s lines => .done (countBytes (keepLines s n j u lines) j.tag j.bar 16))

/-- Region coordinates of a box element (10 R295). -/
def boxX (j : Job) (u : Nat) : Nat := recOrigin j.hrec 0 + j.c0 + u % j.cols
def boxY (j : Job) (u : Nat) : Nat := recOrigin j.hrec 1 + j.c1 + u / j.cols
def boxZ (j : Job) : Nat := recOrigin j.hrec 2 + j.c2

/-- The box row of a unit lies in its band with no element of them left: it is counted as a band access (13 R344). -/
def countRow (s : State) (j : Job) (key : Nat) (u : Nat) : State :=
  let row := (List.range j.cols).map (· + u / j.cols * j.cols)
  let band (v : Nat) : Nat := bandIndex j.hrec (boxX j v) (boxY j v) (boxZ j)
  let same := row.filter (fun v => band v = band u)
  if same.any (fun v => v ≠ u && j.left.contains v) then s
  else bandAccesses s j.vi j.hrec (same.map (fun v => (key, band v, boxX j v, boxY j v)))

/-- One element of a box (10 R295, R299; 09 R280). -/
def boxUnit (s : State) (n : Nat) (j : Job) (u : Nat) (out : Bool) : EngRes :=
  let g := jobEng j
  let f := recFormat j.hrec
  let off := j.so + u * boxElemBytes j.hrec
  match spotOf s j.core j.vi j.hrec (if out then .tensorStore else .tensorLoad) (if out then 12 else 11)
      (boxX j u) (boxY j u) (boxZ j) with
  | .bad pos kind _ addr => .fail (pos - 2) kind addr
  | .place key _ x va i ver =>
    let line := lineOf x.pa
    let fill := xlatFill s j.vi 0 [x]
    if bandBusy s key then .wait s
    else if isStale s key ver then .wait (bocRefresh s j.core key)
    else if engBlocked s g fill [line] out then .wait (engWaiting s g fill [line] out)
    else if !out && isPoisoned s line then .fail 3 11 va
    else if out then
      scratchFirst s j.owners j.tag off (boxElemBytes j.hrec) <|
        let v := leNat (cohortBytes s j.tag off (boxElemBytes j.hrec)) % (if f = 4 then 64 else 2 ^ 32)
        let s := engClaim (bocFill s j.core j.hrec key) g fill (fun _ => pteTol x.pte) line
        let s := countRow (writeCells s (elemCells s f x.pa i v)) j key u
        .done (countBytes s j.tag j.bar (boxElemBytes j.hrec))
    else
      inFirst s j off (boxElemBytes j.hrec) <|
      let v := readElem (dieSees s (engDie g)) f x.pa i
      let s := countRow (engTake (bocFill s j.core j.hrec key) g fill [line]) j key u
      .done (deliverUnit s n j off (natLe (boxElemBytes j.hrec) v))

/-- A row of the accumulator as an outward copy writes it (10 R302). -/
def accRowOut (co : Cohort) (j : Job) (u : Nat) : List Byte :=
  (List.range 64).flatMap (fun c =>
    let w := accWord co (j.accRow + u) c
    natLe (if j.cvt = 0 then 4 else 2) (roundTo j.cvt 0 j.ovt (ieeeVal 0 w.toNat)))

/-- A column of the row is poisoned (11 R339). -/
def rowPoisoned (co : Cohort) (row : Nat) : Bool := (List.range 64).any (accPoisoned co row)

def accOutUnit (s : State) (n : Nat) (j : Job) (u : Nat) (scratch : Bool) : EngRes :=
  match aget s.cohorts j.tag with
  | none => .done s
  | some co =>
    if rowPoisoned co (j.accRow + u) then .fail 6 11 (v64 (j.accRow + u))
    else
      let bytes := accRowOut co j u
      if scratch then
        scratchFirst s j.owners j.tag (j.so + u * accRowBytes j.cvt) bytes.length <|
          .done (writeScratch s j.tag none (spCells (j.so + u * accRowBytes j.cvt) bytes))
      else withWrite s (jobEng j) (j.addr + v64 (u * accRowBytes j.cvt)) bytes (fun s lines =>
        .done (keepLines s n j u lines))

/-- Write a row of raw words and clear its poison (10 R302; 11 R339). -/
def accRowIn (co : Cohort) (row : Nat) (bytes : List Byte) : Cohort :=
  (List.range 64).foldl (fun co c =>
    let w : Word := BitVec.ofNat 32 (leNat ((bytes.drop (4 * c)).take 4))
    { co with acc := asetD co.acc 0 (row * 64 + c) w, accPoison := aerase co.accPoison (row * 64 + c) }) co

def accInUnit (s : State) (j : Job) (u : Nat) (scratch : Bool) : EngRes :=
  if scratch then
    scratchFirst s j.owners j.tag (j.so + 256 * u) 256 <|
      .done (modCohort s j.tag (fun co => accRowIn co (j.accRow + u) (spBytes co (j.so + 256 * u) 256)))
  else withRead s (jobEng j) .copyIn 11 (j.addr + v64 (256 * u)) 256 (fun s bytes =>
    .done (modCohort s j.tag (fun co => accRowIn co (j.accRow + u) bytes)))

/-! ## DZ (10 R314 to R316) -/

def cardSaddr (c : BitVec 512) : Word64 := c.extractLsb' 192 64
def cardDaddr (c : BitVec 512) : Word64 := c.extractLsb' 256 64
def cardSlen (c : BitVec 512) : Nat := (c.extractLsb' 160 32).toNat
/-- CARDFMT, RSV fields and SLEN are as Table 10-7 allows. -/
def cardOk (c : BitVec 512) : Bool :=
  c.extractLsb' 0 32 = 1 && c.extractLsb' 32 128 = 0 && c.extractLsb' 384 128 = 0 && cardSlen c ≤ 16777215

/-- The bytes that a match appends: byte i is output byte p + i - o. -/
def matchBytes (out : List Byte) (o : Nat) : Nat → List Byte
  | 0 => []
  | k + 1 =>
    let prev := matchBytes out o k
    prev ++ [(out ++ prev).getD (out.length + k - o) 0]

/-- What one token of the stream does to the output: its length in the stream, the bytes appended, and the status when the
job stops at it (10 R314, Table 10-8). `tok` holds the token's first bytes, as many as the stream has, up to 129. A
literal run that the end of the stream cuts off writes and counts none of its bytes, unless those that are there reach
OUTLEN, which is the earlier condition of the table (log entry 49). -/
def dzToken (tok : List Byte) (out : List Byte) (outlen : Nat) : Nat × List Byte × Option Nat :=
  match tok with
  | [] => (0, [], some (if out.length = outlen then 0 else 4))
  | t :: rest =>
    let n := t.toNat % 128
    let room := outlen - out.length
    if t.toNat < 128 then
      if room < n + 1 && room ≤ rest.length then (0, rest.take room, some 2)
      else if rest.length < n + 1 then (0, [], some 3)
      else (n + 2, rest.take (n + 1), none)
    else if rest.length < 2 then (0, [], some 3)
    else
      let o := leNat (rest.take 2)
      if o = 0 || out.length < o then (0, [], some 1)
      else if room < n + 3 then (0, matchBytes out o room, some 2)
      else (3, matchBytes out o (n + 3), none)

/-- Bytes of the stream that a token starting at `pos` may need. -/
def tokenNeed (first : Byte) : Nat := if first.toNat < 128 then first.toNat + 2 else 3

/-- Where output byte k of a DZ job with VAR = 1 goes. -/
def dzVa (d : DzState) (k : Nat) : Word64 := cardDaddr d.card + v64 k

/-- A line that DZ is still to write: a piece of the output that is not yet written, or output still to come, lies in it
(16 R389). -/
def dzNeeds (j : Job) (d : DzState) (line : Nat) : Bool :=
  d.todo.any (fun p => (linesFrom (dzVa d p.1) p.2).contains line)
  || (d.status.isNone && d.out.length < j.len && (dzVa d d.out.length).toNat / 128 ≤ line
      && line ≤ (dzVa d (j.len - 1)).toNat / 128)

/-- DZ has come to this state, having written the lines `now`. -/
def dzTake (s : State) (n : Nat) (j : Job) (d : DzState) (now : List (Nat × Nat)) : State :=
  setOwned s n { j with dz := some d } (ownedNext j.owned now (dzNeeds j d))

/-- Decode the next token: its output is to be written. -/
def dzStep (s : State) (n : Nat) (j : Job) (d : DzState) : EngRes :=
  let avail := cardSlen d.card - d.pos
  let va := cardSaddr d.card + v64 d.pos
  let act (s : State) (tok : List Byte) : EngRes :=
    let r := dzToken tok d.out j.len
    .done (dzTake s n j { d with
      pos := d.pos + r.1, out := d.out ++ r.2.1, status := r.2.2,
      todo := d.todo ++ (if r.2.1.isEmpty then [] else [(d.out.length, r.2.1.length)]) } [])
  if avail = 0 then act s []
  else match readWaits s (jobEng j) .scale va 1, engRead s (jobEng j) .scale va 1 with
    | some s', _ => .wait s'
    | none, .error x => .fail x.1 11 x.2
    | none, .ok (first, _) =>
      withRead s (jobEng j) .scale 11 va (Nat.min avail (tokenNeed (first.headD 0))) act

/-- Write a piece of the output (VAR 0 or 1): the pieces are written in any order (10 R316; 15 R372). -/
def dzPiece (s : State) (n : Nat) (j : Job) (d : DzState) (p : Nat × Nat) : EngRes :=
  let d' := { d with todo := d.todo.erase p }
  let bytes := (d.out.drop p.1).take p.2
  match j.kind with
  | .dzSp =>
    scratchFirst s j.owners j.tag (j.so + p.1) bytes.length <|
      .done (dzTake (writeScratch s j.tag none (spCells (j.so + p.1) bytes)) n j d' [])
  | _ => withWrite s (jobEng j) (dzVa d p.1) bytes (fun s lines =>
      .done (dzTake s n j d' ((linesFrom (dzVa d p.1) p.2).zip lines)))

/-- DZ reads the job card (10 R316). -/
def dzCard (s : State) (n : Nat) (j : Job) : EngRes :=
  match readWaits s (jobEng j) .scale j.addr 64, engRead s (jobEng j) .scale j.addr 64 with
  | some s', _ => .wait s'
  | none, .error _ => .fail 4 13 j.addr
  | none, .ok (bytes, lines) =>
    let c := BitVec.ofNat 512 (leNat bytes)
    let d : DzState := { card := c, pos := 0, out := [], status := if cardOk c then none else some 5, todo := [] }
    .done (putJob (engTake s (jobEng j) (engFill s (jobEng j) j.addr 64) lines) n { j with dz := some d })

/-- One act of a DZ job: act 0 reads the card or a token, act k + 1 writes the piece that begins at output byte k. -/
def dzUnit (s : State) (n : Nat) (j : Job) (u : Nat) : EngRes :=
  match j.dz with
  | none => dzCard s n j
  | some d =>
    match d.todo.find? (fun p => p.1 + 1 = u) with
    | some p => dzPiece s n j d p
    | none => dzStep s n j d

/-! ## Fabric operations: their local side (20 R452) -/

def fabEng (o : FabOp) : Eng := { core := coreOf (o.owners.headD 0), vi := o.vi, agent := agentInb, mine := o.owners }
def putFab (s : State) (n : Nat) (o : FabOp) : State := { s with fabs := aput s.fabs n o }

/-- The next local unit of an `fput` that reads or an `fget` that writes; when none is left, the operation goes on. -/
def nextFab (s : State) (n : Nat) (go : State → State) : State :=
  match aget s.fabs n with
  | none => s
  | some o =>
    match o.left[free s n o.left.length]? with
    | some u => later s (.copyUnitTransfer n u)
    | none => go s

/-- The lines that an `fget` owns change (16 R389). -/
def setFabOwned (s : State) (n : Nat) (o : FabOp) (new : List (Nat × Nat)) : State :=
  holdLines (putFab s n { o with owned := new }) (fabEng o) o.owned new

/-- The completion word of an operation waits for committed stores to its bytes (16 R399). -/
def cwBusy (s : State) (o : FabOp) : Bool :=
  match o.cw with
  | some w => scratchLock s o.owners o.tag w.1 4
  | none => false

/-- One local unit: an `fput` reads it, an `fget` writes it and counts it; its lines are held until their last write. The
last unit of an `fget` is followed by its completion word. -/
def fabUnit (s : State) (n : Nat) (o : FabOp) (u : Nat) : EngRes :=
  let at_ (u : Nat) : Word64 := o.addr + v64 (16 * u)
  let off := o.so + 16 * u
  if o.op = 0 then
    let keep (s : State) (bytes : List Byte) : EngRes := .done (putFab s n { o with data := aput o.data u bytes })
    if o.scratch then scratchFirst s o.owners o.tag off 16 (keep s (cohortBytes s o.tag off 16))
    else withRead s (fabEng o) .copyIn 11 (at_ u) 16 keep
  else
    let bytes := (aget o.data u).getD []
    let count (s : State) : EngRes := .done (countBytes s o.tag o.bar 16)
    if o.left = [u] && cwBusy s o then .wait s else
    if o.scratch then scratchFirst s o.owners o.tag off 16 (count (writeScratch s o.tag none (spCells off bytes)))
    else withWrite s (fabEng o) (at_ u) bytes (fun s lines =>
      let need := (o.left.filter (· ≠ u)).flatMap (fun v => linesFrom (at_ v) 16)
      count (setFabOwned s n o (ownedNext o.owned ((linesFrom (at_ u) 16).zip lines) need.contains)))

/-- A fabric operation faults: its context halts, and nothing else becomes of it; a later `fsig` of the context to the node
waits for it still (20 R453, R456). -/
def failFab (s : State) (n : Nat) (o : FabOp) (sub kind : Nat) (addr : Word64) : State :=
  engineFault (setFabOwned s n { o with failed := true, left := [] } []) o.owners o.pc sub kind addr

/-- An operation signals: its completion word, then its end (20 R455). -/
def signalFab (s : State) (n : Nat) (o : FabOp) : State :=
  let s := match o.cw with
    | some w => writeScratch s o.tag none (spCells w.1 (natLe 4 w.2.toNat))
    | none => s
  holdLines { s with fabs := aerase s.fabs n } (fabEng o) o.owned []

/-- The local side of an operation is complete: an `fput` is sent, an `fget` signals. -/
def fabLocalDone (send_ : State → Nat → FabOp → State) (s : State) (n : Nat) : State :=
  match aget s.fabs n with
  | none => s
  | some o => if o.op = 0 then send_ s n o else signalFab s n o

/-! ## Transfers and ends -/

/-- One unit of a job. -/
def jobUnit (s : State) (n : Nat) (j : Job) (u : Nat) : EngRes :=
  match j.kind with
  | .linIn => linInUnit s n j u
  | .linOut => linOutUnit s n j u
  | .boxIn => boxUnit s n j u false
  | .boxOut => boxUnit s n j u true
  | .accOutMem => accOutUnit s n j u false
  | .accInMem => accInUnit s j u false
  | .accOutSp => accOutUnit s n j u true
  | .accInSp => accInUnit s j u true
  | .dzSp => dzUnit s n j u
  | .dzMem => dzUnit s n j u

/-- A unit is to be moved. -/
def unitDue (j : Job) (u : Nat) : Bool :=
  if isDz j then
    match j.dz with
    | some d => if u = 0 then d.status.isNone else d.todo.any (fun p => p.1 + 1 = u)
    | none => true
  else j.left.contains u

/-- After a unit: it is no longer left, and the next act follows. -/
def unitDone (s : State) (n u : Nat) : State :=
  match aget s.jobs n with
  | none => s
  | some j => nextUnit (putJob s n { j with left := j.left.filter (· ≠ u) }) n

def moveUnit (s : State) (n : Nat) (j : Job) (u : Nat) : State :=
  if !unitDue j u then s
  else match jobUnit s n j u with
    | .done s' => unitDone s' n u
    | .wait s' => later s' (.copyUnitTransfer n u)
    | .fail sub kind addr => failJob s n j sub kind addr

/-- The completion words that are not written yet (10 R296, R312). -/
def writeCw (s : State) (n : Nat) (j : Job) : State :=
  match j.cw with
  | none => s
  | some w =>
    if j.multi then
      (j.dests.filter (fun d => !j.cwDone.contains d.1)).foldl (fun s d =>
        match aget s.jobs n with
        | some j => writeWord s n j w d
        | none => s) s
    else writeScratch s j.tag none (spCells w.1 (natLe 4 w.2.toNat))

/-- A completion word that is still to be written waits for committed stores to its bytes. -/
def wordsBusy (s : State) (j : Job) : Bool :=
  match j.cw with
  | none => false
  | some w =>
    if j.multi then (j.dests.filter (fun d => !j.cwDone.contains d.1)).any (fun d => destBusy s d w.1 4)
    else scratchLock s j.owners j.tag w.1 4

/-- The signal of a job: its slot is clear, its context's CP count falls (10 R296, R302). -/
def signalJob (s : State) (n : Nat) (j : Job) : State :=
  laterOnce (clearJobSlot (uncountJob (dropJob s n j) j) j) (.cohortEnd j.tag)

def execCopyCompletion (job : Nat) (s : State) : Host.Outcome State Fault Refusal :=
  match aget s.jobs job with
  | none => .next s
  | some j =>
    .next (if isDz j || !j.left.isEmpty || !j.inflight.isEmpty then s
      else if wordsBusy s j then later s (.copyCompletion job)
      else signalJob (writeCw s job j) job j)

/-- A DZ job ends: STATUS and PRODUCED, the count, the completion word, the signal (10 R316). -/
def execDzJobEnd (job : Nat) (s : State) : Host.Outcome State Fault Refusal :=
  match aget s.jobs job with
  | none => .next s
  | some j =>
    match j.dz with
    | none => .next s
    | some d =>
      match d.status with
      | none => .next s
      | some st =>
        if !d.todo.isEmpty then .next s
        else if wordsBusy s j then .next (later s (.dzJobEnd job))
        else
          let s := setOwned s job j []
          let j' := { j with owned := [] }
          let bytes := natLe 4 st ++ natLe 4 d.out.length
          .next (match withWrite s (jobEng j') (j.addr + 40) bytes (fun s _ => .done s) with
          | .done s' => signalJob (writeCw (countBytes s' j.tag j.bar j.len) job j') job j'
          | .wait s' => later s' (.dzJobEnd job)
          | .fail _ _ _ => failJob s job j' 4 13 j.addr)

end Sys2Proof.Machine
end

