-- ==== Sys2Proof/Machine/Fabric.lean ====
section
/-!
DEFINITION. The fabric: `fput`, `fget`, `fsig`, how a released operation runs, and what this module does for operations
of other devices (20 R445 to R458).
-/

namespace Sys2Proof.Machine

/-! ## Nodes and peers (20 R445, R446) -/

def nodeOf (w : Word) : Nat := (w.extractLsb' 0 22).toNat
def nodeVi (w : Word) : Nat := (w.extractLsb' 22 8).toNat
/-- This module's node. -/
def ownNode (s : State) : Nat := nodeOf s.mgmt.nodeId
/-- A node word for a node and a VI. -/
def nodeWord (node vi : Nat) : Word := BitVec.ofNat 32 (vi % 256 * 2 ^ 22 + node % 2 ^ 22)

/-- The node word matches an enabled peer entry of the VI. -/
def isPeer (v : Vi) (w : Word) : Bool :=
  v.peers.any (fun p => p.1 < 16 && p.2.getLsbD 31 && p.2.extractLsb' 0 30 = w.extractLsb' 0 30)

/-- A target VI takes an operation of this source. -/
def takesFrom (s : State) (vi node srcVi : Nat) : Bool :=
  (viOf s vi).en && isPeer (viOf s vi) (nodeWord node srcVi)

/-- Count on a port (20 R450): counters in the order of Table 20-3, saturating. -/
def countPort (s : State) (port : Option Nat) (k : Nat) : State :=
  match port with
  | some p => modPort s p (fun q =>
      { q with counters := aput q.counters k (Nat.min (agetD q.counters 0 k + 1) (2 ^ 64 - 1)) })
  | none => s

/-! ## Issue (20 R451, R454) -/

/-- The node word of an instruction. -/
def eNode (e : Env) (f : FmtE) : Word := opWord e 9 0 f.s2 0

def nodeTrap (s : State) (e : Env) (f : FmtE) : Option TrapInfo :=
  let w := eNode e f
  if w.extractLsb' 30 2 = 0 && isPeer (viOf s (eVi e)) w then none
  else some (accessTrap cProtection (firstLane e) 15 0 0 (ePc e))

/-- BARRIER_MISUSE of a barrier that the launch does not have. -/
def nbTrap (e : Env) (f : FmtE) : Option TrapInfo :=
  match eBarNo f with
  | some k => if barExists e k then none else some { plainTrap cBarrierMisuse (ePc e) with code := BitVec.ofNat 32 k }
  | none => none

/-- The checks of `fput` and `fget`; `kind` is that of a local address. -/
def putGetTrap (s : State) (e : Env) (f : FmtE) (kind : Nat) : Option TrapInfo :=
  let rem := opPair e f.s0 0
  let sp := f.var = 1
  let loc := if sp then v64 (eVal e f.s1) else opPair e f.s1 0
  let len := eLen f
  (nodeTrap s e f).orElse (fun _ => (nbTrap e f).orElse (fun _ =>
  (firstFail e cMisaligned [(rem.toNat % 16 ≠ 0, 15, rem), (loc.toNat % 16 ≠ 0, if sp then 9 else kind, loc),
    (len % 16 ≠ 0, 9, v64 len), cwAlign e f]).orElse (fun _ =>
  firstFail e cScratchRange [(sp && pkSpBytes e.la.pkt < loc.toNat + len, 9, loc), cwRange e f])))

def fsigTrap (s : State) (e : Env) (f : FmtE) : Option TrapInfo :=
  let rem := opPair e f.s0 0
  (nodeTrap s e f).orElse (fun _ => (nbTrap e f).orElse (fun _ =>
  (firstFail e cMisaligned [(rem.toNat % 8 ≠ 0, 15, rem), cwAlign e f]).orElse (fun _ =>
  firstFail e cScratchRange [cwRange e f])))

def reqFabric (f : FmtE) : Req :=
  { gov := false, stall := true,
    reads := ownReads (pairR f.s0 ++ (if f.var = 1 then [(f.s1, 3)] else pairR f.s1) ++ [(f.s2, 3)]
      ++ cwReads f) }

/-- The operands of a fabric instruction; the local side is left out for `fsig`. -/
def fabOf (e : Env) (f : FmtE) (op : Nat) : FabOp :=
  let sig := 2 ≤ op
  let sp := !sig && f.var = 1
  { op := op, owners := [e.key], tag := eTag e, vi := eVi e, pc := ePc e, remote := opPair e f.s0 0, node := eNode e f,
    scratch := sp, so := if sp then eVal e f.s1 else 0, addr := if sp || sig then 0 else opPair e f.s1 0,
    len := if sig then 8 else eLen f, value := if sig then opPair e f.s1 0 else 0, bar := eBarNo f, cw := eCw e f,
    sent := false, failed := false, owned := [], left := if sig then [] else List.range (eLen f / 16), data := [] }

/-! ## Sending (20 R452, R453) -/

/-- The message of an operation. -/
def fabMessage (n : Nat) (o : FabOp) (payload : List Byte) : FabOut :=
  { node := nodeOf o.node, vi := nodeVi o.node, kind := o.op, tag := n, addr := o.remote, len := o.len,
    payload := payload }

/-- The bytes that an operation brings to its target. -/
def fabPayload (o : FabOp) : List Byte :=
  match o.op with
  | 0 => (List.range (o.len / 16)).flatMap (fun u => (aget o.data u).getD (List.replicate 16 0))
  | 1 => []
  | _ => natLe 8 o.value.toNat

/-- Send an operation; one to this module's own node is performed here (20 R446). -/
def sendFab (s : State) (n : Nat) (o : FabOp) : State :=
  let s := putFab s n { o with sent := true }
  if nodeOf o.node = ownNode s then
    later s (.fabricOperationAtTarget
      { port := none, srcNode := ownNode s, srcVi := o.vi, dstVi := nodeVi o.node, op := o.op, tag := n,
        addr := o.remote, len := o.len, payload := fabPayload o, done := [], owned := [] })
  else sendOut s (fabMessage n o (fabPayload o))

/-- Release an operation: an `fput` reads its local side first, an `fsig` waits for its turn. -/
def releaseFab (s : State) (o : FabOp) : State :=
  let n := fresh s
  let s := putFab n.2 n.1 o
  match o.op with
  | 0 => nextFab s n.1 (fun s => fabLocalDone sendFab s n.1)
  | 1 => sendFab s n.1 o
  | _ => later s (.fsigWrite n.1)

def fabIssue (trap : State → Env → Option TrapInfo) (f : FmtE) (op : Nat) (e : Env) (s : State) : State :=
  match trap s e with
  | some t => trapE s e t
  | none => finishStall (releaseFab s (fabOf e f op)) e id

def execFput (f : FmtE) (s : State) : Host.Outcome State Fault Refusal :=
  issue (.fput f) (reqFabric f) (fabIssue (fun s e => putGetTrap s e f 11) f 0) s
def execFget (f : FmtE) (s : State) : Host.Outcome State Fault Refusal :=
  issue (.fget f) (reqFabric f) (fabIssue (fun s e => putGetTrap s e f 12) f 1) s
def execFsig (f : FmtE) (s : State) : Host.Outcome State Fault Refusal :=
  issue (.fsig f) { reqFabric f with reads := ownReads (pairR f.s0 ++ pairR f.s1 ++ [(f.s2, 3)] ++ cwReads f) }
    (fabIssue (fun s e => fsigTrap s e f) f (if f.var = 1 then 3 else 2)) s

/-! ## The life of a released operation -/

/-- One unit of a job, or of the local side of a fabric operation (10 R296; 20 R452). -/
def execCopyUnitTransfer (job unit : Nat) (s : State) : Host.Outcome State Fault Refusal :=
  match aget s.jobs job, aget s.fabs job with
  | some j, _ => .next (moveUnit s job j unit)
  | none, some o =>
    .next (if !o.left.contains unit then s
      else match fabUnit s job o unit with
        | .wait s' => later s' (.copyUnitTransfer job unit)
        | .fail sub kind addr => failFab s job o sub kind addr
        | .done s' =>
          match aget s'.fabs job with
          | none => s'
          | some o' =>
            nextFab (putFab s' job { o' with left := o'.left.filter (· ≠ unit) }) job
              (fun s => fabLocalDone sendFab s job))
  | none, none => .next s

/-- An earlier `fput` or `fget` of the context to the same node word that has not been performed at the target, or never will
be: of an `fget`, one whose answer has not come (20 R453). -/
def fsigWaits (s : State) (n : Nat) (o : FabOp) : Bool :=
  s.fabs.any (fun p => p.1 < n && p.2.op < 2 && p.2.node = o.node && o.owners.any (fun k => p.2.owners.contains k)
    && (p.2.op = 0 || !p.2.sent || p.2.data.isEmpty))

def execFsigWrite (op : Nat) (s : State) : Host.Outcome State Fault Refusal :=
  match aget s.fabs op with
  | none => .next s
  | some o =>
    .next (if o.op < 2 || o.sent || o.failed then s
      else if fsigWaits s op o then later s (.fsigWrite op)
      else sendFab s op o)

/-- Bytes as 16-byte units. -/
def unitsOf (len : Nat) (payload : List Byte) : Amap (List Byte) :=
  (List.range (len / 16)).map (fun u => (u, (payload.drop (16 * u)).take 16))

/-- The target has answered: an `fget` writes its local side, the others count and signal (20 R455). -/
def execFabricAcknowledgement (op : Nat) (payload : List Byte) (s : State) : Host.Outcome State Fault Refusal :=
  match aget s.fabs op with
  | none => .next s
  | some o =>
    .next (if !o.sent || o.failed || (o.op = 1 && !o.data.isEmpty) then s
      else if (o.op ≠ 1 || o.left.isEmpty) && cwBusy s o then later s (.fabricAcknowledgement op payload)
      else if o.op = 1 then
        if payload.length ≠ o.len then s
        else
          let s := putFab s op { o with data := unitsOf o.len payload }
          nextFab s op (fun s => fabLocalDone sendFab s op)
      else signalFab (countBytes s o.tag o.bar o.len) op o)

/-- The word of a refusal: its subcause, and the address that fails above it. -/
def refusalWord (sub : Nat) (addr : Word64) : Nat := sub + 256 * addr.toNat

/-- The target refuses: SUB 7, 8 or 10, at the address that fails (20 R456). -/
def execFabricRefusal (op sub : Nat) (s : State) : Host.Outcome State Fault Refusal :=
  match aget s.fabs op with
  | none => .next s
  | some o =>
    .next (if o.sent && !o.failed then failFab s op o (sub % 256) 15 (BitVec.ofNat 64 (sub / 256)) else s)

/-- No answer within 2^26 cycles: SUB 9; the port counts an operation that was sent (20 R450, R456). -/
def execFabricTimeout (op port : Nat) (s : State) : Host.Outcome State Fault Refusal :=
  match aget s.fabs op with
  | none => .next s
  | some o =>
    .next (if o.failed then s
      else if o.sent then failFab (countPort s (some port) 4) op o 9 15 o.remote
      else if 2 ≤ o.op then failFab s op o 9 15 o.remote else s)

/-! ## Operations at this module (20 R446, R452, R453, R457) -/

/-- Answer the source: here when the source is this module. -/
def answerFab (s : State) (op : FabricIn) (payload : List Byte) : State :=
  if op.port.isNone then later s (.fabricAcknowledgement op.tag payload)
  else sendOut s { node := op.srcNode, vi := op.srcVi, kind := 6, tag := op.tag, addr := op.addr,
                                         len := payload.length, payload := payload }

/-- The engine that serves inbound operations. -/
def inbEng (vi : Nat) : Eng := { core := 0, vi := vi, agent := agentInb, mine := [] }

/-- The lines that an inbound write owns change (16 R389). -/
def holdInbound (s : State) (op : FabricIn) (new : List (Nat × Nat)) : State := holdLines s (inbEng op.dstVi) op.owned new

/-- Refuse with a subcause and the address that fails; a refusal under R446 is counted on its port. -/
def refuseFab (s : State) (op : FabricIn) (sub : Nat) (addr : Word64) : State :=
  let s := holdInbound s op []
  let s := if sub = 7 then countPort s op.port 3 else s
  if op.port.isNone then later s (.fabricRefusal op.tag (refusalWord sub addr))
  else sendOut s { node := op.srcNode, vi := op.srcVi, kind := 7, tag := op.tag, addr := addr,
                                         len := sub, payload := [] }

/-- The subcause of a failure at the target (20 R456). -/
def targetSub (n : Nat) : Nat := if n = 3 then 10 else 8

/-- Bytes of a unit of the operation. -/
def inUnit (op : FabricIn) (u : Nat) : List Byte := (op.payload.drop (16 * u)).take 16

/-- Units still to be performed. -/
def unitsLeft (op : FabricIn) : List Nat :=
  (List.range (op.len / 16)).filter (fun u => !op.done.any (fun p => p.1 = u))

/-- Perform one unit of a write or a read; the lines of a write are held until their last write. -/
def targetUnit (s : State) (op : FabricIn) (u : Nat) : EngRes :=
  let at_ (u : Nat) : Word64 := op.addr + v64 (16 * u)
  let again (s : State) (bytes : List Byte) (owned : List (Nat × Nat)) : EngRes :=
    .done (later (holdInbound s op owned)
      (.fabricOperationAtTarget { op with done := op.done ++ [(u, bytes)], owned := owned }))
  if op.op = 0 then
    let need := ((unitsLeft op).filter (· ≠ u)).flatMap (fun v => linesFrom (at_ v) 16)
    withWrite s (inbEng op.dstVi) (at_ u) (inUnit op u) (fun s lines =>
      again s [] (ownedNext op.owned ((linesFrom (at_ u) 16).zip lines) need.contains))
  else withRead s (inbEng op.dstVi) .remoteRead 15 (at_ u) 16 (fun s bytes => again s bytes [])

/-- The 8-byte write or add of a signal. -/
def targetSignal (s : State) (op : FabricIn) : EngRes :=
  let g := inbEng op.dstVi
  if op.op = 2 then withWrite s g op.addr (op.payload.take 8) (fun s _ => .done (answerFab s op []))
  else withRead s g .atomic 15 op.addr 8 (fun s old =>
    let v := leNat old + leNat (op.payload.take 8)
    withWrite s g op.addr (natLe 8 v) (fun s _ => .done (answerFab s op [])))

/-- The bytes that a read returns. -/
def readAnswer (op : FabricIn) : List Byte :=
  (List.range (op.len / 16)).flatMap (fun u => match op.done.find? (fun p => p.1 = u) with
    | some p => p.2
    | none => [])

/-- An operation came through this port, which carries traffic; none from this module itself. -/
def portCarries (s : State) (port : Option Nat) : Bool := match port with | some n => carries (portOf s n) | none => true

/-- What the module does next for an operation that it takes. -/
def targetAct (s : State) (op : FabricIn) : EngRes :=
  if 2 ≤ op.op then targetSignal s op
  else match (unitsLeft op)[free s op.tag (unitsLeft op).length]? with
    | some u => targetUnit s op u
    | none => .done (answerFab s op (if op.op = 1 then readAnswer op else []))

/-- One act for an operation at this module; while its port carries no traffic it waits (20 R448). -/
def execFabricOperationAtTarget (op : FabricIn) (s : State) : Host.Outcome State Fault Refusal :=
  .next (if !portCarries s op.port then later s (.fabricOperationAtTarget op)
    else if !takesFrom s op.dstVi op.srcNode op.srcVi then refuseFab s op 7 op.addr
    else match targetAct s op with
      | .done s' => s'
      | .wait s' => later s' (.fabricOperationAtTarget op)
      | .fail sub _ addr => refuseFab s op (targetSub sub) addr)

end Sys2Proof.Machine
end

