-- ==== Sys2Proof/Machine/Paver.lean ====
section
/-!
DEFINITION. The Paver: decisions at epoch ends, moves of bands, pins and advice as they are applied, and records that
software writes (13 R346 to R361).
-/

namespace Sys2Proof.Machine

/-! ## Lines of a band (13 R352, R353) -/

/-- The monitor's die (13 R343). -/
def bandDie (key : Nat) : Nat := homeOf (lineOf (64 * key))

/-- The physical line of line t of a band as a VI translates it; none when the line may not be moved. -/
def moveLine (s : State) (die vi : Nat) (geom : BitVec 1024) (ix t : Nat) : Option Nat :=
  match translate s (36 * die) vi (tileLine geom ix t) with
  | .error _ => none
  | .ok x => if pageRefuses (viOf s vi).desc .move x || isPoisoned s (lineOf x.pa) then none else some (lineOf x.pa)

/-- The physical lines of the band, in order; none when a line fails a check or is poisoned. -/
def bandLinesOf (s : State) (key : Nat) (m : MoveJob) : Option (List Nat) :=
  (List.range (bandLines m.geom)).foldl (fun acc t =>
    acc.bind (fun l => (moveLine s (bandDie key) m.vi m.geom m.bandIx t).map (fun x => l ++ [x]))) (some [])

/-- The move may be made: both orders are legal, and every line passes (13 R352, R353). -/
def moveAllowed (s : State) (key : Nat) (m : MoveJob) : Bool :=
  orderLegal m.geom (bandAt s key).order && orderLegal m.geom m.order && (bandLinesOf s key m).isSome

/-- Moves under way on a die (13 R351). -/
def movesOn (s : State) (die : Nat) : Nat :=
  (s.bands.filter (fun p => bandDie p.1 = die && p.2.st = 1)).length
def enginesBusy (s : State) (key : Nat) : Bool := 8 ≤ movesOn s (bandDie key)

/-- A line belongs to a band that is MOVING: to its data or its record (02 R51). -/
def lineMoving (s : State) (line : Nat) : Bool :=
  s.bands.any (fun p => p.2.st = 1 && (lineOf (64 * p.1) = line
    || (match p.2.move with | some m => m.lines.contains line | none => false)))

/-- A write of the record on behalf of a VI cannot be made now: its line is owned, locked, held, or waited for at its home
(16 R384, R390, R399, R405). The state that waits. -/
def recordHeld (s : State) (vi key : Nat) (geom : BitVec 1024) (ix : Nat) : Option State :=
  let l := lineOf (64 * key)
  let f : Nat → Fill := fun _ => recordFill s vi key geom ix
  if (engineOwner s l).isSome || storeLock s [] l || linesWait s (bandDie key) true f [l] || !(holders s none [l]).isEmpty
  then some (expireHolds (askLines (recallAll s [l]) (bandDie key) true f [l]) none [l])
  else none

/-! ## Moves (13 R350) -/

/-- The band enters MOVING; a pin that waits for an engine goes on waiting while its monitor moves the band. -/
def startMove (s : State) (key : Nat) (m : MoveJob) : State :=
  let b := bandAt s key
  let m := { m with lines := (bandLinesOf s key m).getD [] }
  let s := putBand s key { b with st := 1, move := some m, pinWait := if m.pin then none else b.pinWait }
  later (writeRecord s m.vi key m.geom m.bandIx) (.paverMoveInstall key)

/-- Physical place of the element at (x, y) of a band under an order: line, element. -/
def elemPlace (lines : List Nat) (geom : BitVec 1024) (o : BitVec 4) (x y : Nat) : Nat × Nat :=
  (lines.getD (bandLine geom o x y) 0, lineIndex geom o x y)

/-- Every element of the band as order p finds it: x, y, value. -/
def bandElems (s : State) (lines : List Nat) (geom : BitVec 1024) (p : BitVec 4) : List (Nat × Nat × Nat) :=
  (List.range (recBr geom)).flatMap (fun y => (List.range (recBc geom)).map (fun x =>
    let q := elemPlace lines geom p x y
    (x, y, readElem s (recFormat geom) (128 * q.1) q.2)))

/-- Write the elements where order n puts them, and the lines to memory. -/
def rewrite (s : State) (lines : List Nat) (geom : BitVec 1024) (p n : BitVec 4) : State :=
  let s' := (bandElems s lines geom p).foldl (fun s e =>
    let q := elemPlace lines geom n e.1 e.2.1
    writeCells s (elemCells s (recFormat geom) (128 * q.1) q.2 e.2.2)) s
  lines.foldl (fun s l => writeBackLine s l) s'

/-- Recall, rewrite and install (13 R350, steps 2 to 4). -/
def installMove (s : State) (key : Nat) (m : MoveJob) : State :=
  let p := (bandAt s key).order
  let s := m.lines.foldl (fun s l => noteKey (dropLine s l) m.vi l) s
  let s := rewrite s m.lines m.geom p m.order
  let b := bandAt s key
  let s := putBand s key { b with
    order := m.order, prev := p, version := b.version + 1, st := m.target, move := none,
    flips := if m.pin then b.flips else Nat.min (b.flips + 1) 3, flag := m.flag }
  writeRecord s m.vi key m.geom m.bandIx

/-- A line has been poisoned since the band entered MOVING: nothing is moved, the decision is discarded, a pin pins the
current order (13 R352; log entry 39). -/
def abandonMove (s : State) (key : Nat) (m : MoveJob) : State :=
  let b := bandAt s key
  writeRecord (putBand s key { b with st := if m.pin then 3 else 0, move := none }) m.vi key m.geom m.bandIx

/-- A committed store that does not wait for the band's move locks the line (16 R399): a store to the band itself waits. -/
def moveLock (s : State) (key line : Nat) : Bool := lockBut s [] [key] line

/-- The move installs, once every engine, every lock and every line hold has let go of the band's lines. -/
def execPaverMoveInstall (band : Nat) (s : State) : Host.Outcome State Fault Refusal :=
  match (bandAt s band).move with
  | none => .next s
  | some m =>
    .next (match recordHeld s m.vi band m.geom m.bandIx with
    | some s' => later s' (.paverMoveInstall band)
    | none =>
      if m.lines.any (fun l => (engineOwner s l).isSome || inService s l || moveLock s band l)
          || !(holders s none m.lines).isEmpty then
        later (expireHolds (recallAll s m.lines) none m.lines) (.paverMoveInstall band)
      else if m.lines.any (isPoisoned s) then abandonMove s band m
      else installMove s band m)

/-! ## Decisions (13 R348, R355) -/

/-- C(o). -/
def bandCost (b : Band) (o : BitVec 4) : Nat :=
  let t := agetD b.sums 0 o.toNat
  if o = b.advord && 0 < b.advwt then t - b.advwt else t

/-- o goes before p: less cost, then the current order, then its sequencing, then the code. -/
def costBefore (b : Band) (o p : BitVec 4) : Bool :=
  let rank (q : BitVec 4) : Nat := if q = b.order then 0 else if orderByCol q = orderByCol b.order then 1 else 2
  if bandCost b o ≠ bandCost b p then bandCost b o < bandCost b p
  else if rank o ≠ rank p then rank o < rank p
  else o.toNat < p.toNat

/-- `decide`. -/
def bandDecide (b : Band) (geom : BitVec 1024) : Option (BitVec 4) :=
  let best := (legalOrders geom).foldl (fun (a : Option (BitVec 4)) o => match a with
    | none => some o
    | some p => if costBefore b o p then some o else some p) none
  let h := if b.hyst = 0 then 32 else b.hyst
  match best with
  | none => none
  | some o =>
    if o = b.order || (bandCost b b.order - bandCost b o) * 256 ≤ h * agetD b.sums 0 b.order.toNat then none
    else some o

/-- The square order: log2 mr - log2 mc nearest zero, then fewer rows, by rows (13 R355). -/
def squareOrder (geom : BitVec 1024) : BitVec 4 :=
  let off (o : BitVec 4) : Nat := ((o.toNat : Int) - (Nat.log2 (orderCols geom o) : Int)).natAbs
  (((legalOrders geom).filter (fun o => !orderByCol o)).foldl (fun (a : Option (BitVec 4)) o => match a with
    | none => some o
    | some p => if off o < off p then some o else some p) none).getD 0

/-- What a decision makes the Paver do: a move, a band settled as it is, or nothing (13 R355). -/
inductive Decision where
  | move (order : BitVec 4) (target : Nat) (flag : Bool)
  | settle
  | nothing
  deriving DecidableEq, Repr

def decisionOf (b : Band) (geom : BitVec 1024) : Decision :=
  if b.st ≠ 0 then .nothing
  else match bandDecide b geom with
    | none => .nothing
    | some o =>
      if o = b.prev && b.flag then
        if squareOrder geom = b.order || b.flips = 3 then .settle else .move (squareOrder geom) 2 false
      else if b.flips = 3 then .nothing
      else .move o 0 (o = b.prev)

/-- The band after its epoch: counts cleared, advice halved, EPOCH and HYST as software left them (13 R346, R361). -/
def epochCleared (s : State) (key : Nat) (b : Band) : Band :=
  { b with epcnt := 0, sums := [], advwt := b.advwt / 2, epochDue := false,
           epoch := rrField (readRecord s key) 16 16, hyst := rrField (readRecord s key) 64 16 }

/-- An epoch ends: the monitor decides (13 R346 to R349). -/
def endEpoch (s : State) (key : Nat) : State :=
  let b0 := bandAt s key
  let b := { b0 with hyst := rrField (readRecord s key) 64 16 }
  let after := epochCleared s key b0
  let write (b : Band) : State := writeRecord (putBand s key b) b0.geomVi key b0.geom b0.bandIx
  match decisionOf b b0.geom with
  | .nothing => write after
  | .settle => write { after with st := 2, flag := false }
  | .move o target flag =>
    let m : MoveJob :=
      { order := o, target := target, pin := false, geom := b0.geom, vi := b0.geomVi, bandIx := b0.bandIx, ctxs := [],
        lines := [], flag := flag }
    if enginesBusy s key || !moveAllowed s key m then write after else startMove (write after) key m

def execEpochEnd (band : Nat) (s : State) : Host.Outcome State Fault Refusal :=
  .next (if !(bandAt s band).epochDue then s
    else match recordHeld s (bandAt s band).geomVi band (bandAt s band).geom (bandAt s band).bandIx with
    | some s' => later s' (.epochEnd band)
    | none => endEpoch s band)

/-- A window ends, after an epoch that ends on the same access (13 R346). The record is written on behalf of the VI of the
access that ended it, and a move that the same access starts may install before or after it: the model's choices (log entries
84, 85). -/
def execWindowEnd (band : Nat) (s : State) : Host.Outcome State Fault Refusal :=
  let b := bandAt s band
  .next (if !b.windowDue then s
    else if b.epochDue then later s (.windowEnd band)
    else match recordHeld s b.geomVi band b.geom b.bandIx with
    | some s' => later s' (.windowEnd band)
    | none =>
      writeRecord (putBand s band { b with
        wincnt := 0, flips := 0, flag := false, windowDue := false, st := if b.st = 2 then 0 else b.st }) b.geomVi band
        b.geom b.bandIx)

/-! ## Pins and advice (13 R357, R360) -/

def opxOrd (x : Word) : BitVec 4 := x.extractLsb' 0 4
def opxCur (x : Word) : Bool := x.getLsbD 4
def opxWt (x : Word) : Nat := (x.extractLsb' 16 16).toNat

/-- Operations wait while the band moves, while a decision is due, and while a pin move waits for an engine (13 Table 13-2,
R346, R351). -/
def layoutWaits (b : Band) : Bool := b.st = 1 || b.epochDue || b.windowDue || b.pinWait.isSome

/-- The pin move of an operation. -/
def pinMove (op : LayoutOp) : MoveJob :=
  { order := opxOrd op.x, target := 3, pin := true, geom := op.hrec, vi := op.vi, bandIx := op.bandIx, ctxs := op.ctxs,
    lines := [], flag := false }

/-- The band as an operation leaves it, and its record. -/
def opRecord (s : State) (key : Nat) (op : LayoutOp) (b : Band) : State :=
  writeRecord (putBand s key b) op.vi key op.hrec op.bandIx

/-- `apply_pin`. -/
def applyPin (s : State) (key : Nat) (op : LayoutOp) : State :=
  let b := bandAt s key
  let m := pinMove op
  if opxCur op.x || m.order = b.order || !moveAllowed s key m then
    opRecord s key op { b with st := 3 }
  else if enginesBusy s key then later (putBand s key { b with pinWait := some m }) (.pinMoveStart key)
  else startMove s key m

/-- `apply_unpin`. -/
def applyUnpin (s : State) (key : Nat) (op : LayoutOp) : State :=
  let b := bandAt s key
  opRecord s key op (if b.st = 3 then { b with st := 0, epcnt := 0, sums := [] } else b)

/-- `apply_advice` on the monitor. -/
def advise (b : Band) (x : Word) : Band :=
  let w := opxWt x
  if w = 0 then b
  else if b.st = 3 then { b with advign := Nat.min (b.advign + 1) 255 }
  else
    let b := if b.advwt = 0 || opxOrd x = b.advord then
        { b with advord := opxOrd x, advwt := Nat.min (b.advwt + w) 65535 }
      else if w ≤ b.advwt then { b with advwt := b.advwt - w }
      else { b with advord := opxOrd x, advwt := w - b.advwt }
    { b with st := if b.st = 2 then 0 else b.st }

/-- Apply the oldest waiting operation of a band when it is of this kind and nothing delays it. -/
def applyOp (s : State) (key kind : Nat) (ev : Instr) (act : State → LayoutOp → State) : State :=
  let b := bandAt s key
  match b.queue with
  | [] => s
  | op :: rest =>
    if layoutWaits b || op.kind ≠ kind then
      if b.queue.any (fun o => o.kind = kind) then later s ev else s
    else match recordHeld s op.vi key op.hrec op.bandIx with
      | some s' => later s' ev
      | none => act (putBand s key { b with queue := rest }) op

def execPinApply (band : Nat) (s : State) : Host.Outcome State Fault Refusal :=
  .next (applyOp s band 0 (.pinApply band) (fun s op => applyPin s band op))
def execUnpinApply (band : Nat) (s : State) : Host.Outcome State Fault Refusal :=
  .next (applyOp s band 1 (.unpinApply band) (fun s op => applyUnpin s band op))
def execAdviceApply (band : Nat) (s : State) : Host.Outcome State Fault Refusal :=
  .next (applyOp s band 2 (.adviceApply band) (fun s op =>
    opRecord s band op (advise (bandAt s band) op.x)))

/-- A pin move that waited for an engine begins, after a move that its monitor has started meanwhile (13 R351, Table
13-8). -/
def execPinMoveStart (band : Nat) (s : State) : Host.Outcome State Fault Refusal :=
  let b := bandAt s band
  match b.pinWait with
  | none => .next s
  | some m =>
    .next (if b.st = 1 || b.epochDue || b.windowDue then later s (.pinMoveStart band)
    else match recordHeld s m.vi band m.geom m.bandIx with
    | some s' => later s' (.pinMoveStart band)
    | none =>
      if m.order = b.order || !moveAllowed s band m then
        writeRecord (putBand s band { b with st := 3, pinWait := none }) m.vi band m.geom m.bandIx
      else if enginesBusy s band then later s (.pinMoveStart band)
      else startMove s band m)

/-! ## Records that software writes (13 R361) -/

/-- The device holds the band: its monitor is in use, or a core has its order. -/
def bandHeld (s : State) (key : Nat) : Bool :=
  (aget s.bands key).isSome || s.boc.any (fun p => p.1 / 512 = key)

/-- The monitor after words of the record have been written: `w k` says that word k was. Words that were not written
leave the live values. -/
def bandWritten (s : State) (key : Nat) (b : Band) (w : Nat → Bool) : Band :=
  let n := bandOfRecord s key (readRecord s key)
  let mon := (List.range 8).any (fun k => w (8 + k))
  { b with
    order := if w 0 then n.order else b.order, prev := if w 0 then n.prev else b.prev,
    st := if w 0 then n.st else b.st, flips := if w 0 then n.flips else b.flips,
    version := if w 1 then n.version else b.version, epcnt := if w 3 then n.epcnt else b.epcnt,
    wincnt := if w 4 then n.wincnt else b.wincnt, advign := if w 5 then n.advign else b.advign,
    advord := if w 6 then n.advord else b.advord, advwt := if w 6 then n.advwt else b.advwt,
    sums := if mon then n.sums else b.sums, flag := if mon then n.flag else b.flag }

/-- Software has written words of a record: `before` is the band as it stood. A changed ORDER under the same VERSION gets
the next VERSION. A monitor that is not in use takes up the record at the band's first access. -/
def recordWritten (s : State) (key : Nat) (before : Band) (w : Nat → Bool) : State :=
  let b := bandWritten s key before w
  let bump := b.order ≠ before.order && b.version = before.version
  let b := if bump then { b with version := b.version + 1 } else b
  let s := if bump then writeNat s (64 * key + 4) 4 b.version.toNat else s
  if (aget s.bands key).isSome then putBand s key b else s

/-- Bands whose records overlap `n` bytes at `pa`, with their state before the write; on a LYREC page every record is one. -/
def bandsBefore (s : State) (lyrec : Bool) (pa n : Nat) : List (Nat × Band) :=
  if n = 0 then []
  else ((List.range ((pa + n - 1) / 64 - pa / 64 + 1)).map (· + pa / 64)).filterMap (fun k =>
    if lyrec || bandHeld s k then some (k, bandAt s k) else none)

/-- After a write of `n` bytes at `pa` by software. -/
def recordsWritten (s : State) (before : List (Nat × Band)) (pa n : Nat) : State :=
  before.foldl (fun s p => recordWritten s p.1 p.2 (fun k => pa < 64 * p.1 + 4 * k + 4 && 64 * p.1 + 4 * k < pa + n)) s

end Sys2Proof.Machine
end

