-- ==== Sys2Proof/Machine/Junction.lean ====
section
/-!
DEFINITION. Junction: its instructions, plans, pulls, legs and milestone records (20 R459 to R468).
-/

namespace Sys2Proof.Machine

/-! ## Transfer cards (20 Table 20-7) -/

def tcFormat (c : BitVec 2048) : Nat := pkField c 32 4
def tcG (c : BitVec 2048) (k : Nat) : Nat := pkField c (544 + 32 * k) 32
def tcXid (c : BitVec 2048) : Word := c.extractLsb' 640 32
def tcLegmax (c : BitVec 2048) : Nat := pkField c 672 32
def tcDstMesh (c : BitVec 2048) : Word64 := c.extractLsb' 704 64
def tcSrcMesh (c : BitVec 2048) : Word64 := c.extractLsb' 768 64
def tcMs (c : BitVec 2048) : Word64 := c.extractLsb' 832 64
def tcDoneAddr (c : BitVec 2048) : Word64 := c.extractLsb' 896 64
def tcDoneVal (c : BitVec 2048) : Word64 := c.extractLsb' 960 64

/-- The card is malformed (20 R459). -/
def cardBad (c : BitVec 2048) : Bool :=
  pkField c 0 32 ≠ 1 || c.extractLsb' 36 508 ≠ 0 || c.extractLsb' 1024 1024 ≠ 0 || 10 < tcFormat c
  || tcG c 0 = 0 || tcG c 1 = 0 || tcG c 2 = 0 || tcLegmax c % 128 ≠ 0 || (tcDoneAddr c).toNat % 8 ≠ 0

/-! ## Mesh descriptors (20 R460, R461) -/

/-- A mesh: rows, columns, the axis of each dimension, the node word and record address of each rank. -/
structure Mesh where
  mr   : Nat
  mc   : Nat
  ax   : List Nat
  ents : List (Word × Word64)
  deriving DecidableEq, Repr

def meshAx (m : Mesh) (k : Nat) : Nat := m.ax.getD k 0
/-- Ranks along the axis that splits dimension k. -/
def meshSplit (m : Mesh) (k : Nat) : Nat := match meshAx m k with | 1 => m.mr | 2 => m.mc | _ => 1
/-- Extent and origin of a rank's box along k. -/
def boxExt (m : Mesh) (g : Nat → Nat) (k : Nat) : Nat := g k / meshSplit m k
def boxOrg (m : Mesh) (g : Nat → Nat) (i k : Nat) : Nat :=
  match meshAx m k with
  | 1 => i / m.mc * boxExt m g k
  | 2 => i % m.mc * boxExt m g k
  | _ => 0
/-- A source rank that stands for its copies: coordinate 0 along every axis that splits nothing. -/
def isPrimary (m : Mesh) (i : Nat) : Bool := (m.ax.contains 1 || i / m.mc = 0) && (m.ax.contains 2 || i % m.mc = 0)

/-- What reading a planning object comes to: unreadable (CAUSE 7), malformed (CAUSE 1), or the object. -/
inductive Planned (α : Type) where
  | unreadable
  | malformed
  | ok (a : α)

/-- Planning reads: ordinary loads of the VI, as a number. -/
def jnRead (s : State) (g : Eng) (va : Word64) (n : Nat) : Option Nat :=
  match engRead s g .load va n with
  | .ok (bytes, _) => some (leNat bytes)
  | .error _ => none

def readMesh (s : State) (g : Eng) (va : Word64) (ext : Nat → Nat) : Planned Mesh :=
  match jnRead s g va 64 with
  | none => .unreadable
  | some h =>
    let mr := h / 2 ^ 32 % 2 ^ 16
    let mc := h / 2 ^ 48 % 2 ^ 16
    let ax := (List.range 3).map (fun k => h / 2 ^ (64 + 2 * k) % 4)
    if h % 2 ^ 32 ≠ 1 || h / 2 ^ 70 ≠ 0 || mr = 0 || mc = 0 || 65536 < mr * mc || ax.contains 3
        || 1 < ax.count 1 || 1 < ax.count 2 then .malformed
    else
      let m0 : Mesh := { mr := mr, mc := mc, ax := ax, ents := [] }
      if (List.range 3).any (fun k => ext k % meshSplit m0 k ≠ 0) then .malformed
      else match jnRead s g (va + 64) (16 * (mr * mc)) with
        | none => .unreadable
        | some x =>
          let w (i : Nat) : Nat := x / 2 ^ (128 * i) % 2 ^ 64
          if (List.range (mr * mc)).any (fun i => 2 ^ 30 ≤ w i) then .malformed
          else .ok { m0 with ents := (List.range (mr * mc)).map (fun i =>
            (BitVec.ofNat 32 (w i), BitVec.ofNat 64 (x / 2 ^ (128 * i + 64)))) }

/-- The rank of this module and a VI in a mesh: the first entry that names them. -/
def rankIn (s : State) (vi : Nat) (m : Mesh) : Option Nat :=
  m.ents.findIdx? (fun p => p.1 = nodeWord (ownNode s) vi)

/-- A rank's shard record (20 R461). -/
def readShard (s : State) (g : Eng) (m : Mesh) (ext : Nat → Nat) (fmt rank : Nat) : Planned (BitVec 1024) :=
  let va := (m.ents.getD rank (0, 0)).2
  if va.toNat % 128 ≠ 0 then .malformed
  else match jnRead s g va 128 with
    | none => .unreadable
    | some x =>
      let h := BitVec.ofNat 1024 x
      if recMalformed h || recFormat h ≠ fmt || (List.range 3).any (fun k => recDim h k ≠ boxExt m ext k)
          || (recScales h && boxExt m ext 0 % 16 ≠ 0) then .malformed
      else .ok h

/-! ## The plan (20 R462) -/

/-- Bytes of an element in a leg: a T6 element counts as one byte. -/
def legElemBytes (fmt : Nat) : Nat := elemBits fmt / 8

/-- Legs of one pair of ranks. -/
def pairLegs (c : BitVec 2048) (sm dm : Mesh) (sr dr : Nat) : List Leg :=
  let so (k : Nat) := boxOrg sm (tcG c) sr k
  let d0 (k : Nat) := boxOrg dm (tcG c) dr k
  let lo (k : Nat) := Nat.max (so k) (d0 k)
  let hi (k : Nat) := Nat.min (so k + boxExt sm (tcG c) k) (d0 k + boxExt dm (tcG c) k)
  let ext (k : Nat) := hi k - lo k
  if ext 0 = 0 || ext 1 = 0 || ext 2 = 0 then []
  else
    let lm := if tcLegmax c = 0 then 1048576 else tcLegmax c
    let q := Nat.max 1 (lm / (ext 0 * legElemBytes (tcFormat c)))
    (List.range (ext 2)).flatMap (fun z => (List.range ((ext 1 + q - 1) / q)).map (fun i =>
      { src := sr, dst := dr, node := (sm.ents.getD sr (0, 0)).1, x0 := lo 0, y0 := lo 1 + i * q, z0 := lo 2 + z,
        ext0 := ext 0, ext1 := Nat.min q (ext 1 - i * q), sOrg := (so 0, so 1, so 2), dOrg := (d0 0, d0 1, d0 2) }))

/-- The plan: by destination rank, then source rank. -/
def planLegs (c : BitVec 2048) (sm dm : Mesh) : List Leg :=
  let src := (List.range (sm.mr * sm.mc)).filter (isPrimary sm)
  (List.range (dm.mr * dm.mc)).flatMap (fun d => src.flatMap (fun r => pairLegs c sm dm r d))

/-! ## Milestone records (20 R463, Table 20-9) -/

def jnEng (x : Xfer) : Eng := { core := 36 * x.die, vi := x.vi, agent := agentJn, mine := [] }
def putXfer (s : State) (n : Nat) (x : Xfer) : State := { s with xfers := aput s.xfers n x }
def modXfer (s : State) (n : Nat) (f : Xfer → Xfer) : State := { s with xfers := amod s.xfers n f }

/-- Incoming legs: their numbers, in plan order. -/
def incoming (x : Xfer) : List Nat :=
  (List.range x.legs.length).filter (fun i => match x.legs[i]?, x.drank with
    | some l, some d => l.dst = d
    | _, _ => false)

def rankWord (r : Option Nat) : Nat := match r with | some k => k | none => 0xFFFFFFFF

/-- The header of a transfer's record. -/
def msHeader (x : Xfer) : List Byte :=
  natLe 4 (x.st + 256 * x.cause) ++ natLe 4 x.marked.length ++ natLe 4 1 ++ natLe 4 (tcXid x.card).toNat
  ++ natLe 4 x.legs.length ++ natLe 4 (incoming x).length ++ natLe 4 (rankWord x.srank) ++ natLe 4 (rankWord x.drank)
  ++ natLe 4 x.fleg.toNat ++ natLe 4 x.restarts ++ natLe 216 0

/-- The record cannot be written: FAULT with CAUSE 7, and one Amber event (20 R466). -/
def msLost (s : State) (n : Nat) (x : Xfer) (va : Word64) : State :=
  let s := putXfer s n { x with st := if x.st = 0 then 0 else 5, cause := 7, noRec := true }
  if x.noRec then s
  else amber s 0x0F x.die (256 + agentJn) (two32 x.vi (tcXid x.card).toNat) va.toNat 1 0

/-- Write bytes of the record. -/
def msWrite (s : State) (n off : Nat) (bytes : List Byte) : State :=
  match aget s.xfers n with
  | none => s
  | some x =>
    let va := x.ms + v64 off
    match engPlaces s (jnEng x) .copyOut va bytes.length with
    | .error e => msLost s n x e.2
    | .ok places => engStore s (jnEng x) (engFill s (jnEng x) va bytes.length) places bytes

/-- Lines of places that an engine is to write are held elsewhere: the state that waits for them. -/
def placesWait (s : State) (g : Eng) (va : Word64) (n : Nat) : Option State :=
  match engPlaces s g .copyOut va n with
  | .error _ => none
  | .ok places =>
    let f := engFill s g va n
    if engBlocked s g f (placeLines places) true then some (engWaiting s g f (placeLines places) true) else none

/-- Lines of part of the record are held elsewhere: the state that waits for them. A write of the record is a job of its own:
others write the record between Junction's writes (16 R389; 20 R468). -/
def msWaits (s : State) (x : Xfer) (off n : Nat) : Option State :=
  if n = 0 then none else placesWait s (jnEng x) (x.ms + v64 off) n

/-- Write the whole header. -/
def msAll (s : State) (n : Nat) : State :=
  match aget s.xfers n with | some x => msWrite s n 0 (msHeader x) | none => s

/-- Write STATE and CAUSE, and FLEG. -/
def msState (s : State) (n : Nat) : State :=
  match aget s.xfers n with
  | some x => msWrite (msWrite s n 0 ((msHeader x).take 4)) n 32 (((msHeader x).drop 32).take 4)
  | none => s

/-- Change the state of a transfer and its record. -/
def enterState (s : State) (n st cause : Nat) : State :=
  msState (modXfer s n (fun x => { x with st := st, cause := cause })) n

/-- The done event (20 R463, R466). -/
def doneEvent (s : State) (x : Xfer) : State :=
  let a := tcDoneAddr x.card
  if a = 0 then s
  else match engPlaces s (jnEng x) .copyOut a 8 with
    | .ok places => engStore s (jnEng x) (engFill s (jnEng x) a 8) places (natLe 8 (tcDoneVal x.card).toNat)
    | .error _ => amber s 0x0F x.die (256 + agentJn) (two32 x.vi (tcXid x.card).toNat) a.toNat 2 0

/-- Lines of the done event are held elsewhere. -/
def doneWaits (s : State) (x : Xfer) : Option State :=
  if tcDoneAddr x.card = 0 then none else placesWait s (jnEng x) (tcDoneAddr x.card) 8

/-- Whatever a state change writes can be written now. -/
def recordWaits (s : State) (x : Xfer) : Option State := (msWaits s x 0 256).orElse (fun _ => doneWaits s x)

/-! ## Pulls (20 R464) -/

/-- The VI's gang holds the module, or held it when the switch under way began: a chip then still serves pulls, so that legs
finish (04 R102). -/
def gangServes (s : State) (vi : Nat) : Bool :=
  if s.switching.isSome then s.leaving.contains vi else (viOf s vi).gang = s.runGang

/-- The VI's gang runs: new legs start. -/
def gangRuns (s : State) (vi : Nat) : Bool := (viOf s vi).gang = s.runGang && s.switching.isNone

/-- Send the pull of a leg to its source chip. -/
def sendPull (s : State) (n : Nat) (x : Xfer) (leg : Nat) : State :=
  match x.legs[leg]? with
  | none => s
  | some l =>
    if nodeOf l.node = ownNode s then
      later s (.junctionPullServe { port := none, srcNode := ownNode s, srcVi := x.vi, dstVi := nodeVi l.node,
                                    xid := tcXid x.card, leg := leg, tag := n, got := [] })
    else sendOut s { node := nodeOf l.node, vi := nodeVi l.node, kind := 4, tag := n,
                                           addr := v64 leg, len := (tcXid x.card).toNat, payload := [] }

/-- Start pulls in plan order while fewer than 8 legs are in flight. -/
def startPulls (s : State) (n : Nat) : State :=
  match aget s.xfers n with
  | none => s
  | some x =>
    if x.st ≠ 2 || !gangRuns s x.vi then s
    else
      let next := ((incoming x).filter (fun i => !x.marked.contains i && !x.flying.contains i)).take (8 - x.flying.length)
      next.foldl (fun s i => sendPull s n x i) (putXfer s n { x with flying := x.flying ++ next })

/-- Pulls of every transfer that may go on. -/
def resumePulls (s : State) : State := s.xfers.foldl (fun s p => startPulls s p.1) s

/-- Lines of scale bytes that a leg owns. -/
def legOwned (x : Xfer) (leg : Nat) : List (Nat × Nat) := (x.owned.filter (fun p => p.1 = leg)).map (·.2)

/-- The lines that a leg owns change (16 R389). -/
def setLegOwned (s : State) (n leg : Nat) (new : List (Nat × Nat)) : State :=
  match aget s.xfers n with
  | none => s
  | some x =>
    holdLines (putXfer s n { x with owned := x.owned.filter (fun p => p.1 ≠ leg) ++ new.map (fun p => (leg, p)) }) (jnEng x)
      (legOwned x leg) new

/-- A leg is no longer in flight: what it owns is released. -/
def landLeg (s : State) (n leg : Nat) : State :=
  modXfer (setLegOwned s n leg []) n (fun x => { x with flying := x.flying.filter (· ≠ leg) })

/-- A leg fails: no new leg starts, the chip enters FAULT (20 R464). -/
def legFails (s : State) (n leg cause : Nat) : State :=
  let s := landLeg s n leg
  match aget s.xfers n with
  | none => s
  | some x =>
    if x.st = 2 then enterState (putXfer s n { x with fleg := BitVec.ofNat 32 leg }) n 5 cause
    else if x.st = 5 && leg < x.fleg.toNat then msState (putXfer s n { x with fleg := BitVec.ofNat 32 leg }) n
    else s

/-- The last incoming bit is set: DONE, then the done event. -/
def finishXfer (s : State) (n : Nat) : State :=
  let s := enterState s n 3 0
  match aget s.xfers n with
  | some x => if x.st = 3 then doneEvent s x else s
  | none => s

/-- Mark a finished incoming leg: its bit, NDONE, then the state (20 R463). -/
def markLeg (s : State) (n leg : Nat) : State :=
  let s := landLeg s n leg
  match aget s.xfers n with
  | none => s
  | some x =>
    let va := x.ms + v64 (256 + leg / 8)
    let old := match engXlat s (jnEng x) .copyOut va with
      | .ok p => (exactByte s p.pa).toNat
      | .error _ => 0
    let bit := 2 ^ (leg % 8)
    let new := if old / bit % 2 = 1 then old else old + bit
    let x := { x with marked := addNew x.marked [leg] }
    let s := msWrite (putXfer s n x) n (256 + leg / 8) [BitVec.ofNat 8 new]
    let s := msWrite s n 4 (natLe 4 x.marked.length)
    match aget s.xfers n with
    | none => s
    | some x =>
      if x.st = 2 && (incoming x).all (fun i => x.marked.contains i) then finishXfer s n else startPulls s n

/-! ## Rows of a leg -/

/-- Region coordinates of element c of row r of a leg, in the shard of the source or of the destination. -/
def legX (h : BitVec 1024) (l : Leg) (org : Nat × Nat × Nat) (c : Nat) : Nat := recOrigin h 0 + (l.x0 - org.1) + c
def legY (h : BitVec 1024) (l : Leg) (org : Nat × Nat × Nat) (r : Nat) : Nat := recOrigin h 1 + (l.y0 + r - org.2.1)
def legZ (h : BitVec 1024) (l : Leg) (org : Nat × Nat × Nat) : Nat := recOrigin h 2 + (l.z0 - org.2.2)

/-- Bytes of a row of a leg: its elements, then its scale bytes (20 R461). -/
def rowBytes (h : BitVec 1024) (l : Leg) : Nat :=
  l.ext0 * legElemBytes (recFormat h) + (if recScales h then l.ext0 / 16 else 0)

/-- Where the elements of a row lie. -/
def rowSpots (s : State) (g : Eng) (h : BitVec 1024) (l : Leg) (org : Nat × Nat × Nat) (acc : Access) (r : Nat) :
    List (Nat × Spot) :=
  (List.range l.ext0).map (fun c =>
    (c, spotOf s g.core g.vi h acc 0 (legX h l org c) (legY h l org r) (legZ h l org)))

/-- Placed elements: column, key, band, translation, element. -/
def placedRow (sp : List (Nat × Spot)) : List (Nat × Nat × Nat × Xlat × Nat) :=
  sp.filterMap (fun p => match p.2 with
    | .place key b x _ i _ => some (p.1, key, b, x, i)
    | .bad .. => none)

/-- The fills of a row's lines. -/
def rowFill (s : State) (g : Eng) (sp : List (Nat × Spot)) : Nat → Fill :=
  xlatFill s g.vi 0 ((placedRow sp).map (fun p => p.2.2.2.1))
/-- The lines of a row. -/
def rowLines (sp : List (Nat × Spot)) : List Nat := distinct ((placedRow sp).map (fun p => lineOf p.2.2.2.1.pa))

/-- A row that may be accessed: its failure, or the state that waits for it (13 R344; 09 R280). -/
def rowReady (s : State) (g : Eng) (sp : List (Nat × Spot)) (out : Bool) : Option EngRes :=
  let stale := sp.filterMap (fun p => match p.2 with
    | .place key _ _ _ _ v => if isStale s key v then some key else none
    | .bad .. => none)
  match sp.findSome? (fun p => match p.2 with | .bad pos kind _ addr => some (pos - 2, kind, addr) | .place .. => none) with
  | some (n, kind, addr) => some (.fail n kind addr)
  | none =>
    if (placedRow sp).any (fun p => bandBusy s p.2.1) then some (.wait s)
    else if !stale.isEmpty then some (.wait (stale.foldl (fun s k => bocRefresh s g.core k) s))
    else if engBlocked s g (rowFill s g sp) (rowLines sp) out then some (.wait (engWaiting s g (rowFill s g sp) (rowLines sp) out))
    else none

/-- Count the band accesses of a row. -/
def rowCounted (s : State) (g : Eng) (h : BitVec 1024) (l : Leg) (org : Nat × Nat × Nat) (r : Nat)
    (sp : List (Nat × Spot)) : State :=
  bandAccesses s g.vi h ((placedRow sp).map (fun p => (p.2.1, p.2.2.1, legX h l org p.1, legY h l org r)))

/-- Addresses of the scale bytes of a row. -/
def rowScales (h : BitVec 1024) (l : Leg) (org : Nat × Nat × Nat) (r : Nat) : List Word64 :=
  if recScales h then
    (List.range (l.ext0 / 16)).map (fun k => scaleVa h (legX h l org (16 * k)) (legY h l org r) (legZ h l org))
  else []

/-- Read scale bytes one after another and go on with them. -/
def readScales (s : State) (g : Eng) : List Word64 → (State → List Byte → EngRes) → EngRes
  | [], k => k s []
  | a :: r, k => withRead s g .scale 0 a 1 (fun s b => readScales s g r (fun s l => k s (b ++ l)))

/-- The band of a row's first element that fails holds an order that is illegal for it (02 R43). -/
def rowIllegal (s : State) (g : Eng) (h : BitVec 1024) (l : Leg) (r : Nat) (sp : List (Nat × Spot)) : Bool :=
  match sp.find? (fun p => match p.2 with | .bad .. => true | .place .. => false) with
  | some (c, .bad 4 8 _ _) =>
    (match translate s g.core g.vi (recordVa h (bandIndex h (legX h l l.sOrg c) (legY h l l.sOrg r) (legZ h l l.sOrg))) with
     | .ok x => !pageRefuses (viOf s g.vi).desc .record x
     | .error _ => false)
  | _ => false

/-- Read one row at the source: the bytes, or a failure; an illegal order has a code of its own, 9. -/
def readRow (s : State) (g : Eng) (h : BitVec 1024) (l : Leg) (r : Nat) (k : State → List Byte → EngRes) : EngRes :=
  let sp := rowSpots s g h l l.sOrg .tensorLoad r
  if rowIllegal s g h l r sp then .fail 9 0 0
  else match rowReady s g sp false with
  | some x => x
  | none =>
    if (rowLines sp).any (isPoisoned s) then .fail 3 0 0
    else
      let f := recFormat h
      let sv := dieSees s (engDie g)
      let bytes := (placedRow sp).flatMap (fun p => natLe (legElemBytes f) (readElem sv f p.2.2.2.1.pa p.2.2.2.2))
      readScales (engTake s g (rowFill s g sp) (rowLines sp)) g (rowScales h l l.sOrg r) (fun s scales =>
        k (rowCounted s g h l l.sOrg r sp) (bytes ++ scales))

/-- Write the elements of a row: line by line, each owned only while it is written (16 R389). -/
def storeRow (s : State) (g : Eng) (f : Nat) (fill : Nat → Fill) (bytes : List Byte) (row : List (Nat × Nat × Nat × Xlat × Nat)) :
    State :=
  row.foldl (fun s p =>
    let x := p.2.2.2.1
    let w := legElemBytes f
    let v := leNat ((bytes.drop (p.1 * w)).take w)
    let s := engClaim s g fill (fun _ => pteTol x.pte) (lineOf x.pa)
    writeCells s (elemCells s f x.pa p.2.2.2.2 v)) s

/-- Write scale bytes one after another and go on with the lines written, virtual and physical. -/
def storeScales (s : State) (g : Eng) (bytes : List Byte) : List Word64 → (State → List (Nat × Nat) → EngRes) → EngRes
  | [], k => k s []
  | a :: r, k => withWrite s g a (bytes.take 1) (fun s ls =>
      storeScales s g (bytes.drop 1) r (fun s l => k s ((linesFrom a 1).zip ls ++ l)))

/-- Write one row at the destination and go on with the lines of its scale bytes. -/
def writeRow (s : State) (g : Eng) (h : BitVec 1024) (l : Leg) (r : Nat) (bytes : List Byte)
    (k : State → List (Nat × Nat) → EngRes) : EngRes :=
  let f := recFormat h
  let sp := rowSpots s g h l l.dOrg .tensorStore r
  match rowReady s g sp true with
  | some x => x
  | none =>
    storeScales s g (bytes.drop (l.ext0 * legElemBytes f)) (rowScales h l l.dOrg r) (fun s ls =>
      k (rowCounted (storeRow s g f (rowFill s g sp) bytes (placedRow sp)) g h l l.dOrg r sp) ls)

/-- Virtual lines of the scale bytes of a leg's rows after row r. -/
def scalesAfter (h : BitVec 1024) (l : Leg) (r : Nat) : List Nat :=
  ((List.range l.ext1).filter (r < ·)).flatMap (fun q => (rowScales h l l.dOrg q).map (fun a => a.toNat / 128))

/-! ## Serving a pull (20 R464) -/

/-- Answer a pull. -/
def answerPull (s : State) (p : PullReq) (bytes : List Byte) : State :=
  if p.port.isNone then later s (.junctionLegComplete p.tag p.leg bytes)
  else sendOut s { node := p.srcNode, vi := p.srcVi, kind := 5, tag := p.tag, addr := v64 p.leg,
                                         len := bytes.length, payload := bytes }

/-- Refuse a pull: reason 0 not active here, 1 gang not running, else the CAUSE it gives at the destination. -/
def refusePull (s : State) (p : PullReq) (reason : Nat) : State :=
  let s := if reason = 4 then countPort s p.port 3 else s
  if p.port.isNone then later s (.junctionPullRefusal p.tag p.leg reason)
  else sendOut s { node := p.srcNode, vi := p.srcVi, kind := 7, tag := p.tag, addr := v64 p.leg,
                                         len := reason, payload := [] }

/-- The CAUSE of a source failure. -/
def sourceCause (n : Nat) : Nat := match n with | 3 => 6 | 9 => 7 | _ => 10

/-- Serve the next row of a leg that this chip's plan assigns to it. -/
def servePull (s : State) (p : PullReq) (x : Xfer) (l : Leg) : State :=
  let rb := rowBytes x.srcRec l
  let r := p.got.length / rb
  if l.ext1 ≤ r then answerPull s p p.got
  else match readRow s (jnEng x) x.srcRec l r (fun s bytes =>
      .done (later s (.junctionPullServe { p with got := p.got ++ bytes }))) with
    | .done s' => s'
    | .wait s' => later s' (.junctionPullServe p)
    | .fail n _ _ => refusePull s p (sourceCause n)

/-- A pull is served row by row; while its port carries no traffic it waits (20 R448). Of several transfers of the VI with
its XID, the one with the lowest number serves it: the model's choice (log entry 51). -/
def execJunctionPullServe (p : PullReq) (s : State) : Host.Outcome State Fault Refusal :=
  .next (if !portCarries s p.port then later s (.junctionPullServe p)
    else if !takesFrom s p.dstVi p.srcNode p.srcVi then refusePull s p 4
    else match s.xfers.find? (fun q => q.2.vi = p.dstVi && tcXid q.2.card = p.xid && q.2.st ≠ 0) with
      | none => refusePull s p 0
      | some (_, x) =>
        if !gangServes s x.vi then refusePull s p 1
        else if x.st = 1 then later s (.junctionPullServe p)
        else match x.legs[p.leg]?, x.srank with
          | some l, some r => if l.src = r then servePull s p x l else refusePull s p 11
          | _, _ => refusePull s p 11)

/-! ## Legs at the destination -/

/-- A row of the leg has arrived: `payload` holds the rows not yet written (20 R463, R464). -/
def legRow (s : State) (n leg : Nat) (x : Xfer) (l : Leg) (payload : List Byte) : State :=
  let rb := rowBytes x.dstRec l
  let rows := payload.length / rb
  if payload.length % rb ≠ 0 || l.ext1 < rows then legFails s n leg 1
  else if rows = 0 then markLeg s n leg
  else match writeRow s (jnEng x) x.dstRec l (l.ext1 - rows) (payload.take rb) (fun s ls =>
      .done (setLegOwned s n leg
        (ownedNext (legOwned x leg) ls (scalesAfter x.dstRec l (l.ext1 - rows)).contains))) with
    | .done s' => later s' (.junctionLegComplete n leg (payload.drop rb))
    | .wait s' => later s' (.junctionLegComplete n leg payload)
    | .fail _ _ _ => legFails s n leg 7

/-- Whatever the end of a leg writes can be written now. -/
def legWaits (s : State) (x : Xfer) (leg : Nat) : Option State :=
  (recordWaits s x).orElse (fun _ => msWaits s x (256 + leg / 8) 1)

def execJunctionLegComplete (x leg : Nat) (payload : List Byte) (s : State) : Host.Outcome State Fault Refusal :=
  match aget s.xfers x with
  | none => .next s
  | some t =>
    match t.legs[leg]? with
    | none => .next s
    | some l =>
      .next (if !t.flying.contains leg then s
        else match legWaits s t leg with
          | some s' => later s' (.junctionLegComplete x leg payload)
          | none => legRow s x leg t l payload)

/-- A refusal: a retriable one is tried again, any other ends the leg. -/
def execJunctionPullRefusal (x leg reason : Nat) (s : State) : Host.Outcome State Fault Refusal :=
  match aget s.xfers x with
  | none => .next s
  | some t =>
    .next (if !t.flying.contains leg then s
      else if reason ≤ 1 then later s (.junctionPullRetry x leg)
      else match recordWaits s t with
        | some s' => later s' (.junctionPullRefusal x leg reason)
        | none => legFails s x leg reason)

/-- The retry of a refused pull. A transfer that no longer runs ends the leg instead; one whose gang does not run leaves it
for when it does (04 R102; 20 R465). -/
def execJunctionPullRetry (x leg : Nat) (s : State) : Host.Outcome State Fault Refusal :=
  match aget s.xfers x with
  | none => .next s
  | some t =>
    .next (if !t.flying.contains leg then s
      else if t.st = 2 && gangRuns s t.vi then sendPull s x t leg
      else landLeg s x leg)

def execJunctionPullTimeout (x leg : Nat) (s : State) : Host.Outcome State Fault Refusal :=
  match aget s.xfers x with
  | none => .next s
  | some t =>
    .next (if !t.flying.contains leg then s
      else match recordWaits s t with
        | some s' => later s' (.junctionPullTimeout x leg)
        | none => legFails s x leg 5)

/-! ## Planning (20 R462, R465) -/

/-- Shard records of this chip's ranks: the source's and the destination's. -/
def ownShard (s : State) (g : Eng) (c : BitVec 2048) (m : Mesh) (r : Option Nat) : Planned (BitVec 1024) :=
  match r with
  | none => .ok 0
  | some i => readShard s g m (tcG c) (tcFormat c) i

/-- Both meshes' boxes have a C0 extent that is a multiple of 16, where a shard of this chip has scales (20 R461). -/
def scalesFit (c : BitVec 2048) (sm dm : Mesh) (ss ds : BitVec 1024) : Bool :=
  !(recScales ss || recScales ds) || (boxExt sm (tcG c) 0 % 16 = 0 && boxExt dm (tcG c) 0 % 16 = 0)

/-- Transfers that are active besides this one. -/
def othersActive (s : State) (n : Nat) : Nat :=
  (s.xfers.filter (fun p => p.1 ≠ n && (p.2.st = 1 || p.2.st = 2))).length

def isUnreadable {α : Type} : Planned α → Bool
  | .unreadable => true
  | _ => false

/-- The mesh of a planning read, where it is good. -/
def goodOf {α : Type} : Planned α → Option α
  | .ok a => some a
  | _ => none

/-- The plan of a transfer, or its CAUSE (20 R465: 7, then 1, 3, 2, 9). -/
def derive_ (s : State) (n : Nat) (x : Xfer) : Except Nat Xfer :=
  let g := jnEng x
  let c := x.card
  let sm := readMesh s g (tcSrcMesh c) (tcG c)
  let dm := readMesh s g (tcDstMesh c) (tcG c)
  let sr := (goodOf sm).bind (rankIn s x.vi)
  let dr := (goodOf dm).bind (rankIn s x.vi)
  let ss := match goodOf sm with | some m => ownShard s g c m sr | none => .ok 0
  let ds := match goodOf dm with | some m => ownShard s g c m dr | none => .ok 0
  if isUnreadable sm || isUnreadable dm || isUnreadable ss || isUnreadable ds then .error 7
  else match goodOf sm, goodOf dm, goodOf ss, goodOf ds with
    | some sm, some dm, some ss, some ds =>
      if cardBad c || !scalesFit c sm dm ss ds then .error 1
      else if sr.isNone && dr.isNone then .error 3
      else
        let legs := planLegs c sm dm
        if 65536 < legs.length then .error 2
        else if 16 ≤ othersActive s n then .error 9
        else .ok { x with legs := legs, srank := sr, drank := dr, srcRec := ss, dstRec := ds }
    | _, _, _, _ => .error 1

/-- Legs whose bit is set in the record now, for a plan made again (20 R468); none when it cannot be read. -/
def markedNow (s : State) (x : Xfer) : Option (List Nat) :=
  match jnRead s (jnEng x) (x.ms + 256) ((x.legs.length + 7) / 8) with
  | some bits => some ((incoming x).filter (fun i => bits / 2 ^ i % 2 = 1))
  | none => none

/-- Bytes that hold `n` leg bits. -/
def legBytes (n : Nat) : Nat := (n + 7) / 8

/-- Clear the first `k` leg bits of the record. -/
def clearBits (s : State) (n k : Nat) : State := if k = 0 then s else msWrite s n 256 (natLe (legBytes k) 0)

/-- Enter RUNNING, or DONE at once when no incoming bit is clear. -/
def runXfer (s : State) (n : Nat) : State :=
  match aget s.xfers n with
  | none => s
  | some x =>
    if x.st ≠ 1 then s
    else
      let s := msAll (putXfer s n { x with st := 2 }) n
      match aget s.xfers n with
      | none => s
      | some x =>
        if x.st = 2 && (incoming x).all (fun i => x.marked.contains i) then finishXfer s n else startPulls s n

/-- Planning ends (20 Table 20-11). -/
def planDone (s : State) (n : Nat) (x : Xfer) : State :=
  match derive_ s n x with
  | .error cause => enterState s n 5 cause
  | .ok x' =>
    if x.clear.isNone then
      match markedNow s x' with
      | none => enterState s n 5 7
      | some m => runXfer (putXfer s n { x' with marked := m }) n
    else runXfer (clearBits (putXfer s n { x' with marked := [], clear := none }) n x'.legs.length) n

/-- The transfer writes that it plans: the header, or of a transfer planned again STATE, CAUSE, FLEG and RESTARTS; the
bits of the plan before `jnlaunch` are cleared (20 R465; 21 R471). -/
def planHeader (s : State) (n : Nat) (x : Xfer) : State :=
  let s := putXfer s n { x with hdr := true }
  let s := if x.again then msWrite (msState s n) n 36 (natLe 4 x.restarts)
    else clearBits (msAll s n) n (x.clear.getD 0)
  match aget s.xfers n with
  | some y => if y.st = 1 then later s (.junctionPlanComplete n) else s
  | none => s

/-- What planning reads of a mesh descriptor: addresses and lengths. -/
def meshSpans (s : State) (g : Eng) (va : Word64) : List (Word64 × Nat) :=
  let n := match jnRead s g va 64 with | some h => h / 2 ^ 32 % 2 ^ 16 * (h / 2 ^ 48 % 2 ^ 16) | none => 0
  (va, 64) :: (if n ≤ 65536 then [(va + 64, 16 * n)] else [])

/-- This chip's shard record in a mesh. -/
def shardSpans (s : State) (x : Xfer) (m : Planned Mesh) : List (Word64 × Nat) :=
  match goodOf m with
  | some m => (match rankIn s x.vi m with
    | some r => [((m.ents.getD r (0, 0)).2, 128)]
    | none => [])
  | none => []

/-- What planning reads. -/
def planSpans (s : State) (x : Xfer) : List (Word64 × Nat) :=
  let g := jnEng x
  let c := x.card
  meshSpans s g (tcSrcMesh c) ++ meshSpans s g (tcDstMesh c)
    ++ shardSpans s x (readMesh s g (tcSrcMesh c) (tcG c)) ++ shardSpans s x (readMesh s g (tcDstMesh c) (tcG c))

/-- The lines that planning reads, and their fills. -/
def planLines (s : State) (x : Xfer) : List Nat :=
  (planSpans s x).foldl (fun l p => addNew l (engLines s (jnEng x) .load p.1 p.2)) []
def planFill (s : State) (x : Xfer) : Nat → Fill :=
  xlatFill s x.vi 0 ((planSpans s x).flatMap (fun p => engXlats s (jnEng x) p.1 p.2))

/-- Planning waits: for lines that it reads, or for those of the record that it writes (16 R390, R399). -/
def planWaits (s : State) (n : Nat) (x : Xfer) : Option State :=
  let f := planFill s x
  let lines := planLines s x
  if engBlocked s (jnEng x) f lines false then some (engWaiting s (jnEng x) f lines false)
  else match derive_ s n x with
    | .ok x' => msWaits s x 256 (if x.clear.isNone then 0 else legBytes x'.legs.length)
    | .error _ => none

/-- A transfer in PLANNING writes its header, then its plan is derived. -/
def planStep (s : State) (n : Nat) (x : Xfer) : State :=
  let again (s : State) : State := later s (.junctionPlanComplete n)
  if !x.hdr then
    match msWaits s x 256 (legBytes (x.clear.getD 0)) with
    | some s' => again s'
    | none => planHeader s n x
  else match planWaits s n x with
    | some s' => again s'
    | none => planDone (engTake s (jnEng x) (planFill s x) (planLines s x)) n x

def execJunctionPlanComplete (x : Nat) (s : State) : Host.Outcome State Fault Refusal :=
  match aget s.xfers x with
  | none => .next s
  | some t =>
    .next (if t.st ≠ 1 then s
      else match recordWaits s t with
        | some s' => later s' (.junctionPlanComplete x)
        | none => planStep s x t)

/-! ## Release of `jnlaunch` and `jnrst` (20 R465, R466) -/

/-- The transfer of a VI with this milestone record. -/
def xferAt (s : State) (vi : Nat) (ms : Word64) : Option (Nat × Xfer) :=
  s.xfers.find? (fun p => p.2.vi = vi && p.2.ms = ms)

/-- A transfer enters PLANNING under a new number; legs of its former life that are in flight are forgotten. Its record says
so later (21 R471). -/
def planXfer (s : State) (old : Option (Nat × Xfer)) (x : Xfer) : State :=
  let s := match old with
    | some (k, y) => holdLines { s with xfers := aerase s.xfers k } (jnEng y) (y.owned.map (·.2)) []
    | none => s
  let n := fresh s
  later (putXfer n.2 n.1 x) (.junctionPlanComplete n.1)

/-- A fresh transfer of a card. -/
def newXfer (vi die : Nat) (c : BitVec 2048) (restarts : Nat) (again : Bool) (marked : List Nat) (clear : Option Nat) : Xfer :=
  { vi := vi, die := die, card := c, ms := tcMs c, st := 1, cause := 0, legs := [], srcRec := 0, dstRec := 0,
    srank := none, drank := none, fleg := 0xFFFFFFFF#32, restarts := restarts, again := again, marked := marked,
    flying := [], noRec := false, hdr := false, clear := clear, owned := [] }

/-- Close a transfer: serving ends, legs in flight finish (20 Table 20-11). -/
def closeXfer (s : State) (n : Nat) : State := enterState s n 0 8

/-- A transfer of which only its record is left, as a loss of power leaves it: the RESTARTS of one that `jnrst` takes up (log
entry 69). -/
def recordRestarts (s : State) (g : Eng) (ms : Word64) : Option Nat :=
  match jnRead s g ms 40 with
  | some h => if 3 ≤ h % 16 && h % 16 ≤ 5 then some (h / 2 ^ 288 % 2 ^ 32) else none
  | none => none

/-- What a released operation does with its card. -/
def jnAct (s : State) (o : JnOp) (die : Nat) (c : BitVec 2048) : State :=
  match o.op, xferAt s o.vi (tcMs c) with
  | 0, some (n, x) =>
    if x.st = 1 || x.st = 2 then s else planXfer s (some (n, x)) (newXfer o.vi die c 0 false [] (some x.legs.length))
  | 0, none => planXfer s none (newXfer o.vi die c 0 false [] (some 0))
  | 1, some (n, x) =>
    if x.st = 3 || x.st = 4 || x.st = 5 then
      planXfer s (some (n, x)) (newXfer o.vi die c (x.restarts + 1) true x.marked x.clear)
    else s
  | 1, none =>
    match recordRestarts s { core := 36 * die, vi := o.vi, agent := agentJn, mine := [o.ctx] } (tcMs c) with
    | some k => planXfer s none (newXfer o.vi die c (k + 1) true [] none)
    | none => s
  | 2, some (n, x) => if x.st = 2 then enterState s n 4 8 else s
  | 3, some (n, x) => if x.st = 0 then s else closeXfer s n
  | _, _ => s

/-- A released operation, or the state that waits while lines of its card or record are held elsewhere. A VI that has been
disabled has no transfer any more (04 R105). -/
def jnRelease (s : State) (o : JnOp) : Except State State :=
  let die := dieOfCore (coreOf o.ctx)
  let g : Eng := { core := 36 * die, vi := o.vi, agent := agentJn, mine := [o.ctx] }
  let lost : State :=
    amber s 0x06 die (coreOf o.ctx)
      (two32 o.vi (match aget s.ctxs o.ctx with | some c => (ctxidOf o.ctx c).toNat | none => 0)) 11 o.card.toNat 0
  if !(viOf s o.vi).en then .ok s
  else match readWaits s g .load o.card 256, engRead s g .load o.card 256 with
  | some s', _ => .error s'
  | none, .error _ => .ok lost
  | none, .ok (bytes, lines) =>
    let c := BitVec.ofNat 2048 (leNat bytes)
    if (tcMs c).toNat % 256 ≠ 0 then .ok lost
    else match placesWait s g (tcMs c) 256 with
      | some s' => .error s'
      | none => .ok (jnAct (engTake s g (engFill s g o.card 256) lines) o die c)

/-! ## Instructions (20 R466, R467) -/

def jnHeld (f : FmtE) (op : Nat) (e : Env) (s : State) : State :=
  let a := opPair e f.s1 0
  if !(viOf s (eVi e)).reshard then trapE s e (accessTrap cProtection (firstLane e) 14 0 0 (ePc e))
  else if a.toNat % 256 ≠ 0 then trapE s e (accessTrap cMisaligned 0 14 0 a (ePc e))
  else finish (holdOp s e (.jn { op := op, ctx := e.key, vi := eVi e, card := a })) e id

def reqJn (f : FmtE) : Req := { gov := false, held := true, reads := ownReads (pairR f.s1) }

def execJnlaunch (f : FmtE) (s : State) : Host.Outcome State Fault Refusal :=
  issue (.jnlaunch f) (reqJn f) (jnHeld f 0) s
def execJnrst (f : FmtE) (s : State) : Host.Outcome State Fault Refusal :=
  issue (.jnrst f) (reqJn f) (jnHeld f 1) s
def execJnrstStop (f : FmtE) (s : State) : Host.Outcome State Fault Refusal :=
  issue (.jnrstStop f) (reqJn f) (jnHeld f 2) s
def execJnrstClose (f : FmtE) (s : State) : Host.Outcome State Fault Refusal :=
  issue (.jnrstClose f) (reqJn f) (jnHeld f 3) s

/-- `jnst`: one 8-byte read of a milestone header, checked and ordered as a load. -/
def jnstDo (f : FmtE) (e : Env) (s : State) : State :=
  let a := opPair e f.s1 0
  let l := firstLane e
  let pc := ePc e
  let sv := seen s e
  if a.toNat % 256 ≠ 0 then trapE s e (accessTrap cMisaligned 0 14 0 a pc)
  else match translate s (eCore e) (eVi e) a with
    | .error lv => trapE s e (accessTrap cTranslationFault l 14 lv a pc)
    | .ok x =>
      match readXlat sv x 8 with
      | none => trapE s e (accessTrap cProtection l 14 0 a pc)
      | some bytes =>
        let lines := linesRead sv x 8
        if pageRefuses (viOf s (eVi e)).desc .load x then trapE s e (accessTrap cProtection l 14 0 a pc)
        else if loadWaits s e (xlatFill s (eVi e) 0 [x]) lines then waiting s e (xlatFill s (eVi e) 0 [x]) lines false
        else if lines.any (isPoisoned s) && !(forwarded (ownBytes s e) x.pa 8) then
          trapE s e (accessTrap cPoisonConsumed l 14 0 a pc)
        else
          let g := f.s0.toNat - 256
          unlessLost (joinReads (tlbFill s (eCore e) (eVi e) a x) e (xlatFill s (eVi e) 0 [x]) lines) e (fun s =>
            finish s e (fun r => putG (putG r g (BitVec.ofNat 32 (leNat bytes))) (g + 1)
              (BitVec.ofNat 32 (leNat (bytes.drop 4)))))

def execJnst (f : FmtE) (s : State) : Host.Outcome State Fault Refusal :=
  issue (.jnst f)
    { gov := false, reads := ownReads (pairR f.s1), shadows := [f.s0.toNat, f.s0.toNat + 1] } (jnstDo f) s

end Sys2Proof.Machine
end

