-- ==== Sys2Proof/Machine/Privileged.lean ====
section
/-!
DEFINITION. Prefixes (07 R175 to R178), slots that are no instruction (06 R161), the privileged instructions of MAJ 0x0F
(18 R433 to R437), and the invalidation of translations (18 R420, R435).
-/

namespace Sys2Proof.Machine

/-! ## Prefixes -/

/-- `pblk`: the next COUNT + 1 instructions are governed; the mask is read once (07 R175). -/
def execPblk (f : FmtP) (s : State) : Host.Outcome State Fault Refusal :=
  issue (.pblk f) { gov := false } (fun e s => modRegs s e.key (fun r =>
    { advance r with pblk := some { left := f.count.toNat + 1, pat := f.pat, mask := maskOf r f.mask.toNat } })) s

/-- The words that `xpfx` supplies (07 R177). -/
def xpfxWords (f : FmtQ) : List (BitVec 28) := [f.xw0, f.xw1, f.xw2].take (f.nw.toNat + 1)

/-- The v registers that its words name as fourth operands (06 R150). -/
def xpfxVregs (f : FmtQ) : List Nat := ((xpfxWords f).map xwOp4).filter (· < 256)

/-- `xpfx`: it takes no place of a `pblk` (07 R175). -/
def execXpfx (f : FmtQ) (s : State) : Host.Outcome State Fault Refusal :=
  issue (.xpfx f) { vregs := xpfxVregs f } (fun e s => modRegs s e.key (fun r =>
    { r with pc := nextSlot r.pc, xwords := xpfxWords f })) s

/-- A slot that is no instruction traps ILLEGAL_ENCODING (06 R161). -/
def execNotAnInstruction (w : Slot) (s : State) : Host.Outcome State Fault Refusal :=
  issue (.notAnInstruction w) {} (fun e s => trapE s e (plainTrap cIllegalEncoding (ePc e))) s

/-! ## Privileged instructions -/

def reqPriv (reads : List (Spec × BitVec 2)) : Req :=
  { gov := false, stall := true, priv := true, reads := ownReads reads }

/-- `ovtld` (18 R434). What an address-space context is the manual does not say: each VI has a table of its own, also
where the descriptors of two VIs name one address space (log entry 77). -/
def execOvtld (f : FmtA) (s : State) : Host.Outcome State Fault Refusal :=
  issue (.ovtld f) (reqPriv [(f.a, 3)]) (fun e s =>
    let v := opWord e 9 f.imm f.a 0
    if v.extractLsb' 22 10 ≠ 0 then trapE s e (plainTrap cIllegalEncoding (ePc e))
    else finishStall (modVi s (eVi e) (fun x => { x with ovt := v })) e id) s

/-- `ambw` (18 R437). -/
def execAmbw (f : FmtA) (s : State) : Host.Outcome State Fault Refusal :=
  issue (.ambw f) (reqPriv [(f.a, 3), (f.b, 3)]) (fun e s =>
    finishStall (amber s 0x80 (eDie e) (eCore e) (opWord e 9 f.imm f.a 0).toNat (opWord e 9 f.imm f.b 0).toNat
      (ctxidOf e.key e.c).toNat (ePc e).toNat) e id) s

/-- Cells of a 128-byte line that holds a word 32 times. -/
def lineCells (line : Nat) (w : Word) : List Host.Cell :=
  (List.range 128).map (fun k => (128 * line + k, w.extractLsb' (8 * (k % 4)) 8))

/-- `cmnt` (18 R436). -/
def cmntDo (f : FmtM) (e : Env) (s : State) : State :=
  let a := addrM e f 0
  let l := firstLane e
  let pc := ePc e
  if a.toNat % 128 ≠ 0 then trapE s e (accessTrap cMisaligned 0 10 0 a pc)
  else match translate s (eCore e) (eVi e) a with
    | .error lv => trapE s e (accessTrap cTranslationFault l 10 lv a pc)
    | .ok x =>
      let line := lineOf x.pa
      if pageRefuses (viOf s (eVi e)).desc .cmnt x then trapE s e (accessTrap cProtection l 10 0 a pc)
      else if lineMoving s line then s
      else if storeWaits s e (xlatFill s (eVi e) 0 [x]) [line] then waiting s e (xlatFill s (eVi e) 0 [x]) [line] true
      else
        let before := bandsBefore s (pteLyrec x.pte) (128 * line) 128
        let s := coreOwn (tlbFill s (eCore e) (eVi e) a x) (some e.key) (some (eCore e)) (xlatFill s (eVi e) 0 [x] line) line
        let s := noteKey s (eVi e) line
        let s := clearPoison (writeCells (noteWrite s line none (pteTol x.pte)) (lineCells line (opWord e 9 0 f.d 0))) line
        finishStall (recordsWritten s before (128 * line) 128) e id

def execCmnt (f : FmtM) (s : State) : Host.Outcome State Fault Refusal :=
  issue (.cmnt f) { reqPriv (addrReads f ++ [(f.d, 3)]) with cls := .st } (cmntDo f) s

/-! ## `tlbinv` and TICTL (18 R420, R435) -/

/-- The entry belongs to the invalidation: of the ASID, and on the path to the page when one is named. -/
def invCovers (t : TlbInv) (x : TlbEntry) : Bool :=
  x.asid = t.asid && (match t.page with | none => true | some va => x.page = pageOf x.level va)

/-- ASID of a context. -/
def asidOfCtx (s : State) (key : Nat) : Nat :=
  match (aget s.cohorts (tagOf s key)).bind (fun co => aget s.launches co.launch) with
  | some la => descAsid (viOf s la.vi).desc
  | none => 0

/-- Stores and operations on bands of an uncommitted region that hold a translation. -/
def holdsStores (c : Ctx) : Bool :=
  (storesOf (regionItems c)).any (fun en => match en with | .scratch .. => false | _ => true)

/-- Begin an invalidation: the entries go, and speculative stores that were translated are discarded with their regions,
which execute again. -/
def startInv (s : State) (t : TlbInv) (except : Option Nat) : State :=
  let s := { s with tlb := s.tlb.filter (fun x => !invCovers t x) }
  let hit (p : Nat × Ctx) : Bool := some p.1 ≠ except && asidOfCtx s p.1 = t.asid && holdsStores p.2
  let s := (s.ctxs.filter hit).foldl (fun s p => rollback s p.1 true) s
  let n := fresh s
  later { n.2 with tlbInvs := aput n.2.tlbInvs n.1 t } (.tlbInvalidationComplete n.1)

/-- The Paver has a move of the ASID under way, or one that waits for an engine, or an operation on the band. -/
def bandUses (s : State) (t : TlbInv) (b : Band) : Bool :=
  (b.move.toList.map (·.vi) ++ b.pinWait.toList.map (·.vi) ++ b.queue.map (·.vi)).any (fun v =>
    descAsid (viOf s v).desc = t.asid)

/-- Accesses already translated have been performed: committed stores, `redst` adds and the Paver's work for the ASID. -/
def invDone (s : State) (t : TlbInv) : Bool :=
  s.bands.all (fun p => !bandUses s t p.2)
  && s.ctxs.all (fun p => asidOfCtx s p.1 ≠ t.asid || (storesOf p.2.drain).isEmpty)
  && s.redsts.all (fun p => match (aget s.cohorts p.2.tag).bind (fun co => aget s.launches co.launch) with
      | some la => descAsid (viOf s la.vi).desc ≠ t.asid
      | none => true)

/-- `tlbinv`: the next instruction issues only after the invalidation has completed. -/
def tlbinvDo (f : FmtA) (e : Env) (s : State) : State :=
  if s.tlbInvs.any (fun p => p.2.ctx = some e.key) then s
  else startInv s
    { asid := descAsid (viOf s (eVi e)).desc, page := if f.c = 1 then some (opPair e f.a 0) else none, vi := none,
      ctx := some e.key } (some e.key)

def execTlbinv (f : FmtA) (s : State) : Host.Outcome State Fault Refusal :=
  issue (.tlbinv f) (reqPriv (if f.c = 1 then pairReads f.a else [])) (tlbinvDo f) s

/-- The context that waited goes on, unless it has halted meanwhile; TICTL is no longer busy. -/
def endInv (s : State) (n : Nat) (t : TlbInv) : State :=
  let s := { s with tlbInvs := aerase s.tlbInvs n }
  let s := match t.vi with
    | some v => modVi s v (fun x => { x with ticBusy := false })
    | none => s
  match t.ctx with
  | some k => modCtx s k (fun c =>
      if c.status = .running && c.fault.isNone && c.region.isNone then
        { c with r := { advance c.r with ovt := (viOf s (viOfCtx s k)).ovt }, ibuf := none }
      else c)
  | none => s

def execTlbInvalidationComplete (n : Nat) (s : State) : Host.Outcome State Fault Refusal :=
  match aget s.tlbInvs n with
  | none => .next s
  | some t => .next (if invDone s t then endInv s n t else later s (.tlbInvalidationComplete n))

/-- A walk completes: its entries may be cached (09 R246, R250). -/
def execPageWalkComplete (core vi : Nat) (va : Word64) (s : State) : Host.Outcome State Fault Refusal :=
  match translate s core vi va with
  | .ok x => .next (tlbFill s core vi va x)
  | .error _ => .next s

end Sys2Proof.Machine
end

