-- ==== Sys2Proof/Machine/Commit.lean ====
section
/-!
DEFINITION. Regions end: commit and what it releases (07 R200, R202; 10 R292, R307; 16 R399 to R405), coordinate accesses
at their home (09 R279 to R281), the adds of `redst` (09 R270), the halt (18 R410, R411), and trap records (18 R412 to
R416).
-/

namespace Sys2Proof.Machine

/-! ## The items of a committed region -/

/-- What acting on the oldest item of a drain comes to: it is done, or it waits. -/
inductive Drained where
  | done (s : State)
  | wait (s : State)
  deriving DecidableEq, Repr

/-- The oldest item leaves the drain; with the last one, a hand-over to the L2 is over (16 R402). -/
def popDrain (s : State) (key : Nat) (f : Ctx → Ctx) : State :=
  modCtx s key (fun c => f { c with drain := c.drain.tail, handed := if c.drain.tail.isEmpty then none else c.handed })

/-- Memory lines that a store entry writes next. -/
def entryLines (s : State) : StoreEntry → List Nat
  | .mem cells _ => cellLines cells
  | .coord es => cellLines ((elemsNext es).flatMap (elemNow s))
  | _ => []

/-- Memory lines that a store entry has still to write: those of the write set (16 R398). -/
def claimedLines (s : State) : StoreEntry → List Nat
  | .mem cells _ => cellLines cells
  | .coord es => cellLines ((elemsLeft es).flatMap (elemNow s))
  | _ => []

/-- Memory lines where the stale elements of a store entry will lie under the present orders of their bands. -/
def laterLines (s : State) (core vi : Nat) : StoreEntry → List Nat
  | .coord es => cellLines ((elemsLeft es).flatMap (elemThen s core vi))
  | _ => []

/-- What goes with the lines of a store entry. -/
def entryMarks : StoreEntry → List LineMark
  | .mem _ marks => marks
  | .coord es => es.map (·.mark)
  | _ => []

/-- A host's snoop is in service for the line: it waits for committed stores, not they for it (16 R402, Table 16-6). -/
def snooped (s : State) (line : Nat) : Bool :=
  match aget s.txns line with
  | some t => (match t.cur with | .snoop _ => true | _ => false)
  | none => false

/-- A context cannot write the lines now: an engine or a committed store of another holds one, a line hold delays the claim,
or the die has to wait for one (16 R384, R390, R399, R405). Committed stores to one band do not hold each other up: they
write different elements. -/
def writeWaits (s : State) (key core : Nat) (keys : List Nat) (f : Nat → Fill) (lines : List Nat) : Bool :=
  lines.any (fun l => (engineOwner s l).isSome || lockBut s [key] keys l
      || (askWaits s (dieOfCore core) true l && !snooped s l)) || !(holders s (some key) lines).isEmpty
  || !(roomBlocks (dieOfCore core) f s lines).isEmpty

/-- The state while a context waits to write the lines. -/
def writeAsks (s : State) (key core : Nat) (f : Nat → Fill) (lines : List Nat) : State :=
  expireHolds (askLines (recallAll s lines) (dieOfCore core) true f lines) (some key) lines

/-- The oldest item of a drain becomes what is left of it. -/
def stepDrain (s : State) (key : Nat) (en : StoreEntry) : State :=
  match entryRest en with
  | some r => modCtx s key (fun c => { c with drain := .store r :: c.drain.tail })
  | none => popDrain s key (fun c => countDone c en)

/-- A scratchpad store waits for the committed stores of others that write its bytes (16 R399). -/
def scratchWaits (s : State) (key : Nat) : StoreEntry → Bool
  | .scratch cells => cellsLocked s [key] (tagOf s key) cells
  | _ => false

/-- A committed store: it is performed, unless its band moves, it is stale, or its lines are held elsewhere. -/
def drainStore (s : State) (key : Nat) (c : Ctx) (en : StoreEntry) : Drained :=
  let core := storeCore key c
  let vi := viOfCtx s key
  let lines := entryLines s en
  let f := markFill s vi (entryMarks en)
  if entryBusy s en then .wait (laterOnce s (.coordinateAccessAtHome key))
  else if entryStale s en then .wait (laterOnce s (.staleRejection key))
  else if scratchWaits s key en then .wait (laterOnce s (.regionCommit key))
  else if writeWaits s key core (entryKeys en) f lines then
    .wait (laterOnce (writeAsks s key core f lines) (.regionCommit key))
  else .done (performEntry (stepDrain s key en) key core vi en)

/-- Undo what an item that will not be released still counts for: its class count and its dependency slot. -/
def discardItem (s : State) (key : Nat) (it : Item) : State :=
  match it with
  | .store en => modCtx s key (fun c => countDone c en)
  | .held h =>
    let s := match h with
      | .job _ => modCtx s key (fun c => { c with nCp := c.nCp - 1 })
      | _ => s
    match aget s.ctxs key with
    | some c => modGroup s c.group (fun g => { g with slots := clearSlot g.slots (heldSlot h) })
    | none => s

/-- A barrier operation fails when it is applied: the context goes back to it, the rest is discarded, and it traps
(10 R307). -/
def barFails (s : State) (key k sub : Nat) (before : Snap) (rest : List Item) : State :=
  let s := rest.foldl (fun s it => discardItem s key it) s
  let s := restoreSnap s key before
  let s := modCtx s key (fun c => { c with drain := [], ibuf := none, status := .running, woken := false })
  takeTrap s key (barTrap k sub before.regs.pc)

/-- A released accumulator write of the context, an inward copy among them, has not completed: arrivals wait for it (10 R302;
11 R336). -/
def accOwned (s : State) (key : Nat) : Bool :=
  s.accQ.any (fun p => p.2.any (fun a => a.owners.contains key))
  || s.jobs.any (fun p => (p.2.kind = .accInMem || p.2.kind = .accInSp) && p.2.owners.contains key)

/-- The context has arrived on barrier k in phase p (10 R306). -/
def noteArrival (s : State) (key k : Nat) (p : Bool) : State :=
  modRegs s key (fun r => { r with
    pend := r.pend ||| (1#17 <<< k)
    arrph := if p then r.arrph ||| (1#17 <<< k) else r.arrph &&& ~~~(1#17 <<< k) })

/-- The arrival of an `nbsync` is applied: its wait begins (10 R306, R307). -/
def waitBegins (key k : Nat) (p : Bool) (before : Snap) (s : State) : State :=
  modCtx s key (fun c => if c.status = .barEnd && before.regs.pc = c.r.pc then { c with status := .waitBar k p, woken := false }
    else c)

/-- Release a held operation, in its turn (07 R199; 10 R292, R307; 11 R331). -/
def drainHeld (s : State) (key : Nat) (h : Held) (rest : List Item) : Drained :=
  let tag := tagOf s key
  match h with
  | .job j => .done (startJob (popDrain s key id) j)
  | .acc a =>
    let fk := frameKeyOf key
    let s := popDrain s key id
    .done (later { s with accQ := aput s.accQ fk (agetD s.accQ [] fk ++ [a]) } (.matrixInstructionCompletion fk))
  | .jn j =>
    -- the stores behind it in program order do not lock its card
    match jnRelease (modCtx s key (fun c => { c with drain := [] })) j with
    | .ok s' => .done (modCtx s' key (fun c => { c with drain := rest }))
    | .error s' => .wait (laterOnce (modCtx s' key (fun c => { c with drain := .held h :: rest })) (.regionCommit key))
  | .barInit k em eb before =>
    match barInit (barOf s tag k) em eb with
    | some b => .done (popDrain (putBar s tag k b) key id)
    | none => .done (barFails s key k 1 before rest)
  | .barArrive k before =>
    if accOwned s key then .wait (laterOnce s (.regionCommit key))
    else
      let b := barOf s tag k
      match barArrive b with
      | some b' => .done (popDrain (noteArrival (putBar (waitBegins key k b.phase before s) tag k b') key k b.phase) key id)
      | none => .done (barFails s key k 2 before rest)

/-- Act on the items of a drain in program order until one waits; `n` bounds the acts. -/
def runDrain (key : Nat) : Nat → State → State
  | 0, s => s
  | n + 1, s =>
    match aget s.ctxs key with
    | none => s
    | some c =>
      match c.drain with
      | .store en :: _ => match drainStore s key c en with | .done s' => runDrain key n s' | .wait s' => s'
      | .held h :: rest => match drainHeld s key h rest with | .done s' => runDrain key n s' | .wait s' => s'
      | [] => s

/-- A bound of the acts on a context's drain: a store has at most two (09 R278). -/
def drainSize (s : State) (key : Nat) : Nat := match aget s.ctxs key with | some c => 2 * c.drain.length | none => 0

def goOnDrain (s : State) (key : Nat) : State := runDrain key (drainSize s key) s

/-! ## Commit -/

/-- Scratchpad granules that a store entry writes. -/
def entryGranules : StoreEntry → List Nat
  | .scratch cells => distinct (cells.map (fun c => c.1 / 128))
  | _ => []

/-- Regions of other contexts that have read what the stores of a committing region write roll back, and its die owns the
lines of the write set from now on (16 R398 to R400; 09 R260). -/
def claimStores (s : State) (key core vi : Nat) (ens : List StoreEntry) : State :=
  let s := (ens.flatMap (laterLines s core vi)).foldl (fun s l => rollbackLine s (some key) l) s
  let f := markFill s vi (ens.flatMap entryMarks)
  let s := (distinct (ens.flatMap (claimedLines s))).foldl (fun s l => coreOwn s (some key) (some core) (f l) l) s
  let gs := ens.flatMap entryGranules
  (s.ctxs.filter (fun p => p.1 ≠ key && tagOf s p.1 = tagOf s key && gs.any (holdsGranule p.2))).foldl (fun s p =>
    rollback s p.1 true) s

/-- The commit point of a region: its reads are released, its stores and held operations leave speculation, its write-set
lines are locked (07 R200; 16 R399, R403, R405). -/
def commitPoint (s : State) (key : Nat) (c : Ctx) (r : Region) : State :=
  let s := setCtx s key { c with
    region := none, drain := r.items, same := 0, ibuf := none,
    win := if r.holds then 0 else c.win, winOpen := if r.holds then false else c.winOpen }
  claimStores (if r.holds then windowShut s key else s) key (coreOf key) (viOfCtx s key) (storesOf r.items)

/-- The lines that the stores of a region write, and their fills. -/
def regionLines (s : State) (r : Region) : List Nat := (storesOf r.items).flatMap (claimedLines s)
def regionFill (s : State) (key : Nat) (r : Region) : Nat → Fill :=
  markFill s (viOfCtx s key) ((storesOf r.items).flatMap entryMarks)

/-- Every store of a region is ready for its commit (16 R398, R399): its lines and scratchpad bytes can be written. -/
def storesReady (s : State) (key : Nat) (r : Region) : Bool :=
  !(writeWaits s key (coreOf key) [] (regionFill s key r) (regionLines s r))
  && !((storesOf r.items).any (scratchWaits s key))

/-- The state while a region waits for its stores to be ready. -/
def readyStores (s : State) (key : Nat) (r : Region) : State :=
  writeAsks s key (coreOf key) (regionFill s key r) (regionLines s r)

/-- Bring the commit of a context forward: the commit point of an ended region, once every older store is performed and its
own are ready, then its items. -/
def commitOn (s : State) (key : Nat) : State :=
  match aget s.ctxs key with
  | none => s
  | some c =>
    match c.drain, c.region with
    | [], some r =>
      if !r.ended then s
      else if addsLeft s key then laterOnce s (.regionCommit key)
      else if storesReady s key r then goOnDrain (commitPoint s key c r) key
      else laterOnce (readyStores s key r) (.regionCommit key)
    | [], none => s
    | _, _ => goOnDrain s key

/-- A region commits, or what it released goes on. A region with a pending fault commits at the halt. -/
def execRegionCommit (ctx : Nat) (s : State) : Host.Outcome State Fault Refusal :=
  .next (commitOn s ctx)

/-- The launch of the context is being aborted: its contexts halt no more (18 R422). -/
def stopped (s : State) (key : Nat) : Bool :=
  match (aget s.cohorts (tagOf s key)).bind (fun co => aget s.launches co.launch) with
  | some la => la.aborted
  | none => false

/-- The part of the region before a trap has committed: the context halts (07 R202; 18 R410). -/
def haltStep (s : State) (key : Nat) : State :=
  match aget s.ctxs key with
  | none => s
  | some c =>
    if c.fault.isNone then s
    else if stopped s key then modCtx s key (fun c => { c with fault := none })
    else
      let s := commitOn s key
      match aget s.ctxs key with
      | none => s
      | some c =>
        match c.fault with
        | none => s
        | some t => if c.region.isNone && c.drain.isEmpty then haltNow s key t else laterOnce s (.contextHalt key)

def execContextHalt (ctx : Nat) (s : State) : Host.Outcome State Fault Refusal := .next (haltStep s ctx)

/-- WIN returns to zero (16 R403). -/
def execRollbackWindowExpiry (ctx : Nat) (s : State) : Host.Outcome State Fault Refusal :=
  .next (modCtx s ctx (fun c => { c with win := 0, winOpen := false }))

/-- The bound of a line hold passes: the message that it delays proceeds (16 R405). -/
def execLineHoldExpiry (ctx : Nat) (s : State) : Host.Outcome State Fault Refusal :=
  .next (match aget s.ctxs ctx with
  | some c => match c.region with
    | some r => if r.holds && !r.nonspec then rollback s ctx true else s
    | none => s
  | none => s)

/-! ## Coordinate accesses at their home (09 R280, R281) -/

/-- A committed coordinate store that waited for its band reaches the home again. -/
def execCoordinateAccessAtHome (ctx : Nat) (s : State) : Host.Outcome State Fault Refusal :=
  .next (goOnDrain s ctx)

/-- The stale entries of a core's band order cache. -/
def staleOf (s : State) (core : Nat) : List Nat :=
  (s.boc.filter (fun p => p.1 % 512 = core && isStale s (p.1 / 512) p.2.2)).map (fun p => p.1 / 512)

/-- A stale element as its band's present order translates it; one whose translation fails is not written (log entry 32). -/
def retranslated (s : State) (core vi : Nat) (e : ElemStore) : ElemStore :=
  if 2 ≤ e.part || !elemStale s e then e
  else match elemSpot s core vi e with
    | .place key b x _ i v => { e with key := key, band := b, pa := x.pa, ix := i, mark := elemMark e.hrec x, ver := v }
    | .bad .. => { e with part := 3 }

/-- A stale access: the core reads the records again; a committed store is translated again and reissued, an uncommitted
region rolls back, a non-speculative one reissues in place. An access that waits at its homes is rejected by the versions
that it came with (09 R280, R281). -/
def execStaleRejection (ctx : Nat) (s : State) : Host.Outcome State Fault Refusal :=
  match aget s.ctxs ctx with
  | none => .next s
  | some c =>
    let core := storeCore ctx c
    let stale := staleOf s core
    let s' := stale.foldl (fun s k => bocRefresh s core k) s
    .next (match c.drain, c.region with
    | .store (.coord es) :: rest, _ =>
      let vi := viOfCtx s ctx
      goOnDrain (setCtx s' ctx { c with drain := .store (.coord (es.map (retranslated s' core vi))) :: rest }) ctx
    | _, some r =>
      if stale.isEmpty && !c.carried.any (fun p => isStale s p.1 p.2) then s
      else if r.nonspec then dropCarried s' ctx else rollback s' ctx true
    | _, none => s')

/-! ## The adds of `redst` (09 R270, R271) -/

/-- One add is performed at the home, on the latest value written (09 R270; 15 R375). -/
def homeAdd (s : State) (vi : Nat) (ovt : Word) (pa : Nat) (x : Word) (marks : List LineMark) : State :=
  let w := fp32AddRne ovt (exactWord s pa) x
  performCells s none none vi (markFill s vi marks) ((List.range 4).map (fun k => (pa + k, w.extractLsb' (8 * k) 8))) marks
    false

/-- The line of an add is held elsewhere. -/
def addWaits (s : State) (vi line : Nat) (marks : List LineMark) : Bool :=
  (engineOwner s line).isSome || storeLock s [] line || !(holders s none [line]).isEmpty
  || linesWait s (homeOf line) true (markFill s vi marks) [line]

/-- The instruction is complete: it leaves the ST counts. -/
def endRedst (s : State) (op : Nat) (r : RedOp) : State :=
  let s := { s with redsts := aerase s.redsts op }
  let s := r.owners.foldl (fun s k => modCtx s k (fun c => { c with nSt := c.nSt - 1 })) s
  laterOnce s (.cohortEnd r.tag)

/-- The next lane's add takes its place at the home, or waits for its line. -/
def execRedstHomeAdd (op : Nat) (s : State) : Host.Outcome State Fault Refusal :=
  match aget s.redsts op with
  | none => .next s
  | some r =>
    match r.adds with
    | [] => .next (endRedst s op r)
    | (pa, x, marks) :: rest =>
      let line := lineOf pa
      let vi := viOfTag s r.tag
      .next (if addWaits s vi line marks then
        later (expireHolds (askLines (recallAll s [line]) (homeOf line) true (markFill s vi marks) [line]) none [line])
          (.redstHomeAdd op)
      else
        let s := homeAdd s vi r.ovt pa x marks
        let r := { r with adds := rest }
        if rest.isEmpty then endRedst s op r else later { s with redsts := aput s.redsts op r } (.redstHomeAdd op))

/-! ## Trap records (18 R411 to R416) -/

/-- TRAP_NOTICE (04 Table 4-1; 18 Table 18-4). -/
def trapNotice (vi ridx : Nat) (norec : Bool) (cause : Nat) (ctxid : Word) : BitVec 768 :=
  at_ 768 64 ctxid.toNat ||| at_ 768 32 cause ||| at_ 768 26 (if norec then 1 else 0) ||| at_ 768 16 ridx
  ||| at_ 768 8 vi ||| at_ 768 0 0x0D

/-- CAUSE of a record. -/
def recCause (r : PendingRec) : Nat := (r.record.extractLsb' 8 8).toNat

/-- The live context, running or saved, that a CTXID names (18 R418). -/
def ctxNamed (s : State) (id : Word) : Option (Nat × Ctx) := s.ctxs.find? (fun p => ctxidOf p.1 p.2 = id)

/-- The record is lost: an Amber event, and a notice that says so (18 R416). -/
def recordLost (s : State) (n : Nat) (r : PendingRec) : State :=
  let core := coreOf r.ctxid.toNat
  let s := amber { s with recs := aerase s.recs n } 0x08 (dieOfCore core) core (two32 r.vi r.ctxid.toNat) (recCause r) 0 0
  send s (descOwner (viOf s r.vi).desc) (trapNotice r.vi 0 true (recCause r) r.ctxid)

/-- The record is in its slot: the next record takes the next one, and the host is told. -/
def recordDone (s : State) (n : Nat) (r : PendingRec) (slot : Nat) : State :=
  let s := modVi { s with recs := aerase s.recs n } r.vi (fun v => { v with trapNext := (slot + 1) % 1024 })
  let s := match ctxNamed s r.ctxid with
    | some p => if r.second then s else modCtx s p.1 (fun c => { c with recSlot := some slot })
    | none => s
  send s (descOwner (viOf s r.vi).desc) (trapNotice r.vi slot false (recCause r) r.ctxid)

/-- The context that a record is about has committed stores that are not yet performed. -/
def storesLeft (s : State) (r : PendingRec) : Bool :=
  match ctxNamed s r.ctxid with
  | some p => !p.2.drain.isEmpty || s.redsts.any (fun q => q.2.owners.contains p.1)
  | none => false

/-- The record of slot `slot` has VALID = 1. -/
def slotTaken (s : State) (places : List (Nat × Bool)) : Bool :=
  match places with
  | p :: _ => (readByte s p.1).getLsbD 0
  | [] => false

def execTrapRecordWrite (rec_ : Nat) (s : State) : Host.Outcome State Fault Refusal :=
  match aget s.recs rec_ with
  | none => .next s
  | some r =>
    let v := viOf s r.vi
    let g := inbEng r.vi
    let again (s : State) : State := later s (.trapRecordWrite rec_)
    .next (if storesLeft s r then again s
      else match engPlaces s g .hostWrite (descTrapBase v.desc + v64 (256 * v.trapNext)) 256 with
        | .error _ => recordLost s rec_ r
        | .ok places =>
          let lines := placeLines places
          let f := engFill s g (descTrapBase v.desc + v64 (256 * v.trapNext)) 256
          if slotTaken s places then again s
          else if engBlocked s g f lines true then again (engWaiting s g f lines true)
          else recordDone (engStore s g f places (natLe 256 r.record.toNat)) rec_ r v.trapNext)

end Sys2Proof.Machine
end

