-- ==== Sys2Proof/Machine/Coherence.lean ====
section
/-!
DEFINITION. The coherence messages taken one by one (16 Tables 16-4 to 16-6, R384 to R392): requests at their home, the
forwards and invalidations that they cause, the answers, and the messages inside a die. Between these events every
access of the module takes its line in one piece (Lines), and waits while the home has the line in service.
-/

namespace Sys2Proof.Machine

/-- A die, and a line of memory that has a home (16 R382). -/
def isPlace (die line : Nat) : Bool := die < 8 && inRanges (128 * line)

/-! ## What holds a message up -/

/-- Contexts of a die whose line holds delay a message for the line (16 R405). -/
def dieHolders (s : State) (die line : Nat) : List Nat := (holders s none [line]).filter (fun k => dieOfCore (coreOf k) = die)

/-- An invalidation waits: for a lock, an engine, or line holds of the die's contexts. -/
def invBlocked (s : State) (die line : Nat) : Bool := dieBlocked s die line || !(dieHolders s die line).isEmpty

/-- The waiting message comes again; recalls are sent, and the ends of line holds are due. -/
def waitFor (s : State) (ks : List Nat) (line : Nat) (i : Instr) : State :=
  later (ks.foldl (fun s k => laterOnce s (.lineHoldExpiry k)) (recallAll s [line])) i

/-! ## Snoops, and the home's queue (16 R384, R391, R392) -/

/-- A host reads the line: its owner keeps it, dirty in O, clean in S. -/
def hostReads (s : State) (line : Nat) : State :=
  match aget s.sf line with
  | none => s
  | some h =>
    if h.st ≠ 2 then s
    else match aget s.l2 (l2Key line h.owner) with
      | some e =>
        let dirty := isDirty (some e.st)
        let s := setL2 s line h.owner (if dirty then .o else .s) e.agents
        { s with sf := aput s.sf line { h with st := if dirty then 3 else 1 } }
      | none => s

/-- The data that an HSnpRsp returns: that of a die which holds the line modified (16 R391). -/
def snoopData (s : State) (line : Nat) : Option (List Byte) :=
  match (List.range 8).find? (fun d => isDirty (l2State s line d)) with
  | some d => some (readBytes (dieSees s d) (128 * line) 128)
  | none => none

/-- A snoop is served: the device's copies are recalled or downgraded, and the proxy answers (16 R391, R392). -/
def answerSnoop (s : State) (line : Nat) (own : Bool) : State :=
  let s := { s with snoopRsps := s.snoopRsps ++ [{ line := line, own := own, data := snoopData s line }] }
  if own then
    let s := if (aget s.sf line).isSome then dropLine s line else s
    { s with hostOwn := if s.hostOwn.contains line then s.hostOwn else s.hostOwn ++ [line] }
  else hostReads s line

/-- A snoop waits for locks and engines, and one that takes the line for line holds. -/
def snoopBlocked (s : State) (line : Nat) (own : Bool) : Bool :=
  storeLock s [] line || (engineOwner s line).isSome || (own && !(holders s none [line]).isEmpty)

/-- What the home has in service waits for a die: it is tried again when an answer of that die comes. -/
def homeWaits (s : State) (ks : List Nat) (line : Nat) (q : HomeReq) (rest : List HomeReq) : State :=
  laterOnce ((ks.foldl (fun s k => laterOnce s (.lineHoldExpiry k)) (recallAll (putTxn s line (newTxn q rest)) [line])))
    (.ack (homeOf line) line)

/-- The home takes up the next request for a line, `rest` behind it: it is done at once, or stays in service. -/
def takeUp (s : State) (line : Nat) (q : HomeReq) (rest : List HomeReq) : Drained :=
  match q with
  | .get die getm _ =>
    if needsNothing s die line getm then .done s
    else match sfVictim s line with
      | some v => .wait (laterOnce (putTxn s line { newTxn q rest with room := true }) (.binv v))
      | none => .wait (serve s line die getm (newTxn q rest))
  | .evict die dirty =>
    if !holdsL2 s line die || isDirty (l2State s line die) ≠ dirty then .done s
    else if dieBlocked s die line then .wait (homeWaits s [] line q rest)
    else .done (evictDie s die line)
  | .snoop own =>
    if snoopBlocked s line own then .wait (homeWaits s (if own then holders s none [line] else []) line q rest)
    else .done (answerSnoop s line own)

/-- The home goes through its queue until a request stays in service. -/
def serveNext (s : State) (line : Nat) : List HomeReq → State
  | [] => { s with txns := aerase s.txns line }
  | q :: rest =>
    match takeUp s line q rest with
    | .done s' => serveNext s' line rest
    | .wait s' => s'

/-- A message that is at the home already: an eviction is one event of its die, however often it is sent; each snoop and each
request is one of its own. -/
def isSent (t : Txn) (q : HomeReq) : Bool :=
  match q with
  | .evict .. => (t.cur :: t.queue).contains q
  | .get die getm _ => isAsked t die getm
  | .snoop _ => false

/-- A request reaches the home: it is served, or waits behind the others for the line in order of arrival (16 R384). -/
def arrive (s : State) (line : Nat) (q : HomeReq) : State :=
  match aget s.txns line with
  | some t => if isSent t q then s else putTxn s line { t with queue := t.queue ++ [q] }
  | none => match takeUp s line q [] with | .done s' => s' | .wait s' => s'

/-- The fill of a request whose VI and page class its message does not carry: which enabled VI it is, and which class, are
open (log entry 71). -/
def openFill (s : State) : Fill :=
  let on := (s.vis.filter (fun p => p.2.en)).map (·.1)
  match on[free s 7500 on.length]? with
  | some vi => viFill s vi (free s 7501 4) 0
  | none => { ways := BitVec.allOnes 32, rank := 1, l1 := true }

/-- A die asks for a line; while its slice is being gated the request waits at the die (16 R393). -/
def request (s : State) (die line : Nat) (getm : Bool) (i : Instr) : State :=
  if !isPlace die line || needsNothing s die line getm then s
  else if gateWaits s die line then later s i
  else arrive s line (.get die getm (openFill s))

def execGets (die line : Nat) (s : State) : Host.Outcome State Fault Refusal :=
  .next (request s die line false (.gets die line))
def execGetm (die line : Nat) (s : State) : Host.Outcome State Fault Refusal :=
  .next (request s die line true (.getm die line))

/-- An eviction of a line that the die holds, dirty or clean. -/
def evictAsked (s : State) (die line : Nat) (dirty : Bool) : State :=
  if !holdsL2 s line die || isDirty (l2State s line die) ≠ dirty then s else arrive s line (.evict die dirty)

def execWbd (die line : Nat) (s : State) : Host.Outcome State Fault Refusal := .next (evictAsked s die line true)
def execEvc (die line : Nat) (s : State) : Host.Outcome State Fault Refusal := .next (evictAsked s die line false)

/-- A host snoops a line of its memory. -/
def execHsnp (line : Nat) (own : Bool) (s : State) : Host.Outcome State Fault Refusal :=
  .next (if sfHost line then arrive s line (.snoop own) else s)

/-! ## Forwards and invalidations -/

/-- The die for which a transaction gets the line, and whether it is to own it. -/
def txnFor (t : Txn) : Option (Nat × Bool × Fill) := match t.cur with | .get d g f => some (d, g, f) | _ => none

/-- The die is one whose Ack the home awaits for the line: the requester. -/
def awaited (s : State) (die line : Nat) (getm : Bool) : Option Nat :=
  (aget s.txns line).bind (fun t => match txnFor t with
    | some (d, g, _) => if t.acks.contains die && g = getm then some d else none
    | none => none)

/-- The owner sends data to the requester and keeps a copy: O when it is dirty, S when it is clean. -/
def keepCopy (s : State) (die line req : Nat) : State :=
  match aget s.l2 (l2Key line die) with
  | some e =>
    if isDirty (some e.st) then later (setL2 s line die .o e.agents) (.datad req line)
    else later (setL2 s line die .s e.agents) (.data req line)
  | none => later s (.data req line)

def execFwds (die line : Nat) (s : State) : Host.Outcome State Fault Refusal :=
  .next (match awaited s die line false with
  | none => s
  | some req =>
    if dieBlocked s die line then waitFor s [] line (.fwds die line)
    else later (keepCopy s die line req) (.ack die line))

/-- The owner sends data to the requester and gives up the line. -/
def giveLine (s : State) (die line req : Nat) : State :=
  let dirty := isDirty (l2State s line die)
  later (dropDie s die line) (if dirty then .datad req line else .data req line)

def execFwdm (die line : Nat) (s : State) : Host.Outcome State Fault Refusal :=
  .next (match awaited s die line true with
  | none => s
  | some req =>
    if invBlocked s die line then waitFor s (dieHolders s die line) line (.fwdm die line)
    else later (giveLine s die line req) (.ack die line))

def execInv (die line : Nat) (s : State) : Host.Outcome State Fault Refusal :=
  .next (match awaited s die line true with
  | none => s
  | some _ =>
    if invBlocked s die line then waitFor s (dieHolders s die line) line (.inv die line)
    else later (dropDie s die line) (.ack die line))

/-- Lines whose requests wait for room in the set of a line. -/
def roomWaiters (s : State) (line : Nat) : List Nat :=
  (s.txns.filter (fun p => p.2.room && p.1 % 65536 = line % 65536 && homeOf p.1 = homeOf line)).map (·.1)

/-- The requests that have waited for room in the set of the line are served, or ask for the next back-invalidation (16
R387). -/
def serveRoom (s : State) (line : Nat) : State :=
  (roomWaiters s line).foldl (fun s l => match aget s.txns l with
    | some t => serveNext s l (t.cur :: t.queue)
    | none => s) s

/-- No request that waits for room in the set of the line needs this entry any more. -/
def roomFound (s : State) (line : Nat) : Bool :=
  !(roomWaiters s line).isEmpty && !(roomWaiters s line).any (fun l => sfVictim s l = some line)

/-- Back-invalidation: every holder drops the line, the owner's dirty data goes to memory (16 R388, Table 16-5). -/
def execBinv (line : Nat) (s : State) : Host.Outcome State Fault Refusal :=
  .next (if (aget s.sf line).isNone || roomFound s line then serveRoom s line
  else if binvBlocked s line then waitFor s (holders s none [line]) line (.binv line)
  else serveRoom (dropLine s line) line)

/-! ## Answers -/

/-- Every answer is in: the requester's Cmp is due. -/
def answered (s : State) (line die : Nat) (t : Txn) : State :=
  let s := putTxn s line t
  if t.acks.isEmpty && t.data then laterOnce s (.cmp die line) else s

/-- The state of the requester's line when data reaches it. -/
def arrivedState (s : State) (die line : Nat) (getm dirty : Bool) : L2State :=
  if getm then (if dirty then .m else .e)
  else match aget s.sf line with
    | some h => if h.st = 2 && h.owner = die then .e else .s
    | none => .s

/-- The line is put into the die's L2 in a state: in the way where it is, or in one that its fill may take. -/
def fillL2 (s : State) (die : Nat) (f : Fill) (line : Nat) (st : L2State) : State :=
  if holdsL2 s line die then setL2 s line die st 0 else newL2 (l2MakeRoom s die f line) die f line st 0

/-- The die has no way for the line yet. -/
def fillWaits (s : State) (die : Nat) (f : Fill) (line : Nat) : Bool :=
  !holdsL2 s line die && !hasWay s die f line && (victims s die f line).isEmpty

/-- Data reaches the requester. An entry that went meanwhile is asked for again. -/
def takeData (s : State) (die line : Nat) (dirty : Bool) : State :=
  match aget s.txns line with
  | none => s
  | some t =>
    match txnFor t with
    | none => s
    | some (d, getm, f) =>
      if d ≠ die || t.data then s
      else if (aget s.sf line).isNone then serveNext s line (t.cur :: t.queue)
      else if fillWaits s die f line then later s (if dirty then .datad die line else .data die line)
      else answered (fillL2 s die f line (arrivedState s die line getm dirty)) line die { t with data := true }

def execData (die line : Nat) (s : State) : Host.Outcome State Fault Refusal := .next (takeData s die line false)
def execDatad (die line : Nat) (s : State) : Host.Outcome State Fault Refusal := .next (takeData s die line true)

/-- The home's entry after a FwdS: the owner kept the line dirty or clean. -/
def entryAfterFwd (s : State) (line owner req : Nat) : State :=
  match aget s.sf line with
  | none => s
  | some h =>
    let both := h.sharers ||| dieBit req
    { s with sf := aput s.sf line { h with sharers := both, st := if isDirty (l2State s line owner) then 3 else 1 } }

/-- A die's answer reaches the home: an Ack that it awaits, or, while a snoop or an eviction is in service, that it may be
tried again. -/
def execAck (die line : Nat) (s : State) : Host.Outcome State Fault Refusal :=
  .next (match aget s.txns line with
  | none => s
  | some t =>
    match txnFor t with
    | none => serveNext s line (t.cur :: t.queue)
    | some (req, getm, _) =>
      if !t.acks.contains die then s
      else
        let s := if getm then s else entryAfterFwd s line die req
        answered s line req { t with acks := t.acks.filter (· ≠ die) })

/-- The home's entry and the requester's line once it owns the line. -/
def ownedBy (s : State) (die line : Nat) : State :=
  let age := match aget s.sf line with | some h => h.age | none => s.sfAge
  let s := regainKept s line die
  let s := { s with sf := aput s.sf line { st := 2, owner := die, sharers := dieBit die, age := age } }
  match aget s.l2 (l2Key line die) with
  | some e => setL2 s line die (match e.st with | .m => .m | .o => .m | _ => .e) e.agents
  | none => s

/-- The requester holds the line: the host has it no more, and the home takes the next request. -/
def execCmp (die line : Nat) (s : State) : Host.Outcome State Fault Refusal :=
  .next (match aget s.txns line with
  | none => s
  | some t =>
    match txnFor t with
    | none => s
    | some (req, getm, _) =>
      if req ≠ die || !t.acks.isEmpty || !t.data then s
      else
        let s := { s with hostOwn := s.hostOwn.filter (· ≠ line) }
        serveNext (if getm then ownedBy s die line else s) line t.queue)

/-! ## Inside a die (16 R386, R389, R390) -/

/-- The L2 fills an L1 line. -/
def execFill (core line : Nat) (s : State) : Host.Outcome State Fault Refusal :=
  let die := dieOfCore core
  .next (if 288 ≤ core || !holdsL2 s line die then s
  else if dieBlocked s die line then waitFor s [] line (.fill core line)
  else coreShared s core { openFill s with l1 := true } line)

/-- The oldest committed store of the context writes the line. -/
def writesNext (s : State) (c : Ctx) (line : Nat) : Bool :=
  match c.drain with
  | .store en :: _ => (entryLines s en).contains line
  | _ => false

/-- The L1 writes through to the L2: a context's committed store of the line is performed. -/
def execWrt (core line : Nat) (s : State) : Host.Outcome State Fault Refusal :=
  .next (match s.ctxs.find? (fun p => storeCore p.1 p.2 = core && writesNext s p.2 line) with
  | some p => goOnDrain s p.1
  | none => s)

/-- The L1 of a core gives a line up. -/
def execL1inv (core line : Nat) (s : State) : Host.Outcome State Fault Refusal := .next (dropL1 s core line)

/-- An engine agent of the die has the line: it owns it or holds a copy. -/
def agentHas (s : State) (die agent line : Nat) : Bool :=
  s.engOwn.contains (die, agent, line)
  || (match aget s.l2 (l2Key line die) with | some e => e.agents.getLsbD agent | none => false)

/-- An engine agent takes ownership of a line. -/
def execOwn (die agent line : Nat) (s : State) : Host.Outcome State Fault Refusal :=
  let g : Eng := { core := 36 * die, vi := 0, agent := agent, mine := [] }
  let f := fun _ => openFill s
  .next (if !isPlace die line || agent < 36 || agentInb < agent then s
  else if engBlocked s g f [line] true then later (engWaiting s g f [line] true) (.own die agent line)
  else ownLine s none die (agentBit agent) (f line) line)

/-- A recall rolls back the regions of the die that hold the line (16 R400); it waits for the engine's last write to the
line, then the engine answers. -/
def execRcl (die agent line : Nat) (s : State) : Host.Outcome State Fault Refusal :=
  let s' := if agentHas s die agent line then rollbackDie s die line else s
  .next (if s'.engOwn.contains (die, agent, line) then later s' (.rcl die agent line) else later s' (.rclack die agent line))

/-- The recall is done: the agent holds the line no more. -/
def execRclack (die agent line : Nat) (s : State) : Host.Outcome State Fault Refusal :=
  .next (if s.engOwn.contains (die, agent, line) then s
  else match aget s.l2 (l2Key line die) with
    | some e => setL2 s line die e.st (e.agents &&& ~~~(agentBit agent))
    | none => s)

end Sys2Proof.Machine
end

