-- ==== Sys2Proof/Machine/Convert.lean ====
section
/-!
DEFINITION. Conversions, MAJ 0x03 (08 R222 to R226, 03 R81).
-/

namespace Sys2Proof.Machine

/-- Rounded once into container 0 of D (08 R222). -/
def convBits (e : Env) (f : FmtA) (x : Num) : Word := loneElem (roundTo f.ty.toNat (modeOf e) e.c.r.ovt x)

/-- Container 0 of A in format `src`. -/
def srcVal (e : Env) (src : Nat) (f : FmtA) (l : Nat) : Num := numVal src (elem src (opWord e src f.imm f.a l) 0)

def execCvt (f : FmtA) (s : State) : Host.Outcome State Fault Refusal :=
  issue (.cvt f) { reqA f.u f.d [(f.a, half0 f.c.toNat)] with rnd := true } (fun e s =>
    writeD s e f.d (fun l => convBits e f (srcVal e f.c.toNat f l))) s

/-- The shift operand, clamped (08 R223). -/
def shiftOf (e : Env) (f : FmtA) (l : Nat) : Int := max (-255) (min 255 (opWord e 9 f.imm f.b l).toInt)

def execCvti (f : FmtA) (s : State) : Host.Outcome State Fault Refusal :=
  issue (.cvti f) { reqA f.u f.d [(f.a, half0 f.c.toNat), (f.b, 3)] with rnd := true } (fun e s =>
    writeD s e f.d (fun l => convBits e f (numScale (shiftOf e f l) (srcVal e f.c.toNat f l)))) s

def execCvtf (f : FmtA) (s : State) : Host.Outcome State Fault Refusal :=
  issue (.cvtf f) { reqA f.u f.d [(f.a, half0 f.c.toNat), (f.b, 3)] with rnd := true } (fun e s =>
    writeD s e f.d (fun l => convBits e f (numScale (-shiftOf e f l) (srcVal e f.c.toNat f l)))) s

/-! ## Packing (08 R224) -/

/-- The source format of `pack`, and the destination of `unpk`. -/
def wideOf (ty : Nat) : Nat := if ty ≤ 4 then 0 else if fmtSigned ty then 9 else 10

/-- One source of `pack`, converted. -/
def packElem (e : Env) (f : FmtA) (sp : Spec) (l : Nat) : Nat :=
  let src := wideOf f.ty.toNat
  roundTo f.ty.toNat (modeOf e) e.c.r.ovt (numVal src (opWord e src f.imm sp l).toNat)

/-- The word that `pack` leaves in D over an old word. -/
def packWord (e : Env) (f : FmtA) (old : Word) (l : Nat) : Word :=
  let ca := packElem e f f.a l
  let cb := packElem e f f.b l
  if elemBits f.ty.toNat = 16 then BitVec.ofNat 32 (ca + cb * 65536)
  else if f.c = 0 then old.extractLsb' 16 16 ++ BitVec.ofNat 16 (ca + cb * 256)
  else BitVec.ofNat 16 (ca + cb * 256) ++ old.extractLsb' 0 16

/-- The halves that `pack` replaces (18 R428). -/
def packHalves (f : FmtA) : BitVec 2 := if elemBits f.ty.toNat = 16 then 3 else if f.c = 0 then 1 else 2

def packDo (f : FmtA) (e : Env) (s : State) : State :=
  match operandOf f.d with
  | .vreg n =>
    let s := writeV s e.key (packHalves f) ((lanesOf e.exec).map (fun l =>
      (64 * n + l, packWord e f (vAt e.fr n l) l)))
    finish (writeV s e.key 3 ((zeroLanes e).map (fun l => (64 * n + l, (0 : Word))))) e id
  | .greg n =>
    finish s e (fun r =>
      let r' := putG r n (packWord e f (gAt r n) 0)
      { r' with gpoison := asetD r.gpoison 0 n (agetD r.gpoison 0 n &&& ~~~packHalves f) })
  | _ => finish s e id

def execPack (f : FmtA) (s : State) : Host.Outcome State Fault Refusal :=
  issue (.pack f) { reqA f.u f.d [(f.a, 3), (f.b, 3)] with rnd := true } (packDo f) s

/-- The exact value of a container, widened (08 R225). -/
def unpkWord (e : Env) (f : FmtA) (l : Nat) : Word :=
  let ty := f.ty.toNat
  loneElem (roundTo (wideOf ty) 0 0 (numVal ty (elem ty (opWord e ty f.imm f.a l) f.c.toNat)))

def execUnpk (f : FmtA) (s : State) : Host.Outcome State Fault Refusal :=
  issue (.unpk f) { reqA f.u f.d [(f.a, halfOf f.ty.toNat f.c.toNat)] with rnd := true } (fun e s =>
    writeD s e f.d (unpkWord e f)) s

/-- A quantised with the E8 scale byte in B (08 R226). -/
def qntWord (e : Env) (f : FmtA) (l : Nat) : Word :=
  let sc := (opWord e 9 f.imm f.b l).toNat % 256
  if sc = 255 then loneElem (if fmtT f.ty.toNat then tSign f.ty.toNat else 0)
  else convBits e f (numScale (127 - (sc : Int)) (ieeeVal 0 (opWord e 0 f.imm f.a l).toNat))

def execQnt (f : FmtA) (s : State) : Host.Outcome State Fault Refusal :=
  issue (.qnt f) { reqA f.u f.d [(f.a, 3), (f.b, 1)] with rnd := true } (fun e s =>
    writeD s e f.d (qntWord e f)) s

end Sys2Proof.Machine
end

