-- ==== Sys2Proof/Machine/Exchange.lean ====
section
/-!
DEFINITION. Exchanges between lanes: MAJ 0x05 (08 R231 to R238).
-/

namespace Sys2Proof.Machine

/-! ## Where a value comes from (08 R231) -/

/-- The lane whose register `lane_read` returns, none for the default. -/
def laneSource (e : Env) (src : Int) : Option Nat :=
  if src < 0 then none
  else if inGroup e.g src.toNat && !hasExited e src.toNat then some src.toNat else none

/-- A moved word: the register of the source lane, or the default operand read in the receiving lane. -/
def movedWord (e : Env) (f : FmtA) (src : Option Nat) (l : Nat) : Word :=
  match src with
  | some k => vSeen e f.a.toNat k
  | none => opWord e 9 f.imm f.c l

/-- What a receiving lane consumes: its index operand, then the moved word; a default that it does not take is not consumed
(08 R210; log entry 76). -/
def movedReads (f : FmtA) (src : Env → Nat → Option Nat) : Env → Nat → List (Spec × BitVec 2 × Nat) :=
  fun e l => [(f.b, 3, l), (match src e l with | some k => (f.a, 3, k) | none => (f.c, 3, l))]

def reqMove (f : FmtA) (src : Env → Nat → Option Nat) : Req :=
  { reqA false f.d [(f.a, 3), (f.b, 3), (f.c, 3)] with reads := movedReads f src }

/-- `shfl`: f + (b mod W). -/
def shflSource (f : FmtA) (e : Env) (l : Nat) : Option Nat :=
  laneSource e (e.g.first + (opWord e 10 f.imm f.b l).toNat % e.g.width : Nat)
/-- `shup`: L − b. -/
def shupSource (f : FmtA) (e : Env) (l : Nat) : Option Nat :=
  laneSource e ((l : Int) - (opWord e 10 f.imm f.b l).toNat)
/-- `shdn`: L + b. -/
def shdnSource (f : FmtA) (e : Env) (l : Nat) : Option Nat :=
  laneSource e (l + (opWord e 10 f.imm f.b l).toNat : Nat)
/-- `xbp`: field k of the pattern, within the octet (08 R234). -/
def xbpSource (f : FmtA) (e : Env) (l : Nat) : Option Nat :=
  laneSource e (8 * (l / 8) + (opWord e 10 f.imm f.b l).toNat / 2 ^ (3 * (l % 8)) % 8 : Nat)

def execShfl (f : FmtA) (s : State) : Host.Outcome State Fault Refusal :=
  issue (.shfl f) (reqMove f (shflSource f)) (fun e s =>
    writeD s e f.d (fun l => movedWord e f (shflSource f e l) l)) s
def execShup (f : FmtA) (s : State) : Host.Outcome State Fault Refusal :=
  issue (.shup f) (reqMove f (shupSource f)) (fun e s =>
    writeD s e f.d (fun l => movedWord e f (shupSource f e l) l)) s
def execShdn (f : FmtA) (s : State) : Host.Outcome State Fault Refusal :=
  issue (.shdn f) (reqMove f (shdnSource f)) (fun e s =>
    writeD s e f.d (fun l => movedWord e f (shdnSource f e l) l)) s
def execXbp (f : FmtA) (s : State) : Host.Outcome State Fault Refusal :=
  issue (.xbp f) (reqMove f (xbpSource f)) (fun e s =>
    writeD s e f.d (fun l => movedWord e f (xbpSource f e l) l)) s

/-- The helper lane of a quad exchange: L XOR x, or 4 (L div 4) + x (08 R233). -/
def qswpLane (f : FmtA) (l : Nat) : Nat := l ^^^ kOf f.b
def qbcLane (f : FmtA) (l : Nat) : Nat := 4 * (l / 4) + kOf f.b

/-- A quad exchange: every lane of the quad supplies its value, an exited one its frozen value (05 R111). -/
def reqQuad (f : FmtA) (src : Nat → Nat) : Req :=
  { reqA false f.d [(f.a, 3)] with reads := fun _ l => [(f.a, 3, src l)] }

def execQswp (f : FmtA) (s : State) : Host.Outcome State Fault Refusal :=
  issue (.qswp f) (reqQuad f (qswpLane f)) (fun e s =>
    writeD s e f.d (fun l => vSeen e f.a.toNat (qswpLane f l))) s
def execQbc (f : FmtA) (s : State) : Host.Outcome State Fault Refusal :=
  issue (.qbc f) (reqQuad f (qbcLane f)) (fun e s =>
    writeD s e f.d (fun l => vSeen e f.a.toNat (qbcLane f l))) s

/-! ## Votes (08 R235, R236) -/

/-- The lanes of the executing set whose A is not zero. -/
def ballotOf (e : Env) (f : FmtA) : LaneMask :=
  (lanesOf e.exec).foldl (fun m l => setBit m l (opWord e 9 f.imm f.a l ≠ 0)) 0

def voteBit (e : Env) (f : FmtA) : Bool :=
  match f.c.toNat with
  | 0 => ballotOf e f ≠ 0
  | 1 => ballotOf e f = e.exec
  | _ =>
    match lanesOf e.exec with
    | [] => true
    | l :: r => r.all (fun k => opWord e 9 f.imm f.a k = opWord e 9 f.imm f.a l)

def execVote (f : FmtA) (s : State) : Host.Outcome State Fault Refusal :=
  issue (.vote f) (reqA false f.d [(f.a, 3)]) (fun e s =>
    writeD s e f.d (fun _ => if voteBit e f then 1 else 0)) s

/-- `ballot` writes all 64 bits, zeros where it executes in no lane (08 R236; log entry 24). -/
def execBallot (f : FmtA) (s : State) : Host.Outcome State Fault Refusal :=
  issue (.ballot f) { reqMask [(f.a, 3)] with op4 := false } (fun e s => finish s e (fun r =>
    noteM (putMask r (kOf f.d) (ballotOf e f)) (kOf f.d))) s

/-! ## Reductions and scans (08 R237, R238) -/

/-- One combination of two elements (08 Table 8-14). -/
def combine (e : Env) (f : FmtA) (x y : Nat) : Nat :=
  let ty := f.ty.toNat
  if fmtInt ty then
    match f.c.toNat % 8 with
    | 0 =>
      let t := intVal ty x + intVal ty y
      wrapBits ty (if satOf e f.sat then clampi ty t else t)
    | 1 => wrapBits ty (min (intVal ty x) (intVal ty y))
    | 2 => wrapBits ty (max (intVal ty x) (intVal ty y))
    | 3 => x &&& y
    | 4 => x ||| y
    | _ => x ^^^ y
  else
    match f.c.toNat % 8 with
    | 0 => roundTo ty (modeOf e) e.c.r.ovt (numAdd (modeOf e = 3) (ieeeVal ty x) (ieeeVal ty y))
    | 1 => roundTo ty 0 0 (numMinMax false (ieeeVal ty x) (ieeeVal ty y))
    | _ => roundTo ty 0 0 (numMinMax true (ieeeVal ty x) (ieeeVal ty y))

/-- The identity of an exclusive scan (08 Table 8-14). -/
def identity (f : FmtA) : Nat :=
  let ty := f.ty.toNat
  match f.c.toNat % 8 with
  | 1 => if fmtInt ty then wrapBits ty (intMax ty) else infBits ty
  | 2 => if fmtInt ty then wrapBits ty (intMin ty) else signBit ty + infBits ty
  | 3 => 2 ^ elemBits ty - 1
  | _ => 0

/-- An element that a reduction carries: a NaN is canonical (03 R62). -/
def carried (f : FmtA) (x : Nat) : Nat :=
  if fmtInt f.ty.toNat then x else roundTo f.ty.toNat 0 0 (ieeeVal f.ty.toNat x)

/-- Element j of A in a lane. -/
def redElem (e : Env) (f : FmtA) (l j : Nat) : Nat :=
  carried f (elem f.ty.toNat (opWord e f.ty.toNat f.imm f.a l) j)

/-- The combination of element j over lanes in order; none over no lane. -/
def reduceLanes (e : Env) (f : FmtA) (j : Nat) (ls : List Nat) : Option Nat :=
  ls.foldl (fun acc l => match acc with
    | none => some (redElem e f l j)
    | some a => some (combine e f a (redElem e f l j))) none

def lredWord (e : Env) (f : FmtA) : Word :=
  mapElems f.ty.toNat (fun j => (reduceLanes e f j (lanesOf e.exec)).getD 0)

/-- The lanes that lane `l` of a scan combines: bit 3 of C makes it exclusive. -/
def scanLanes (e : Env) (f : FmtA) (l : Nat) : List Nat :=
  (lanesOf e.exec).filter (fun k => if f.c.toNat < 8 then k ≤ l else k < l)

def lscanWord (e : Env) (f : FmtA) (l : Nat) : Word :=
  mapElems f.ty.toNat (fun j => (reduceLanes e f j (scanLanes e f l)).getD (identity f))

/-- A floating `add` rounds under mode() (08 Table 8-2). -/
def reqRed (f : FmtA) : Req :=
  let add := f.c.toNat % 8 = 0
  { reqA false f.d [(f.a, 3)] with xsat := fmtInt f.ty.toNat && add, rnd := fmtIeee f.ty.toNat && add }

def execLred (f : FmtA) (s : State) : Host.Outcome State Fault Refusal :=
  issue (.lred f) (reqRed f) (fun e s => writeD s e f.d (fun _ => lredWord e f)) s
def execLscan (f : FmtA) (s : State) : Host.Outcome State Fault Refusal :=
  issue (.lscan f) (reqRed f) (fun e s => writeD s e f.d (lscanWord e f)) s

/-! ## Crossbar patterns (08 R234) -/

/-- Field k of a pattern (08 Table 8-13). -/
def patternField (kind a k : Nat) : Nat :=
  match kind with
  | 0 => (k + a) % 8
  | 1 => k ^^^ a
  | 2 => a
  | _ => 7 - k
def patternWord (kind a : Nat) : Word :=
  BitVec.ofNat 32 ((List.range 8).foldl (fun acc k => acc + patternField kind a k * 2 ^ (3 * k)) 0)

def execXbld (f : FmtA) (s : State) : Host.Outcome State Fault Refusal :=
  issue (.xbld f) (reqA f.u f.d [(f.a, 1)]) (fun e s => writeD s e f.d (fun l =>
    patternWord f.c.toNat ((opWord e 9 f.imm f.a l).toNat % 8))) s

end Sys2Proof.Machine
end

