-- ==== Sys2Proof/Machine/Moves.lean ====
section
/-!
DEFINITION. Moves, special registers, masks, the format register and random bits: MAJ 0x06 (08 R239 to R244).
-/

namespace Sys2Proof.Machine

/-! ## Moves (08 R239) -/

def execMov (f : FmtA) (s : State) : Host.Outcome State Fault Refusal :=
  issue (.mov f) (reqA (movUniform f) f.d [(f.a, 3)]) (fun e s =>
    writeD s e f.d (opWord e 9 f.imm f.a)) s
def execMovi (f : FmtA) (s : State) : Host.Outcome State Fault Refusal :=
  issue (.movi f) (reqA (movUniform f) f.d []) (fun e s =>
    writeD s e f.d (opWord e 9 f.imm f.a)) s

/-! ## Special registers (05 Table 5-4, 06 Table 6-16, R158; 08 R240) -/

/-- The value of a special register in a lane. -/
def specialWord (s : State) (e : Env) (n lane : Nat) : Word :=
  match n with
  | 384 => BitVec.ofNat 32 lane
  | 385 => BitVec.ofNat 32 (lane / 4)
  | 386 => e.g.gid
  | 387 => BitVec.ofNat 32 e.g.width
  | 388 => BitVec.ofNat 32 e.co.x
  | 389 => BitVec.ofNat 32 e.co.y
  | 390 => BitVec.ofNat 32 e.co.z
  | 391 => if pkCluster e.la.pkt then BitVec.ofNat 32 (e.co.x % 4) else 0xFFFFFFFF
  | 392 => BitVec.ofNat 32 (eCore e)
  | 393 => BitVec.ofNat 32 (eDie e)
  | 394 => (pkTag e.la.pkt).setWidth 32
  | 395 => BitVec.ofNat 32 s.time
  | 396 => match e.c.r.latch with
    | some w => w
    | none => BitVec.ofNat 32 (s.time / 2 ^ 32)
  | 397 => e.c.r.seed.setWidth 32
  | 398 => (e.c.r.seed >>> 32).setWidth 32
  | 399 => BitVec.ofNat 32 e.fr.no
  | 400 => BitVec.ofNat 32 (eVi e)
  | _ => 0

/-- The latch of s.timehi after a read of register n (06 R158). -/
def latchAfter (s : State) (n : Nat) (r : CtxRegs) : CtxRegs :=
  match n with
  | 395 => { r with latch := some (BitVec.ofNat 32 (s.time / 2 ^ 32)) }
  | 396 => { r with latch := none }
  | _ => r

def execRsr (f : FmtA) (s : State) : Host.Outcome State Fault Refusal :=
  issue (.rsr f) (reqA (movUniform f) f.d []) (fun e s =>
    let s' := writeD s e f.d (specialWord s e f.a.toNat)
    if movUniform f || e.exec ≠ 0 then modRegs s' e.key (latchAfter s f.a.toNat) else s') s

/-- `wsr` writes one half of the seed and clears the call counter of `rand`. -/
def wsrRegs (f : FmtA) (w : Word) (r : CtxRegs) : CtxRegs :=
  let hi := f.d.toNat = 398
  noteG { r with
    seed := if hi then w ++ r.seed.setWidth 32 else (r.seed >>> 32).setWidth 32 ++ w
    randCnt := 0, randRuns := 0, seedReset := true } (if hi then 601 else 600)

def execWsr (f : FmtA) (s : State) : Host.Outcome State Fault Refusal :=
  issue (.wsr f) { reqGroup [(f.a, 3)] with shadows := [if f.d.toNat = 398 then 601 else 600] } (fun e s =>
    groupDo e s (wsrRegs f (opWord e 9 f.imm f.a 0))) s

/-! ## The format register (03 R82, 08 R241) -/

/-- A value that fmt may not hold (03 R82). -/
def fmtBad (w : Word) : Bool :=
  let rnd := (w.extractLsb' 14 3).toNat
  w.extractLsb' 17 15 ≠ 0 || rnd = 5 || rnd = 6
  || 10 < (w.extractLsb' 0 4).toNat || 10 < (w.extractLsb' 4 4).toNat || 10 < (w.extractLsb' 8 4).toNat

def execFmts (f : FmtA) (s : State) : Host.Outcome State Fault Refusal :=
  issue (.fmts f) (reqGroup [(f.a, 3)]) (fun e s =>
    let w := opWord e 9 f.imm f.a 0
    if e.exec ≠ 0 && fmtBad w then trapE s e (plainTrap cIllegalEncoding (ePc e))
    else groupDo e s (fun r => { r with fmt := w })) s

def execFmtr (f : FmtA) (s : State) : Host.Outcome State Fault Refusal :=
  issue (.fmtr f) (reqA f.u f.d []) (fun e s => writeD s e f.d (fun _ => e.c.r.fmt)) s

/-! ## Random bits (08 R244) -/

/-- The mixing function. -/
def randMix (seed : Word64) (gl cnt : Nat) : Word :=
  let z : Word64 := seed + BitVec.ofNat 64 (gl * 2 ^ 24) + BitVec.ofNat 64 (cnt % 2 ^ 24)
  let z := z + 0x9E3779B97F4A7C15#64
  let z := (z ^^^ (z >>> 30)) * 0xBF58476D1CE4E5B9#64
  let z := (z ^^^ (z >>> 27)) * 0x94D049BB133111EB#64
  let z := z ^^^ (z >>> 31)
  z.setWidth 32

/-- The global lane number. -/
def globalLane (e : Env) (l : Nat) : Nat :=
  let lin := e.co.x + pkGx e.la.pkt * (e.co.y + pkGy e.la.pkt * e.co.z)
  ((lin * 32 + e.fr.no) * 64 + l) % 2 ^ 40

def execRand (f : FmtA) (s : State) : Host.Outcome State Fault Refusal :=
  issue (.rand f) (reqA false f.d []) (fun e s =>
    modRegs (writeD s e f.d (fun l => randMix e.c.r.seed (globalLane e l) e.c.r.randCnt)) e.key
      (fun r => { r with randCnt := r.randCnt + 1, randRuns := r.randRuns + 1 })) s

/-! ## Masks (08 R242, R243) -/

/-- The value that `mset` writes (08 Table 8-15). -/
def msetValue (f : FmtA) (r : CtxRegs) : LaneMask :=
  let ma := maskOf r (kOf f.a)
  let mb := maskOf r (kOf f.b)
  match f.c.toNat with
  | 0 =>
    match operandOf f.a with
    | .greg n => gPair r n
    | .const n => (constWord 9 n).signExtend 64
    | _ => f.imm.signExtend 64
  | 1 => ma &&& mb
  | 2 => ma ||| mb
  | 3 => ma &&& ~~~mb
  | 4 => ma ^^^ mb
  | _ => ~~~ma

/-- The g pair that `mset` reads. -/
def msetReads (f : FmtA) : List (Spec × BitVec 2) :=
  if f.c = 0 && isG f.a then [(f.a, 3), (f.a + 1, 3)] else []

def execMset (f : FmtA) (s : State) : Host.Outcome State Fault Refusal :=
  issue (.mset f) (reqGroup (msetReads f)) (fun e s =>
    groupDo e s (fun r => noteM (putMask r (kOf f.d) (msetValue f r)) (kOf f.d))) s

/-- Index of the lowest set bit, 64 when none is set. -/
def lowestBit (m : LaneMask) : Nat := match lanesOf m with | [] => 64 | l :: _ => l

def mpopWord (f : FmtA) (r : CtxRegs) : Word :=
  let m := maskOf r (kOf f.a)
  match f.c.toNat with
  | 0 => BitVec.ofNat 32 (lanesOf m).length
  | 1 => BitVec.ofNat 32 (lowestBit m)
  | 2 => m.setWidth 32
  | _ => (m >>> 32).setWidth 32

def execMpop (f : FmtA) (s : State) : Host.Outcome State Fault Refusal :=
  issue (.mpop f) (reqA f.u f.d []) (fun e s => writeD s e f.d (fun _ => mpopWord f e.c.r)) s

end Sys2Proof.Machine
end

