-- ==== Sys2Proof/WellFormed.lean ====
section
/-!
DEFINITION. Well-formed instructions: the terms that an encoding of the spec stands for (06 R149, R161). The rules
themselves are in Machine/Encoding.lean, where a repair may mend them.
-/

namespace Sys2Proof

/-- An instruction all of whose fields the spec allows, as far as its slot alone decides; an event is no encoding
and is not well-formed in this sense. -/
def Instr.wellFormed (i : Instr) : Bool := Machine.encodingOk i

end Sys2Proof
end

