-- ==== Sys2Proof/Decode.lean ====
section
/-!
DEFINITION. From a 96-bit slot to an instruction (06 R137 to R147, R159, R161), and back. The opcode numbers are those
of 06 Table 6-17; the fields of each format are those of Tables 6-3 to 6-12.
-/

namespace Sys2Proof

/-- Why a slot with a listed MAJ and FN is no instruction (06 R161). -/
inductive DecodeError where
  /-- a reserved field of the format is not zero (06 R14, R161) -/
  | reservedField
  /-- a field holds a value that the instruction's description forbids (06 R149) -/
  | forbiddenField
  deriving DecidableEq, Repr

/-! ## Fields of a slot -/

def slotMaj (w : Slot) : Nat := (w.extractLsb' 0 8).toNat
def slotFn (w : Slot) : Nat := (w.extractLsb' 8 8).toNat

/-- 06 Table 6-3. -/
def fieldsA (w : Slot) : FmtA :=
  { imm := w.extractLsb' 64 32, u := w.getLsbD 61, sat := w.getLsbD 60, absB := w.getLsbD 59,
    absA := w.getLsbD 58, negB := w.getLsbD 57, negA := w.getLsbD 56, c := w.extractLsb' 47 9,
    b := w.extractLsb' 38 9, a := w.extractLsb' 29 9, d := w.extractLsb' 20 9, ty := w.extractLsb' 16 4 }
/-- 06 Table 6-4. -/
def fieldsM (w : Slot) : FmtM :=
  { off := w.extractLsb' 56 40, hint := w.extractLsb' 50 4, shift := w.extractLsb' 47 3,
    idx := w.extractLsb' 38 9, base := w.extractLsb' 29 9, d := w.extractLsb' 20 9, ty := w.extractLsb' 16 4 }
/-- 06 Table 6-5. -/
def fieldsT (w : Slot) : FmtT :=
  { off1 := w.extractLsb' 80 16, off0 := w.extractLsb' 64 16, cnt := w.extractLsb' 60 4,
    c2 := w.extractLsb' 51 9, c1 := w.extractLsb' 42 9, c0 := w.extractLsb' 33 9, h := w.extractLsb' 29 4,
    d := w.extractLsb' 20 9, ty := w.extractLsb' 16 4 }
/-- 06 Table 6-6. -/
def fieldsB (w : Slot) : FmtB :=
  { joff := w.extractLsb' 64 32, toff := w.extractLsb' 32 32, jslot := w.extractLsb' 27 3,
    tslot := w.extractLsb' 24 3, mask := w.extractLsb' 20 4, cond := w.extractLsb' 16 4 }
/-- 06 Table 6-7. -/
def fieldsX (w : Slot) : FmtX :=
  { neg := w.getLsbD 61, seten := w.getLsbD 60, setslot := w.extractLsb' 57 3, waitm := w.extractLsb' 49 8,
    accrow := w.extractLsb' 38 11, bbase := w.extractLsb' 29 9, abase := w.extractLsb' 20 9,
    shape := w.extractLsb' 16 4 }
/-- 06 Table 6-9. -/
def fieldsE (w : Slot) : FmtE :=
  { ext := w.extractLsb' 66 30, cwreg := w.extractLsb' 57 9, cwen := w.getLsbD 56, dmask := w.extractLsb' 52 4,
    baren := w.getLsbD 51, nb := w.extractLsb' 47 4, s2 := w.extractLsb' 38 9, s1 := w.extractLsb' 29 9,
    s0 := w.extractLsb' 20 9, var := w.extractLsb' 16 4 }
/-- 06 Table 6-10. -/
def fieldsP (w : Slot) : FmtP :=
  { pat := w.extractLsb' 16 8, count := w.extractLsb' 12 3, mask := w.extractLsb' 8 4 }
/-- 06 Table 6-11. -/
def fieldsQ (w : Slot) : FmtQ :=
  { xw2 := w.extractLsb' 68 28, xw1 := w.extractLsb' 40 28, xw0 := w.extractLsb' 12 28, nw := w.extractLsb' 8 2 }

/-! ## Words of a format (the same tables, written out) -/

def bit (b : Bool) : BitVec 1 := BitVec.ofBool b

def wordA (maj fn : Nat) (f : FmtA) : Slot :=
  f.imm ++ 0#2 ++ bit f.u ++ bit f.sat ++ bit f.absB ++ bit f.absA ++ bit f.negB ++ bit f.negA
    ++ f.c ++ f.b ++ f.a ++ f.d ++ f.ty ++ BitVec.ofNat 8 fn ++ BitVec.ofNat 8 maj
def wordM (maj fn : Nat) (f : FmtM) : Slot :=
  f.off ++ 0#2 ++ f.hint ++ f.shift ++ f.idx ++ f.base ++ f.d ++ f.ty ++ BitVec.ofNat 8 fn ++ BitVec.ofNat 8 maj
def wordT (maj fn : Nat) (f : FmtT) : Slot :=
  f.off1 ++ f.off0 ++ f.cnt ++ f.c2 ++ f.c1 ++ f.c0 ++ f.h ++ f.d ++ f.ty ++ BitVec.ofNat 8 fn ++ BitVec.ofNat 8 maj
def wordB (maj fn : Nat) (f : FmtB) : Slot :=
  f.joff ++ f.toff ++ 0#2 ++ f.jslot ++ f.tslot ++ f.mask ++ f.cond ++ BitVec.ofNat 8 fn ++ BitVec.ofNat 8 maj
def wordX (maj fn : Nat) (f : FmtX) : Slot :=
  0#34 ++ bit f.neg ++ bit f.seten ++ f.setslot ++ f.waitm ++ f.accrow ++ f.bbase ++ f.abase ++ f.shape
    ++ BitVec.ofNat 8 fn ++ BitVec.ofNat 8 maj
def wordE (maj fn : Nat) (f : FmtE) : Slot :=
  f.ext ++ f.cwreg ++ bit f.cwen ++ f.dmask ++ bit f.baren ++ f.nb ++ f.s2 ++ f.s1 ++ f.s0 ++ f.var
    ++ BitVec.ofNat 8 fn ++ BitVec.ofNat 8 maj
def wordP (f : FmtP) : Slot := 0#72 ++ f.pat ++ 0#1 ++ f.count ++ f.mask ++ 0xF0#8
def wordQ (f : FmtQ) : Slot := f.xw2 ++ f.xw1 ++ f.xw0 ++ 0#2 ++ f.nw ++ 0xF1#8

/-! ## The opcode map (06 Table 6-17) -/

/-- The instruction that MAJ and FN select, with the slot's fields; `notAnInstruction` where the map lists none. -/
def select (w : Slot) : Instr :=
  match slotMaj w, slotFn w with
  | 0x00, 0x00 => .nop (fieldsA w)
  | 0x01, 0x00 => .add (fieldsA w)
  | 0x01, 0x01 => .sub (fieldsA w)
  | 0x01, 0x02 => .mul (fieldsA w)
  | 0x01, 0x03 => .mulhi (fieldsA w)
  | 0x01, 0x04 => .mad (fieldsA w)
  | 0x01, 0x05 => .addc (fieldsA w)
  | 0x01, 0x06 => .subb (fieldsA w)
  | 0x01, 0x07 => .min (fieldsA w)
  | 0x01, 0x08 => .max (fieldsA w)
  | 0x01, 0x09 => .abs (fieldsA w)
  | 0x01, 0x0A => .neg (fieldsA w)
  | 0x01, 0x0B => .and (fieldsA w)
  | 0x01, 0x0C => .or (fieldsA w)
  | 0x01, 0x0D => .xor (fieldsA w)
  | 0x01, 0x0E => .not (fieldsA w)
  | 0x01, 0x0F => .shl (fieldsA w)
  | 0x01, 0x10 => .shr (fieldsA w)
  | 0x01, 0x11 => .sar (fieldsA w)
  | 0x01, 0x12 => .rotl (fieldsA w)
  | 0x01, 0x13 => .clz (fieldsA w)
  | 0x01, 0x14 => .popc (fieldsA w)
  | 0x01, 0x15 => .brev (fieldsA w)
  | 0x01, 0x16 => .bfx (fieldsA w)
  | 0x01, 0x17 => .bfi (fieldsA w)
  | 0x01, 0x18 => .sel (fieldsA w)
  | 0x01, 0x19 => .icmp (fieldsA w)
  | 0x02, 0x00 => .fadd (fieldsA w)
  | 0x02, 0x01 => .fsub (fieldsA w)
  | 0x02, 0x02 => .fmul (fieldsA w)
  | 0x02, 0x03 => .fma (fieldsA w)
  | 0x02, 0x04 => .fmin (fieldsA w)
  | 0x02, 0x05 => .fmax (fieldsA w)
  | 0x02, 0x06 => .fabs (fieldsA w)
  | 0x02, 0x07 => .fneg (fieldsA w)
  | 0x02, 0x08 => .fcmp (fieldsA w)
  | 0x02, 0x09 => .fcls (fieldsA w)
  | 0x02, 0x0A => .frnd (fieldsA w)
  | 0x03, 0x00 => .cvt (fieldsA w)
  | 0x03, 0x01 => .cvti (fieldsA w)
  | 0x03, 0x02 => .cvtf (fieldsA w)
  | 0x03, 0x03 => .pack (fieldsA w)
  | 0x03, 0x04 => .unpk (fieldsA w)
  | 0x03, 0x05 => .qnt (fieldsA w)
  | 0x04, 0x00 => .rcp (fieldsA w)
  | 0x04, 0x01 => .rsq (fieldsA w)
  | 0x04, 0x02 => .sqrt (fieldsA w)
  | 0x04, 0x03 => .exp2 (fieldsA w)
  | 0x04, 0x04 => .log2 (fieldsA w)
  | 0x04, 0x05 => .sin (fieldsA w)
  | 0x04, 0x06 => .cos (fieldsA w)
  | 0x04, 0x07 => .tanh (fieldsA w)
  | 0x05, 0x00 => .shfl (fieldsA w)
  | 0x05, 0x01 => .shup (fieldsA w)
  | 0x05, 0x02 => .shdn (fieldsA w)
  | 0x05, 0x03 => .qswp (fieldsA w)
  | 0x05, 0x04 => .qbc (fieldsA w)
  | 0x05, 0x05 => .vote (fieldsA w)
  | 0x05, 0x06 => .ballot (fieldsA w)
  | 0x05, 0x07 => .lred (fieldsA w)
  | 0x05, 0x08 => .lscan (fieldsA w)
  | 0x05, 0x09 => .xbld (fieldsA w)
  | 0x05, 0x0A => .xbp (fieldsA w)
  | 0x06, 0x00 => .mov (fieldsA w)
  | 0x06, 0x01 => .movi (fieldsA w)
  | 0x06, 0x02 => .rsr (fieldsA w)
  | 0x06, 0x03 => .wsr (fieldsA w)
  | 0x06, 0x04 => .fmts (fieldsA w)
  | 0x06, 0x05 => .fmtr (fieldsA w)
  | 0x06, 0x06 => .rand (fieldsA w)
  | 0x06, 0x07 => .mset (fieldsA w)
  | 0x06, 0x08 => .mpop (fieldsA w)
  | 0x07, 0x00 => .ld (fieldsM w)
  | 0x07, 0x01 => .st (fieldsM w)
  | 0x07, 0x02 => .ldg (fieldsM w)
  | 0x07, 0x03 => .stg (fieldsM w)
  | 0x07, 0x04 => .ldsp (fieldsM w)
  | 0x07, 0x05 => .stsp (fieldsM w)
  | 0x07, 0x06 => .prf (fieldsM w)
  | 0x08, 0x00 => .tld (fieldsT w)
  | 0x08, 0x01 => .tst (fieldsT w)
  | 0x08, 0x02 => .tlds (fieldsT w)
  | 0x08, 0x03 => .stsh (fieldsT w)
  | 0x08, 0x04 => .redst (fieldsM w)
  | 0x08, 0x05 => .thnd (fieldsM w)
  | 0x09, 0x00 => .aadd (fieldsM w)
  | 0x09, 0x01 => .amin (fieldsM w)
  | 0x09, 0x02 => .amax (fieldsM w)
  | 0x09, 0x03 => .aand (fieldsM w)
  | 0x09, 0x04 => .aor (fieldsM w)
  | 0x09, 0x05 => .axor (fieldsM w)
  | 0x09, 0x06 => .axchg (fieldsM w)
  | 0x09, 0x07 => .acas (fieldsM w)
  | 0x09, 0x08 => .afadd (fieldsM w)
  | 0x0A, 0x00 => .wait (fieldsA w)
  | 0x0A, 0x01 => .nbinit (fieldsA w)
  | 0x0A, 0x02 => .nbarv (fieldsA w)
  | 0x0A, 0x03 => .nbwt (fieldsA w)
  | 0x0A, 0x04 => .nbsync (fieldsA w)
  | 0x0A, 0x05 => .waddr (fieldsM w)
  | 0x0B, 0x00 => .cpy (fieldsE w)
  | 0x0B, 0x01 => .cpyo (fieldsE w)
  | 0x0B, 0x02 => .cpym (fieldsE w)
  | 0x0B, 0x03 => .cpyacc (fieldsE w)
  | 0x0B, 0x04 => .cpyacs (fieldsE w)
  | 0x0B, 0x05 => .dzjob (fieldsE w)
  | 0x0C, 0x00 => .mma (fieldsX w)
  | 0x0C, 0x01 => .mmaz (fieldsX w)
  | 0x0C, 0x02 => .accz (fieldsX w)
  | 0x0C, 0x03 => .accrd (fieldsX w)
  | 0x0C, 0x04 => .accwr (fieldsX w)
  | 0x0D, 0x00 => .bra (fieldsB w)
  | 0x0D, 0x01 => .brm (fieldsB w)
  | 0x0D, 0x02 => .call (fieldsB w)
  | 0x0D, 0x03 => .calli (fieldsB w)
  | 0x0D, 0x04 => .ret (fieldsB w)
  | 0x0D, 0x05 => .exit (fieldsB w)
  | 0x0D, 0x06 => .rgn (fieldsB w)
  | 0x0D, 0x07 => .wset (fieldsB w)
  | 0x0D, 0x08 => .join (fieldsB w)
  | 0x0D, 0x09 => .trap (fieldsB w)
  | 0x0D, 0x0A => .brk (fieldsB w)
  | 0x0E, 0x00 => .lyrd (fieldsT w)
  | 0x0E, 0x01 => .lypin (fieldsT w)
  | 0x0E, 0x02 => .lyunp (fieldsT w)
  | 0x0E, 0x03 => .lyadv (fieldsT w)
  | 0x0F, 0x00 => .ovtld (fieldsA w)
  | 0x0F, 0x01 => .tlbinv (fieldsA w)
  | 0x0F, 0x02 => .cmnt (fieldsM w)
  | 0x0F, 0x03 => .ambw (fieldsA w)
  | 0x10, 0x00 => .jnlaunch (fieldsE w)
  | 0x10, 0x01 =>
    match (fieldsE w).var.toNat with
    | 1 => .jnrstStop (fieldsE w)
    | 2 => .jnrstClose (fieldsE w)
    | _ => .jnrst (fieldsE w)
  | 0x10, 0x02 => .jnst (fieldsE w)
  | 0x10, 0x03 => .fput (fieldsE w)
  | 0x10, 0x04 => .fget (fieldsE w)
  | 0x10, 0x05 => .fsig (fieldsE w)
  | 0xF0, _ => .pblk (fieldsP w)
  | 0xF1, _ => .xpfx (fieldsQ w)
  | _, _ => .notAnInstruction w

/-- The 96-bit word of an instruction; none for an event. -/
def encode : Instr → Option Slot
  | .nop f => some (wordA 0x00 0x00 f)
  | .add f => some (wordA 0x01 0x00 f)
  | .sub f => some (wordA 0x01 0x01 f)
  | .mul f => some (wordA 0x01 0x02 f)
  | .mulhi f => some (wordA 0x01 0x03 f)
  | .mad f => some (wordA 0x01 0x04 f)
  | .addc f => some (wordA 0x01 0x05 f)
  | .subb f => some (wordA 0x01 0x06 f)
  | .min f => some (wordA 0x01 0x07 f)
  | .max f => some (wordA 0x01 0x08 f)
  | .abs f => some (wordA 0x01 0x09 f)
  | .neg f => some (wordA 0x01 0x0A f)
  | .and f => some (wordA 0x01 0x0B f)
  | .or f => some (wordA 0x01 0x0C f)
  | .xor f => some (wordA 0x01 0x0D f)
  | .not f => some (wordA 0x01 0x0E f)
  | .shl f => some (wordA 0x01 0x0F f)
  | .shr f => some (wordA 0x01 0x10 f)
  | .sar f => some (wordA 0x01 0x11 f)
  | .rotl f => some (wordA 0x01 0x12 f)
  | .clz f => some (wordA 0x01 0x13 f)
  | .popc f => some (wordA 0x01 0x14 f)
  | .brev f => some (wordA 0x01 0x15 f)
  | .bfx f => some (wordA 0x01 0x16 f)
  | .bfi f => some (wordA 0x01 0x17 f)
  | .sel f => some (wordA 0x01 0x18 f)
  | .icmp f => some (wordA 0x01 0x19 f)
  | .fadd f => some (wordA 0x02 0x00 f)
  | .fsub f => some (wordA 0x02 0x01 f)
  | .fmul f => some (wordA 0x02 0x02 f)
  | .fma f => some (wordA 0x02 0x03 f)
  | .fmin f => some (wordA 0x02 0x04 f)
  | .fmax f => some (wordA 0x02 0x05 f)
  | .fabs f => some (wordA 0x02 0x06 f)
  | .fneg f => some (wordA 0x02 0x07 f)
  | .fcmp f => some (wordA 0x02 0x08 f)
  | .fcls f => some (wordA 0x02 0x09 f)
  | .frnd f => some (wordA 0x02 0x0A f)
  | .cvt f => some (wordA 0x03 0x00 f)
  | .cvti f => some (wordA 0x03 0x01 f)
  | .cvtf f => some (wordA 0x03 0x02 f)
  | .pack f => some (wordA 0x03 0x03 f)
  | .unpk f => some (wordA 0x03 0x04 f)
  | .qnt f => some (wordA 0x03 0x05 f)
  | .rcp f => some (wordA 0x04 0x00 f)
  | .rsq f => some (wordA 0x04 0x01 f)
  | .sqrt f => some (wordA 0x04 0x02 f)
  | .exp2 f => some (wordA 0x04 0x03 f)
  | .log2 f => some (wordA 0x04 0x04 f)
  | .sin f => some (wordA 0x04 0x05 f)
  | .cos f => some (wordA 0x04 0x06 f)
  | .tanh f => some (wordA 0x04 0x07 f)
  | .shfl f => some (wordA 0x05 0x00 f)
  | .shup f => some (wordA 0x05 0x01 f)
  | .shdn f => some (wordA 0x05 0x02 f)
  | .qswp f => some (wordA 0x05 0x03 f)
  | .qbc f => some (wordA 0x05 0x04 f)
  | .vote f => some (wordA 0x05 0x05 f)
  | .ballot f => some (wordA 0x05 0x06 f)
  | .lred f => some (wordA 0x05 0x07 f)
  | .lscan f => some (wordA 0x05 0x08 f)
  | .xbld f => some (wordA 0x05 0x09 f)
  | .xbp f => some (wordA 0x05 0x0A f)
  | .mov f => some (wordA 0x06 0x00 f)
  | .movi f => some (wordA 0x06 0x01 f)
  | .rsr f => some (wordA 0x06 0x02 f)
  | .wsr f => some (wordA 0x06 0x03 f)
  | .fmts f => some (wordA 0x06 0x04 f)
  | .fmtr f => some (wordA 0x06 0x05 f)
  | .rand f => some (wordA 0x06 0x06 f)
  | .mset f => some (wordA 0x06 0x07 f)
  | .mpop f => some (wordA 0x06 0x08 f)
  | .ld f => some (wordM 0x07 0x00 f)
  | .st f => some (wordM 0x07 0x01 f)
  | .ldg f => some (wordM 0x07 0x02 f)
  | .stg f => some (wordM 0x07 0x03 f)
  | .ldsp f => some (wordM 0x07 0x04 f)
  | .stsp f => some (wordM 0x07 0x05 f)
  | .prf f => some (wordM 0x07 0x06 f)
  | .tld f => some (wordT 0x08 0x00 f)
  | .tst f => some (wordT 0x08 0x01 f)
  | .tlds f => some (wordT 0x08 0x02 f)
  | .stsh f => some (wordT 0x08 0x03 f)
  | .redst f => some (wordM 0x08 0x04 f)
  | .thnd f => some (wordM 0x08 0x05 f)
  | .aadd f => some (wordM 0x09 0x00 f)
  | .amin f => some (wordM 0x09 0x01 f)
  | .amax f => some (wordM 0x09 0x02 f)
  | .aand f => some (wordM 0x09 0x03 f)
  | .aor f => some (wordM 0x09 0x04 f)
  | .axor f => some (wordM 0x09 0x05 f)
  | .axchg f => some (wordM 0x09 0x06 f)
  | .acas f => some (wordM 0x09 0x07 f)
  | .afadd f => some (wordM 0x09 0x08 f)
  | .wait f => some (wordA 0x0A 0x00 f)
  | .nbinit f => some (wordA 0x0A 0x01 f)
  | .nbarv f => some (wordA 0x0A 0x02 f)
  | .nbwt f => some (wordA 0x0A 0x03 f)
  | .nbsync f => some (wordA 0x0A 0x04 f)
  | .waddr f => some (wordM 0x0A 0x05 f)
  | .cpy f => some (wordE 0x0B 0x00 f)
  | .cpyo f => some (wordE 0x0B 0x01 f)
  | .cpym f => some (wordE 0x0B 0x02 f)
  | .cpyacc f => some (wordE 0x0B 0x03 f)
  | .cpyacs f => some (wordE 0x0B 0x04 f)
  | .dzjob f => some (wordE 0x0B 0x05 f)
  | .mma f => some (wordX 0x0C 0x00 f)
  | .mmaz f => some (wordX 0x0C 0x01 f)
  | .accz f => some (wordX 0x0C 0x02 f)
  | .accrd f => some (wordX 0x0C 0x03 f)
  | .accwr f => some (wordX 0x0C 0x04 f)
  | .bra f => some (wordB 0x0D 0x00 f)
  | .brm f => some (wordB 0x0D 0x01 f)
  | .call f => some (wordB 0x0D 0x02 f)
  | .calli f => some (wordB 0x0D 0x03 f)
  | .ret f => some (wordB 0x0D 0x04 f)
  | .exit f => some (wordB 0x0D 0x05 f)
  | .rgn f => some (wordB 0x0D 0x06 f)
  | .wset f => some (wordB 0x0D 0x07 f)
  | .join f => some (wordB 0x0D 0x08 f)
  | .trap f => some (wordB 0x0D 0x09 f)
  | .brk f => some (wordB 0x0D 0x0A f)
  | .lyrd f => some (wordT 0x0E 0x00 f)
  | .lypin f => some (wordT 0x0E 0x01 f)
  | .lyunp f => some (wordT 0x0E 0x02 f)
  | .lyadv f => some (wordT 0x0E 0x03 f)
  | .ovtld f => some (wordA 0x0F 0x00 f)
  | .tlbinv f => some (wordA 0x0F 0x01 f)
  | .cmnt f => some (wordM 0x0F 0x02 f)
  | .ambw f => some (wordA 0x0F 0x03 f)
  | .jnlaunch f => some (wordE 0x10 0x00 f)
  | .jnrst f | .jnrstStop f | .jnrstClose f => some (wordE 0x10 0x01 f)
  | .jnst f => some (wordE 0x10 0x02 f)
  | .fput f => some (wordE 0x10 0x03 f)
  | .fget f => some (wordE 0x10 0x04 f)
  | .fsig f => some (wordE 0x10 0x05 f)
  | .pblk f => some (wordP f)
  | .xpfx f => some (wordQ f)
  | .notAnInstruction w => some w
  | _ => none

/-- The reserved fields of the slot are zero: no bit of it is lost in the fields that were read (06 R161). -/
def reservedZero (w : Slot) (i : Instr) : Bool := encode i = some w

/-- Decode a slot: total on every 96 bits. A slot whose MAJ and FN the map does not list is `notAnInstruction`;
a listed one with a non-zero reserved field or a forbidden field is rejected by name. Both trap ILLEGAL_ENCODING when
they issue (06 R161). -/
def decode (w : Slot) : Except DecodeError Instr :=
  match select w with
  | .notAnInstruction w => .ok (.notAnInstruction w)
  | i =>
    if !reservedZero w i then .error .reservedField
    else if !i.wellFormed then .error .forbiddenField
    else .ok i

/-- The instruction that the decoder reads from an instruction whose bits are `w`, bit 0 the least significant bit of
the first word; the bits above `nbits` are zero (the host's question, see the fixed names of this package). -/
def decodeTableWord (nbits w : Nat) : Option Instr :=
  match decode (BitVec.ofNat 96 (w % 2 ^ nbits)) with
  | .ok i => some i
  | .error _ => none

end Sys2Proof
end

