-- ==== Sys2Proof/Machine/Faults.lean ====
section
/-!
DEFINITION. Counting hardware errors (18 R429, R430). The numbers of the resource classes and the layout of an index are
the model's (log entry 13): class 0 HBM row, 1 register file, 2 L1, 3 L2, 4 scratchpad, 5 accumulator store, 6 snoop
filter, 7 Amber record, 8 vector lane, 9 die-link lane, 10 Finien Link lane.
-/

namespace Sys2Proof.Machine

/-- The threshold N of a class (18 Table 18-14); Finien Link lanes are counted elsewhere. -/
def faultLimit (cls : Nat) : Option Nat :=
  match cls with
  | 0 => some 8
  | 8 => some 4
  | 9 => some 64
  | 10 => none
  | _ => if cls ≤ 7 then some 16 else none

/-- The pool of spares that serves a resource, and its size (18 Table 18-14). -/
def sparePool (r : Resource) : Nat × Nat :=
  match r.cls with
  | 0 => (r.idx / 65536, 64)
  | 8 => (r.idx / 64, 2)
  | 9 => (r.idx / 64, 2)
  | _ => (r.idx / 16, 1)
def spareKey (r : Resource) : Nat := r.cls * 2 ^ 40 + (sparePool r).1

/-- The core of a resource, for the classes whose arrays belong to cores. -/
def resCore (r : Resource) : Option Nat :=
  match r.cls with
  | 1 | 2 | 4 | 5 => some (r.idx / 16)
  | 8 => some (r.idx / 128)
  | _ => none
/-- DIE of an Amber event about a resource; which die an HBM row or a die-link lane belongs to is open (log entry 13). -/
def resDie (r : Resource) : Nat :=
  match resCore r with
  | some c => c / 36
  | none => if r.cls = 3 || r.cls = 6 then r.idx / 16 else Config.resourceDie r.cls r.idx % 8
/-- UNIT of an Amber event about a resource. -/
def resUnit (r : Resource) : Nat := (resCore r).getD 0x1FF
def resArg (r : Resource) : Nat := two32 r.cls r.idx

def faultCount (s : State) (r : Resource) : Nat :=
  match s.faultCnt.find? (fun p => p.1 = r) with
  | some p => p.2
  | none => 0
/-- Set a fault count; a count of 0 is not listed. -/
def setFaultCount (s : State) (r : Resource) (n : Nat) : State :=
  let rest := s.faultCnt.filter (fun p => p.1 ≠ r)
  { s with faultCnt := if n = 0 then rest else rest ++ [(r, n)] }

/-- A fault has become lasting: it is retired onto a spare, or none is left (18 R430). -/
def lasting (s : State) (r : Resource) (c : Nat) : State :=
  let s := amber s 0x01 (resDie r) (resUnit r) (resArg r) c 0 0
  let used := agetD s.spares 0 (spareKey r)
  if s.retiring.contains r then s
  else if used < (sparePool r).2 then
    later { s with spares := aput s.spares (spareKey r) (used + 1), retiring := s.retiring ++ [r] }
      (.spareRetirementComplete r)
  else amber s 0x03 (resDie r) (resUnit r) (resArg r) 0 0 0

/-- Count an error of weight 1 (corrected) or 4 (uncorrectable) against a resource (18 R429). -/
def countFault (s : State) (r : Resource) (weight : Nat) : State :=
  match faultLimit r.cls with
  | none => s
  | some n =>
    let old := faultCount s r
    let s := setFaultCount s r (old + weight)
    if old < n && n ≤ old + weight then lasting s r (old + weight) else s

end Sys2Proof.Machine
end

