-- ==== Sys2Proof/Machine/Fetch.lean ====
section
/-!
DEFINITION. Instruction fetch (06 R127 to R136), the choice of who moves next, and the state in which a given slot is
the next to be issued.
-/

namespace Sys2Proof.Machine

/-! ## The line that a context issues from -/

/-- The parity of chunk j of a line (06 R129). -/
def chunkParity (l : Line) (j : Nat) : Bool :=
  (List.range 60).foldl (fun p i => p != l.getLsbD (60 * j + i)) false
/-- Every chunk agrees with its PAR bit (06 R129). -/
def parityOk (l : Line) : Bool := (List.range 8).all (fun j => chunkParity l j = l.getLsbD (480 + j))

/-- 64 bytes as a line (06 R127). -/
def lineOfBytes (bs : List Byte) : Line := BitVec.ofNat 512 (leNat bs)

/-- The part of a fetch that can trap at the slot about to issue, once the line is read: parity, target bit, malformed line
(06 Table 6-18, R130, R131, R133). -/
def fetchTrap (pc : Word64) (arrived : Bool) (line : Line) (parity : Bool) : Option TrapInfo :=
  if !parity then some (plainTrap cFetchParity pc)
  else if arrived && !lineTgt line (pcSlot pc) then some (plainTrap cIllegalTarget pc)
  else if line.extractLsb' 497 15 ≠ 0 then some (plainTrap cIllegalEncoding pc)
  else none

/-- The L1 bank of a line, as a resource of class 2: the model takes the line's number modulo 16 (log entry 13). -/
def l1Bank (core line : Nat) : Resource := { cls := 2, idx := 16 * core + line % 16 }

/-- A line's copy fails its parity check: the L1 gives it up, one correctable error is counted against its bank, and the line
comes again from the L2 (06 R130). -/
def refetch (s : State) (core : Nat) (f : Fill) (line : Nat) : State :=
  coreShared (dropL1 (countFault s (l1Bank core line) 1) core line) core f line

/-- A line arrives for the context's PC; `noise` is what a soft error did to the copy in the L1 (06 R130). It is read like a
load, and the context's own stores lie over it (06 R136; 16 R390, R399). POISON_CONSUMED stands after PROTECTION and before
FETCH_PARITY, and a trap of a fetch has LANE 0 and the address of the line: the model's choices (log entry 31). -/
def fetchLine (s : State) (e : Env) (noise : Line) : State :=
  let pc := ePc e
  let core := eCore e
  let vi := eVi e
  let va := BitVec.ofNat 64 (pcLine pc)
  match translate s core vi va with
  | .error lv => takeTrap s e.key (accessTrap cTranslationFault 0 0 lv va pc)
  | .ok x =>
    let line := lineOf x.pa
    let f := xlatFill s vi 0 [x]
    let good := lineOfBytes (readBytes (seen s e) x.pa 64)
    let s := tlbFill s core vi va x
    if pageRefuses (viOf s vi).desc .fetch x then takeTrap s e.key (accessTrap cProtection 0 0 0 va pc)
    else if linesBusy s e false f [line] then waiting s e f [line] false
    else if anyPoison s x.pa 64 then takeTrap s e.key (accessTrap cPoisonConsumed 0 0 0 va pc)
    else
      let copy := good ^^^ noise
      let first := parityOk copy
      let s := coreShared s core (f line) line
      unlessLost (if first then s else refetch s core (f line) line) e (fun s =>
        let got := if first then copy else good
        match fetchTrap pc e.c.arrived got (parityOk got) with
        | some t => takeTrap s e.key t
        | none => modCtx s e.key (fun c => { c with ibuf := some (pcLine pc, got), arrived := false }))

/-- A line arrives for a context that may issue (06 R130, R136): meaning of FETCH_LINE_ARRIVAL. -/
def execFetchLineArrival (ctx : Nat) (noise : Line) (s : State) : Host.Outcome State Fault Refusal :=
  match envOf { s with cur := ctx } with
  | some e => .next (if mayIssue e then fetchLine s e noise else s)
  | none => .next s

/-! ## Who moves next -/

/-- A trap record of the context waits to be written: it stays halted until then (18 R416). -/
def recordDue (s : State) (key : Nat) (c : Ctx) : Bool := s.recs.any (fun p => p.2.ctxid = ctxidOf key c)

/-- The context can take a step: it may issue, or a RESUME is under way and its record is written (18 R416, R421). -/
def canMove (s : State) (key : Nat) : Bool :=
  match envOf { s with cur := key } with
  | none => false
  | some e =>
    mayIssue e || (match e.c.status with
      | .resuming _ =>
        !e.co.saved && !e.co.saving && !e.la.aborted && e.c.fault.isNone && !(recordDue s key e.c)
      | _ => false)

/-- Contexts that can take a step. -/
def movers (s : State) : List Nat := (s.ctxs.map (·.1)).filter (canMove s)

/-- What a context does in its step. -/
inductive Act where
  /-- the line of its PC arrives -/
  | fetch
  /-- this instruction issues -/
  | run (i : Instr)
  /-- the slot is no instruction: ILLEGAL_ENCODING (06 R161) -/
  | bad
  deriving DecidableEq, Repr

/-- The next act of a context: fetch its line, or issue the slot at its PC. -/
def actOf (c : Ctx) : Act :=
  match c.ibuf with
  | some b =>
    if b.1 = pcLine c.r.pc then
      match decode (lineSlot b.2 (pcSlot c.r.pc)) with
      | .ok i => .run i
      | .error _ => .bad
    else .fetch
  | none => .fetch

/-- A context that RESUME released runs again, from its halted PC, in a new region (18 R421; 03 R79). -/
def released (ovt : Word) (c : Ctx) : Ctx :=
  match c.status with
  | .resuming _ =>
    { c with r := { c.r with ovt := ovt }, paused := none,
             status := (match c.paused with | some (k, p) => .waitBar k p | none => .running) }
  | _ => c

/-- The state in which context `key` is about to act. -/
def enter (s : State) (key : Nat) : State := { modCtx s key (released (viOf s (viOfCtx s key)).ovt) with cur := key }

/-- PAUSE counts the cycles that a port spends with a lane paused (20 R450). -/
def pauseTime (n : Nat) (p : Port) : Port :=
  if p.paused.isEmpty then p
  else { p with counters := aput p.counters 2 (Nat.min (agetD p.counters 0 2 + n) (2 ^ 64 - 1)) }

/-- Time passes (06 R158; log entry 2). -/
def passTime (s : State) : State :=
  let n := Config.cyclesOfStep s.tick
  { s with tick := s.tick + 1, time := (s.time + n) % 2 ^ 64, ports := s.ports.map (fun p => (p.1, pauseTime n p.2)) }

/-- How many agents can move: pending events, then contexts. -/
def nMovers (s : State) : Nat := s.agenda.length + (movers s).length
/-- The index of the agent that moves; no free value where there is no choice. -/
def chosen (s : State) : Nat := if nMovers s ≤ 1 then 0 else Config.arbiter s.tick % nMovers s

/-- What the machine does in a step. -/
inductive Move where
  | idle
  | event (i : Instr) (rest : List Instr)
  | context (key : Nat)
  deriving DecidableEq, Repr

/-- The message of an event that is a host message. -/
def msgOf : Instr → Option HostMsg
  | .launch m => some m | .resume m => some m | .abort m => some m | .memRd m => some m | .memWr m => some m
  | .droppedMessage m => some m | .regWr m => some m | .hdataWrite m => some m | .hpcloHpchiWrite m => some m
  | .tictlInvalidatePage m => some m | .tictlInvalidateAll m => some m | .viEnable m => some m
  | .viDisable m => some m | .viddataWrite m => some m | .slotcmtWrite m => some m | .gscmtWrite m => some m
  | .l2gmaskWrite m => some m | .keyselWrite m => some m | .keydataWrite m => some m | .keycmtWrite m => some m
  | .attnonceWrite m => some m | .attgoWrite m => some m | .resetctlWrite m => some m
  | _ => none

/-- Source and VI of a message. -/
def msgKey (i : Instr) : Option (Nat × Nat) := (msgOf i).map (fun m => (m.src, msgField m 8 8))

/-- The event that is taken when event `k` is chosen: the messages of one host to one VI take their places in the order in
which they were sent (04 R88). -/
def inOrder (l : List Instr) (k : Nat) : Nat :=
  match (l[k]?).bind msgKey with
  | none => k
  | some key => (l.findIdx? (fun i => msgKey i = some key)).getD k

/-- The move that the free choice `chosen` makes. -/
def moveOf (s : State) : Move :=
  match pickAt s.agenda (inOrder s.agenda (chosen s)) with
  | some p => .event p.1 p.2
  | none =>
    match pickAt (movers s) (chosen s - s.agenda.length) with
    | some p => .context p.1
    | none => .idle

/-- A module without power takes no event but power on (18 R431; 23 R488). -/
def dropped (s : State) (i : Instr) : Bool :=
  !s.powered && (match i with | .powerOn => false | _ => true)

/-- The trap of a slot that is no instruction. -/
def badSlot (s : State) (key : Nat) : State :=
  match aget s.ctxs key with
  | some c => takeTrap s key (plainTrap cIllegalEncoding c.r.pc)
  | none => s

/-! ## Placing one slot (log entry 4) -/

/-- Registers of a group at its start (02 Table 2-4). -/
def CtxRegs.start (pc : Word64) (m0 : LaneMask) (g : Amap Word) (fmt ovt : Word) : CtxRegs :=
  { pc := pc, m0 := m0, masks := [], g := g, gpoison := [], handles := [], fmt := fmt, seed := 0, randCnt := 0,
    latch := none, ovt := ovt, rstack := [], dstack := [], pblk := none, xwords := [], pend := 0, arrph := 0,
    wroteG := [], wroteM := [], randRuns := 0, seedReset := false }

/-- A whole group's context at its start. -/
def Ctx.start (r : CtxRegs) (group : Nat) (live : LaneMask) (gen : BitVec 12) : Ctx :=
  { r := r, region := none, status := .running, fault := none, arm := .whole, group := group, live := live,
    gen := gen, nLd := 0, nSt := 0, nCp := 0, nTl := 0, same := 0, win := 0, winOpen := false, drain := [],
    ibuf := none, arrived := true, recSlot := none, paused := none, woken := false, carried := [], handed := none }

/-- A packet of one cohort of one 64-lane group with every resource of a core: VREGS 256, SPBYTES 1 MiB, ACCT 32,
NBAR 16, PROD_EN 1, PROD 0. -/
def onePacket : BitVec 2048 :=
  at_ 2048 0 1 ||| at_ 2048 9 3 ||| at_ 2048 15 1 ||| at_ 2048 32 256 ||| at_ 2048 48 16 ||| at_ 2048 53 32
  ||| at_ 2048 128 1 ||| at_ 2048 160 1 ||| at_ 2048 176 1 ||| at_ 2048 192 1048576

/-- One launch, cohort, frame, group and context whose fetched line holds the slot at PC 0. -/
def placeSlot (s : State) (w : Slot) : State :=
  let line : Line := w.setWidth 512
  let all : LaneMask := BitVec.allOnes 64
  { s with
    powered := true
    cur := 0
    agenda := []
    launches := [(0, { vi := 0, queue := 0, prio := 0, serial := false, seq := 0, pkt := onePacket, st := .running,
                       satisfied := [], poisonSeen := [], boost := 0, next := 1, aborted := false,
                       prev := none })]
    cohorts := [(0, { launch := 0, x := 0, y := 0, z := 0, core := 0, slot := 0, spBase := 0, accBase := 0, sp := [],
                      acc := [], accPoison := [], bars := [], sibs := [], cluster := none, saved := false,
                      saving := false })]
    frames := [(0, { core := 0, phys := 0, tag := 0, no := 0, regBase := 0, v := [], vpoison := [], live := all })]
    groups := [(0, { core := 0, frame := 0, first := 0, width := 64, gid := 0, prod := true, slots := 0,
                     split := none })]
    ctxs := [(0, { Ctx.start (CtxRegs.start 0 all [] 0 (viOf s 0).ovt) 0 all 0 with
                   ibuf := some (0, line), arrived := false })] }

end Sys2Proof.Machine
end

