-- ==== Sys2Proof/Machine/Placement.lean ====
section
/-!
DEFINITION. Queues, wait events and selection (04 R91 to R95), the dispatcher (05 R112 to R122), the end of cohorts and
launches (18 R438 to R441; 02 R35, R36), and abort (18 R422).
-/

namespace Sys2Proof.Machine

/-! ## Messages to hosts (04 Tables 4-8, 4-9) -/

/-- UNIT of Tollgate's Amber events: its caching agent (18 Table 18-15). -/
def unitInb : Nat := 0x100 + agentInb

/-- LAUNCH_DONE. -/
def doneMsg (vi queue status : Nat) (tag : Word64) : BitVec 768 :=
  at_ 768 64 tag.toNat ||| at_ 768 32 status ||| at_ 768 16 queue ||| at_ 768 8 vi ||| at_ 768 0 0x04

/-! ## Queues (04 R91) -/

/-- The launches of a queue, oldest first. -/
def queueOf (s : State) (vi q : Nat) : List (Nat × Launch) := s.launches.filter (fun p => p.2.vi = vi && p.2.queue = q)
/-- The head of a queue: its oldest launch whose cohorts have not all been handed over. -/
def headOf (s : State) (vi q : Nat) : Option (Nat × Launch) := (queueOf s vi q).find? (fun p => p.2.st ≠ .running)
/-- Every used wait event is satisfied. -/
def eventsMet (la : Launch) : Bool := (List.range (pkNwait la.pkt)).all (fun i => la.satisfied.contains i)
/-- With SERIAL, the previous launch of the queue is DONE. -/
def serialMet (s : State) (la : Launch) : Bool :=
  !la.serial || (match la.prev with | some k => (aget s.launches k).isNone | none => true)

/-- A launch at the head of its queue: its events are to be read, or it becomes READY. -/
def headUp (s : State) (vi q : Nat) : State :=
  match headOf s vi q with
  | none => s
  | some (l, la) =>
    if la.st ≠ .queued then s
    else if eventsMet la && serialMet s la then
      laterOnce (laterOnce (modLaunch s l (fun x => { x with st := .ready })) .launchSelection) (.launchPriorityAging l)
    else
      ((List.range (pkNwait la.pkt)).filter (fun i => !la.satisfied.contains i)).foldl (fun s i =>
        if s.agenda.contains (.waitEventRetry l i) then s else laterOnce s (.waitEventRead l i)) s

/-- An event of a launch is still to be read. -/
def eventOpen (s : State) (l i : Nat) : Option Launch :=
  match aget s.launches l with
  | some la =>
    if la.st = .queued && i < pkNwait la.pkt && !la.satisfied.contains i
        && (headOf s la.vi la.queue).map (·.1) = some l then some la else none
  | none => none

/-- Tollgate reads an event word (04 R92). An unsatisfied word is read again: reading it with no write between changes
nothing. -/
def readEvent (s : State) (l i : Nat) (la : Launch) : State :=
  let g := inbEng la.vi
  let a := pkWaitAddr la.pkt i
  match readWaits s g .hostRead a 8, engRead s g .hostRead a 8 with
  | some s', _ => later s' (.waitEventRead l i)
  | none, .error x =>
    if x.1 = 3 then
      let s := if la.poisonSeen.contains i then s
        else amber (modLaunch s l (fun q => { q with poisonSeen := i :: q.poisonSeen })) 0x0B 0 unitInb
          (two32 la.vi la.queue) a.toNat 0 0
      later s (.waitEventRead l i)
    else laterOnce s (.waitEventRetry l i)
  | none, .ok (bytes, lines) =>
    let s := engTake s g (engFill s g a 8) lines
    if (pkWaitVal la.pkt i).toNat ≤ leNat bytes then
      headUp (modLaunch s l (fun q => { q with satisfied := i :: q.satisfied })) la.vi la.queue
    else later s (.waitEventRead l i)

def execWaitEventRead (l i : Nat) (s : State) : Host.Outcome State Fault Refusal :=
  .next (match eventOpen s l i with | some la => readEvent s l i la | none => s)

/-- A failed read is repeated (04 R92). -/
def execWaitEventRetry (l i : Nat) (s : State) : Host.Outcome State Fault Refusal :=
  .next (match eventOpen s l i with | some la => readEvent s l i la | none => s)

/-! ## Selection (04 R93) -/

def viGang (s : State) (vi : Nat) : Nat := (viOf s vi).gang
/-- The launch that the dispatcher works on. After a GANG write two DISPATCHING launches may lie in the running gang: the one
that was accepted first goes on first, the model's choice (log entry 54). -/
def dispatching (s : State) : Option (Nat × Launch) :=
  s.launches.find? (fun p => p.2.st = .dispatching && viGang s p.2.vi = s.runGang)
/-- Saved cohorts of the running gang that are still to be placed. -/
def toRestore (s : State) : List (Nat × Cohort) :=
  s.cohorts.filter (fun p => p.2.saved && (match aget s.launches p.2.launch with
    | some la => viGang s la.vi = s.runGang && !la.aborted
    | none => false))
/-- The dispatcher is free. -/
def dispatcherFree (s : State) : Bool := (dispatching s).isNone && s.switching.isNone && (toRestore s).isEmpty

/-- Priority level with aging. -/
def levelOf (la : Launch) : Nat := Nat.min 3 (la.prio + la.boost)
/-- Place of a (VI, queue) pair after the pair selected last. -/
def turnOf (s : State) (la : Launch) : Nat := (16 * la.vi + la.queue + 4096 - s.lastSel - 1) % 4096

/-- READY launches of the running gang. -/
def candidates (s : State) : List (Nat × Launch) :=
  s.launches.filter (fun p => p.2.st = .ready && viGang s p.2.vi = s.runGang)

/-- The launch that is selected: the highest level, then the next pair in turn. -/
def selected (s : State) : Option (Nat × Launch) :=
  (candidates s).foldl (fun b p => match b with
    | none => some p
    | some q =>
      if levelOf q.2 < levelOf p.2 || (levelOf p.2 = levelOf q.2 && turnOf s p.2 < turnOf s q.2) then some p
      else some q) none

/-- The event in which the next cohorts of a launch are placed. -/
def placementOf (la : Launch) : Instr := if pkCluster la.pkt then .clusterPlacement else .cohortPlacement

def execLaunchSelection (s : State) : Host.Outcome State Fault Refusal :=
  .next (if !dispatcherFree s then s
    else match selected s with
      | none => s
      | some (l, la) =>
        laterOnce { modLaunch s l (fun a => { a with st := .dispatching }) with lastSel := 16 * la.vi + la.queue }
          (placementOf la))

/-- A READY launch has waited 2^24 cycles in which its gang ran (04 R93). -/
def execLaunchPriorityAging (l : Nat) (s : State) : Host.Outcome State Fault Refusal :=
  .next (match aget s.launches l with
  | none => s
  | some la =>
    if la.st ≠ .ready then s
    else if viGang s la.vi ≠ s.runGang || s.switching.isSome then later s (.launchPriorityAging l)
    else if 3 ≤ la.prio + la.boost then s
    else later (modLaunch s l (fun a => { a with boost := a.boost + 1 })) (.launchPriorityAging l))

/-! ## Room on a core (05 R112 to R114) -/

/-- The lowest start of a free run of `n` units in `cap`, given the runs in use. -/
def lowestRun (cap : Nat) (used : List (Nat × Nat)) (n : Nat) : Option Nat :=
  let free_ (a : Nat) : Bool := a + n ≤ cap && used.all (fun u => a + n ≤ u.1 || u.1 + u.2 ≤ a)
  ((0 :: used.map (fun u => u.1 + u.2)).filter free_).foldl (fun b a => match b with
    | none => some a
    | some c => if a < c then some a else some c) none

/-- Cohorts resident on a core, and their frames. -/
def residents (s : State) (core : Nat) : List (Nat × Cohort) := s.cohorts.filter (fun p => p.2.core = core && !p.2.saved)
def framesOn (s : State) (core : Nat) : List (Nat × Frame) := s.frames.filter (fun p => p.1 < 2 ^ 20 && p.2.core = core)

/-- The packet of a cohort's launch. -/
def packetOf (s : State) (co : Cohort) : BitVec 2048 :=
  match aget s.launches co.launch with | some la => la.pkt | none => 0

/-- A place for a cohort on a core: its slot, physical frames and their register runs, scratchpad and accumulator. -/
structure CoreRoom where
  slot    : Nat
  frames  : List (Nat × Nat)
  spBase  : Nat
  accBase : Nat
  deriving DecidableEq, Repr

/-- The lowest free physical frames and register runs, one frame after another. -/
def roomFrames (vregs : Nat) : Nat → List Nat → List (Nat × Nat) → Option (List (Nat × Nat))
  | 0, _, _ => some []
  | n + 1, phys, runs =>
    match (List.range 128).find? (fun k => !phys.contains k), lowestRun 524288 runs (vregs * 256) with
    | some k, some a => (roomFrames vregs n (k :: phys) ((a, vregs * 256) :: runs)).map (fun l => (k, a) :: l)
    | _, _ => none

/-- Bytes of registers that a frame in place holds. -/
def frameRun (s : State) (f : Frame) : Nat :=
  match aget s.cohorts f.tag with | some co => pkVregs (packetOf s co) * 256 | none => 0

/-- The place that a cohort of a packet gets on a core; none when something it needs is not free. -/
def roomFor (s : State) (core : Nat) (p : BitVec 2048) : Option CoreRoom :=
  let res := residents s core
  let fs := framesOn s core
  match (List.range 128).find? (fun k => !res.any (fun r => r.2.slot = k)),
      roomFrames (pkVregs p) (pkFrames p + 1) (fs.map (fun f => f.2.phys)) (fs.map (fun f => (f.2.regBase, frameRun s f.2))),
      lowestRun 1048576 (res.map (fun r => (r.2.spBase, pkSpBytes (packetOf s r.2)))) (pkSpBytes p),
      lowestRun 32 (res.map (fun r => (r.2.accBase, pkAcct (packetOf s r.2)))) (pkAcct p) with
  | some slot, some frames, some sp, some acc => some { slot := slot, frames := frames, spBase := sp, accBase := acc }
  | _, _, _, _ => none

/-- The dies in the order of the search, from the die pointer. -/
def diesFrom (s : State) : List Nat := (List.range 8).map (fun k => (s.diePtr + k) % 8)

/-- The entry with the least weight, the first among equals. -/
def lightest {α : Type} (w : α → Nat) (l : List α) : Option α :=
  l.foldl (fun b a => match b with
    | none => some a
    | some c => if w a < w c then some a else some c) none

/-- The core for a cohort (05 R118). -/
def coreFor (s : State) (p : BitVec 2048) : Option (Nat × CoreRoom) :=
  (diesFrom s).findSome? (fun d =>
    lightest (fun x => (framesOn s x.1).length) ((List.range 36).filterMap (fun c =>
      (roomFor s (36 * d + c) p).map (fun r => (36 * d + c, r)))))

/-- Places for members on the cores of a cluster: position and place. -/
def roomsIn (s : State) (first : Nat) (p : BitVec 2048) (members : List Nat) : Option (List (Nat × CoreRoom)) :=
  let l := members.filterMap (fun i => (roomFor s (first + i) p).map (fun r => (i, r)))
  if l.length = members.length then some l else none

/-- The cluster for members at positions (05 R119): its first core and their places. -/
def clusterFor (s : State) (p : BitVec 2048) (members : List Nat) : Option (Nat × List (Nat × CoreRoom)) :=
  (diesFrom s).findSome? (fun d =>
    lightest (fun x => ((List.range 4).map (fun i => (framesOn s (x.1 + i)).length)).sum)
      ((List.range 9).filterMap (fun k => (roomsIn s (36 * d + 4 * k) p members).map (fun r => (36 * d + 4 * k, r)))))

/-! ## Starting a cohort (02 R30, R37, R38; 05 R121, R122) -/

/-- g registers of a group at its start (02 Table 2-4). -/
def startG (p : BitVec 2048) : Amap Word :=
  let inl := (List.range 16).foldl (fun m k => asetD m 0 k (pkInline p k)) ([] : Amap Word)
  asetD (asetD inl 0 16 ((pkArgPtr p).extractLsb' 0 32)) 0 17 ((pkArgPtr p).extractLsb' 32 32)

/-- Start group number n of a cohort in its frame. -/
def startGroup (core phys fk n : Nat) (ovt : Word) (la : Launch) (s : State) : State :=
  let w := pkWidth la.pkt
  let first := n % (64 / w) * w
  let lanes := laneWindow first w
  let id := fresh s
  let g : Group :=
    { core := core, frame := fk, first := first, width := w, gid := BitVec.ofNat 32 n,
      prod := pkProdEn la.pkt && pkProd la.pkt = n, slots := 0, split := none }
  bornCtx { id.2 with groups := aput id.2.groups id.1 g } (ctxKey core phys (ctxIndex first .whole))
    (Ctx.start (CtxRegs.start (pkEntry la.pkt) lanes (startG la.pkt) (pkFmt la.pkt) ovt) id.1 lanes 0)

/-- Start frame `no` of a cohort in its place. -/
def startFrame (core tag no phys regBase : Nat) (la : Launch) (s : State) : State :=
  let fk := core + 512 * phys
  let fr : Frame :=
    { core := core, phys := phys, tag := tag, no := no, regBase := regBase, v := [], vpoison := [],
      live := BitVec.allOnes 64 }
  let s := { s with frames := aput s.frames fk fr }
  let n := 64 / pkWidth la.pkt
  (List.range n).foldl (fun s i => startGroup core phys fk (no * n + i) (viOf s la.vi).ovt la s) s

/-- The key of a new object with a tag: an older object of the same tag keeps its own (05 R121: the tags wrap). -/
def freeKey (used : List Nat) (tag : Nat) : Nat :=
  (((List.range (used.length + 1)).map (fun k => tag + k * 2 ^ 32)).find? (fun x => !used.contains x)).getD tag

/-- Start the cohort of a grid index in its place with a tag. -/
def startCohort (s : State) (l : Nat) (la : Launch) (ix core tag : Nat) (room : CoreRoom) (sibs : List (Nat × Nat))
    (cluster : Option Nat) : State :=
  let gx := pkGx la.pkt
  let gy := pkGy la.pkt
  let co : Cohort :=
    { launch := l, x := ix % gx, y := ix / gx % gy, z := ix / gx / gy, core := core, slot := room.slot,
      spBase := room.spBase, accBase := room.accBase, sp := [], acc := [], accPoison := [], bars := [], sibs := sibs,
      cluster := cluster, saved := false, saving := false }
  let key := freeKey (s.cohorts.map (·.1)) tag
  let s := { s with cohorts := aput s.cohorts key co }
  ((List.range room.frames.length).zip room.frames).foldl (fun s f => startFrame core key f.1 f.2.1 f.2.2 la s) s

/-- The tag of the cohort that starts `k` places from now. -/
def tagAhead (s : State) (k : Nat) : Nat := (s.genCtr + BitVec.ofNat 32 k).toNat

/-- The dispatcher goes on: with the launch of the running gang that is DISPATCHING, or it selects one (04 R102; 05 R117). -/
def goOnPlacing (s : State) : State :=
  laterOnce (match dispatching s with | some (_, la) => laterOnce s (placementOf la) | none => s) .launchSelection

/-- Cohorts have been placed: the launch is RUNNING once its last one has, and the next of its queue is the head. -/
def placedMore (s : State) (l : Nat) (la : Launch) (n : Nat) : State :=
  let s := modLaunch s l (fun a => { a with next := a.next + n })
  if pkCohorts la.pkt ≤ la.next + n then
    goOnPlacing (headUp (modLaunch s l (fun a => { a with st := .running })) la.vi la.queue)
  else laterOnce s (placementOf la)

/-- The launch whose next cohorts the dispatcher may place. -/
def placeable (s : State) (cluster : Bool) : Option (Nat × Launch) :=
  match dispatching s with
  | some (l, la) =>
    if s.switching.isNone && (toRestore s).isEmpty && !la.aborted && pkCluster la.pkt = cluster
        && la.next < pkCohorts la.pkt then some (l, la)
    else none
  | none => none

/-- The dispatcher places a cohort, or waits until one ends (05 R117, R118). -/
def execCohortPlacement (s : State) : Host.Outcome State Fault Refusal :=
  .next (match placeable s false with
  | none => s
  | some (l, la) =>
    match coreFor s la.pkt with
    | none => s
    | some (core, room) =>
      let s := startCohort s l la la.next core (tagAhead s 0) room [] none
      placedMore { s with genCtr := s.genCtr + 1, diePtr := (core / 36 + 1) % 8 } l la 1)

/-- The dispatcher places the four cohorts of a cluster (05 R119, R121, R122). -/
def execClusterPlacement (s : State) : Host.Outcome State Fault Refusal :=
  .next (match placeable s true with
  | none => s
  | some (l, la) =>
    match clusterFor s la.pkt [0, 1, 2, 3] with
    | none => s
    | some (first, rooms) =>
      let sibs := (List.range 4).map (fun i => (first + i, tagAhead s i))
      let key := freeKey (s.clusters.map (·.1)) (tagAhead s 0)
      let s := { s with clusters := aput s.clusters key barCluster }
      let s := rooms.foldl (fun s r =>
        startCohort s l la (la.next + r.1) (first + r.1) (tagAhead s r.1) r.2 sibs (some key)) s
      placedMore { s with genCtr := s.genCtr + 4, diePtr := (first / 36 + 1) % 8 } l la 4)

/-! ## Cohorts end (18 R439) -/

/-- Contexts of a cohort. -/
def cohortCtxs (s : State) (tag : Nat) : List (Nat × Ctx) :=
  s.ctxs.filter (fun p => match aget s.frames (frameKeyOf p.1) with | some f => f.tag = tag | none => false)

/-- Operations of a cohort are still outstanding. -/
def opsLeft (s : State) (tag : Nat) : Bool :=
  s.jobs.any (fun p => p.2.tag = tag) || s.redsts.any (fun p => p.2.tag = tag) || s.fabs.any (fun p => !p.2.failed && p.2.tag = tag)
  || s.accQ.any (fun p => p.2.any (fun a => a.tag = tag))

/-- Free everything that a cohort holds (18 R439). -/
def freeCohort (s : State) (tag : Nat) (co : Cohort) : State :=
  let s := (cohortCtxs s tag).foldl (fun s p => dropCtx (passOn s p.1 []) p.1) s
  let fks := (s.frames.filter (fun p => p.2.tag = tag)).map (·.1)
  let s := { s with
    groups := s.groups.filter (fun p => !fks.contains p.2.frame)
    frames := s.frames.filter (fun p => p.2.tag ≠ tag)
    accQ := s.accQ.filter (fun p => !fks.contains p.1)
    fabs := s.fabs.filter (fun p => p.2.tag ≠ tag)
    cohorts := aerase s.cohorts tag }
  match co.cluster with
  | some k => if s.cohorts.any (fun p => p.2.cluster = some k) then s else { s with clusters := aerase s.clusters k }
  | none => s

/-- What may go on once a cohort has ended: its launch completes, the dispatcher tries again. -/
def afterEnd (s : State) (l : Nat) : State :=
  let s := match aget s.launches l with
    | some la =>
      if (la.st = .running || la.aborted) && !s.cohorts.any (fun p => p.2.launch = l) then laterOnce s (.launchCompletion l)
      else s
    | none => s
  if s.switching.isNone && !(toRestore s).isEmpty then laterOnce s .gangSwitchRestore else goOnPlacing s

/-- A cohort ends once all it has started is over; one that still has a context does not, unless its launch is aborted. -/
def execCohortEnd (tag : Nat) (s : State) : Host.Outcome State Fault Refusal :=
  .next (match aget s.cohorts tag with
  | none => s
  | some co =>
    let cs := cohortCtxs s tag
    let aborted := match aget s.launches co.launch with | some la => la.aborted | none => true
    if !aborted && !cs.isEmpty then s
    else if cs.any (fun p => !p.2.drain.isEmpty) || opsLeft s tag then later s (.cohortEnd tag)
    else afterEnd (freeCohort s tag co) co.launch)

/-! ## Launches end (02 R35, R36; 04 R87; 18 R441) -/

/-- A launch is DONE: its owner is told, its entry is freed, and its queue goes on. -/
def launchDone (s : State) (l : Nat) (la : Launch) (status : Nat) : State :=
  let s := send { s with launches := aerase s.launches l } (descOwner (viOf s la.vi).desc)
    (doneMsg la.vi la.queue status (pkTag la.pkt))
  goOnPlacing (headUp s la.vi la.queue)

/-- The completion store, then LAUNCH_DONE. -/
def completeLaunch (s : State) (l : Nat) (la : Launch) : State :=
  let g := inbEng la.vi
  let a := pkCmplAddr la.pkt
  if !pkCmplEn la.pkt then launchDone s l la 0
  else match engPlaces s g .copyOut a 8 with
    | .error _ =>
      launchDone (amber s 0x0E 0 unitInb (two32 la.vi la.queue) a.toNat (pkTag la.pkt).toNat 0) l la 2
    | .ok places =>
      let f := engFill s g a 8
      if engBlocked s g f (placeLines places) true then later (engWaiting s g f (placeLines places) true) (.launchCompletion l)
      else launchDone (engStore s g f places (natLe 8 (pkCmplVal la.pkt).toNat)) l la 0

/-- Launches of a VI that are not DONE. -/
def viBusy (s : State) (vi : Nat) : Bool := s.launches.any (fun p => p.2.vi = vi)

/-- Transfers of a VI that are not IDLE. -/
def viXfers (s : State) (vi : Nat) : List (Nat × Xfer) := s.xfers.filter (fun p => p.2.vi = vi && p.2.st ≠ 0)

/-- Records of a VI's transfers are held elsewhere: the state that waits for one. -/
def closesWait (s : State) (vi : Nat) : Option State := (viXfers s vi).findSome? (fun p => msWaits s p.2 0 256)

/-- Every transfer of a VI goes to IDLE (04 R105). -/
def closeVi (s : State) (vi : Nat) : State := (viXfers s vi).foldl (fun s p => closeXfer s p.1) s

/-- An aborted launch is DONE; the last one of a VI that has been disabled lets the VI's transfers go to IDLE (04 R105). -/
def abortDone (s : State) (l : Nat) (la : Launch) : State :=
  let s' := launchDone s l la 1
  if (viOf s la.vi).en || viBusy s' la.vi then s'
  else match closesWait s la.vi with
    | some w => later w (.launchCompletion l)
    | none => closeVi s' la.vi

def execLaunchCompletion (l : Nat) (s : State) : Host.Outcome State Fault Refusal :=
  .next (match aget s.launches l with
  | none => s
  | some la =>
    if s.cohorts.any (fun p => p.2.launch = l) then s
    else if la.aborted then abortDone s l la
    else if la.st = .running then completeLaunch s l la
    else s)

/-! ## Abort (04 R94, R95; 18 R422) -/

/-- Stop the contexts of a launch: their uncommitted regions are discarded, and no record is written for them. -/
def stopContexts (s : State) (l : Nat) : State :=
  let tags := (s.cohorts.filter (fun p => p.2.launch = l)).map (·.1)
  let cs := s.ctxs.filter (fun p => tags.contains (tagOf s p.1))
  let ids := cs.map (fun p => ctxidOf p.1 p.2)
  let s := cs.foldl (fun s p => modCtx (rollback s p.1 false) p.1 (fun c => { c with fault := none })) s
  let s := { s with recs := s.recs.filter (fun r => !ids.contains r.2.ctxid) }
  tags.foldl (fun s t => laterOnce s (.cohortEnd t)) s

/-- Abort a launch. -/
def abortLaunch (s : State) (l : Nat) : State :=
  match aget s.launches l with
  | none => s
  | some la =>
    if la.st = .queued || la.st = .ready then launchDone s l la 1
    else laterOnce (stopContexts (modLaunch s l (fun a => { a with aborted := true })) l) (.launchCompletion l)

end Sys2Proof.Machine
end

