-- ==== Sys2Proof/Machine/Tollgate.lean ====
section
/-!
DEFINITION. Host messages (04 R83 to R88, R107): who may send them, LAUNCH, RESUME, ABORT, MEM_RD and MEM_WR.
-/

namespace Sys2Proof.Machine

/-! ## Messages and their senders -/

def msgOp (m : HostMsg) : Nat := msgField m 0 8
def msgVi (m : HostMsg) : Nat := msgField m 8 8
def msgOff (m : HostMsg) : Nat := msgField m 16 12
def msgData (m : HostMsg) : Word := m.bits.extractLsb' 32 32
/-- A REG_RD or REG_WR with bit 28 set names a management register (23 R484). -/
def msgMgmt (m : HostMsg) : Bool := (msgOp m = 7 || msgOp m = 8) && m.bits.getLsbD 28

/-- Count a dropped message (04 R83; 20 R450). -/
def dropMsg (s : State) : State := { s with msgDrop := Nat.min (s.msgDrop + 1) (2 ^ 64 - 1) }

/-- The sender may send it: management to management registers, an enabled VI's owner to the VI; without verified firmware
management alone (04 R84; 23 R484, R485). -/
def authorised (s : State) (m : HostMsg) : Bool :=
  if msgMgmt m then m.src = Config.mgmtNode
  else s.bootOk && (viOf s (msgVi m)).en && m.src = descOwner (viOf s (msgVi m)).desc

/-- Reserved fields are zero, for the messages that are dropped otherwise (04 R107). -/
def rsvOk (m : HostMsg) : Bool :=
  match msgOp m with
  | 5 => msgField m 16 16 = 0 && m.bits.toNat < 2 ^ 64
  | 6 => msgField m 20 44 = 0 && m.bits.toNat < 2 ^ 128
  | 7 => msgField m 29 3 = 0 && m.bits.toNat < 2 ^ 32
  | 8 => msgField m 29 3 = 0 && m.bits.toNat < 2 ^ 64
  | _ => true

/-- The message is acted on. -/
def taken (s : State) (m : HostMsg) : Bool :=
  [1, 5, 6, 7, 8, 10, 11].contains (msgOp m) && authorised s m && rsvOk m

/-- Act on a message of an opcode, or drop and count it; another message is not this event. -/
def onMessage (op : Nat) (m : HostMsg) (act : State → State) (s : State) : State :=
  if msgOp m ≠ op then s else if taken s m then act s else dropMsg s

/-- A message of no listed opcode, or one that its sender may not send (04 R83, R84). -/
def execDroppedMessage (m : HostMsg) (s : State) : Host.Outcome State Fault Refusal :=
  .next (if taken s m then s else dropMsg s)

/-- Answer the owner of the message's VI. -/
def toOwner (s : State) (m : HostMsg) (bits : BitVec 768) : State := send s (descOwner (viOf s (msgVi m)).desc) bits

/-! ## LAUNCH (04 R85, R86) -/

def lnAddr (m : HostMsg) : Word64 := m.bits.extractLsb' 128 64
def lnSeq (m : HostMsg) : Word64 := m.bits.extractLsb' 64 64
def lnQueue (m : HostMsg) : Nat := msgField m 16 4
/-- The message's reserved fields are zero. -/
def lnRsvOk (m : HostMsg) : Bool := msgField m 23 41 = 0 && m.bits.toNat < 2 ^ 192

/-- Reserved bits of a packet (02 Table 2-2). -/
def pkRsv (p : BitVec 2048) : Bool :=
  [(1472, 512), (213, 11), (67, 3), (59, 5), (41, 7), (29, 3)].any (fun f => pkField p f.1 f.2 ≠ 0)

/-- Addresses of the used wait events. -/
def pkWaits (p : BitVec 2048) : List Word64 := (List.range (pkNwait p)).map (pkWaitAddr p)

/-- The rows of Table 2-3, in order. -/
def pkRows (p : BitVec 2048) : List Bool :=
  let v := pkVregs p
  let n := pkFrames p + 1
  [ pkFormat p ≠ 1 || pkRsv p,
    v = 0 || 256 < v || v % 8 ≠ 0,
    524288 < n * v * 256,
    1048576 < pkSpBytes p || pkSpBytes p % 256 ≠ 0,
    16 < pkNbar p || 32 < pkAcct p,
    pkProdEn p && n * 64 / pkWidth p ≤ pkProd p,
    pkCluster p && pkGx p % 4 ≠ 0,
    pkGx p = 0 || pkGy p = 0 || pkGz p = 0,
    4 < pkNwait p,
    fmtBad (pkFmt p),
    4 < pkEntrySlot p,
    (pkArgPtr p).toNat % 8 ≠ 0 || (pkCmplEn p && (pkCmplAddr p).toNat % 8 ≠ 0)
      || (pkWaits p).any (fun a => a.toNat % 8 ≠ 0) ]

/-- The address translates with RD for Tollgate. -/
def readable (s : State) (g : Eng) (a : Word64) : Bool :=
  match engXlat s g .hostRead a with | .ok _ => true | .error _ => false

/-- What the checks of R86 come to: a reason, the wait for lines, or the packet and the lines read. -/
inductive LaunchCheck where
  | reject (reason : Nat)
  | wait (lines : List Nat)
  | accept (pkt : BitVec 2048) (lines : List Nat)

/-- Checks 4 and 5 on a packet that has been read. -/
def checkPacket (s : State) (g : Eng) (p : BitVec 2048) (lines : List Nat) : LaunchCheck :=
  match (pkRows p).findIdx? id with
  | some k => .reject (k + 1)
  | none => if (pkWaits p).any (fun a => !readable s g a) then .reject 0x22 else .accept p lines

/-- The checks of R86, in order. A page that translates but that R90 or RD refuses counts as a failed translation, reason
0x22 (log entry 79). -/
def checkLaunch (s : State) (m : HostMsg) : LaunchCheck :=
  let g := inbEng (msgVi m)
  if !lnRsvOk m || (lnAddr m).toNat % 256 ≠ 0 then .reject 0x21
  else if 256 ≤ (queueOf s (msgVi m) (lnQueue m)).length then .reject 0x20
  else match engXlat s g .hostRead (lnAddr m) with
    | .error _ => .reject 0x22
    | .ok x =>
      match readXlat (dieSees s (engDie g)) x 256 with
      | none => .reject 0x23
      | some bytes =>
        let lines := linesRead s x 256
        if engBlocked s g (engFill s g (lnAddr m) 256) lines false then .wait lines
        else if lines.any (isPoisoned s) then .reject 0x23
        else checkPacket s g (BitVec.ofNat 2048 (leNat bytes)) lines

/-- LAUNCH_ACK or LAUNCH_REJECT. -/
def launchReply (m : HostMsg) (reason : Nat) : BitVec 768 :=
  at_ 768 64 (lnSeq m).toNat ||| at_ 768 24 reason ||| at_ 768 16 (lnQueue m) ||| at_ 768 8 (msgVi m)
  ||| at_ 768 0 (if reason = 0 then 2 else 3)

/-- Append a launch to its queue. -/
def acceptLaunch (s : State) (m : HostMsg) (p : BitVec 2048) (lines : List Nat) : State :=
  let g := inbEng (msgVi m)
  let s := engTake s g (engFill s g (lnAddr m) 256) lines
  let n := fresh s
  let la : Launch :=
    { vi := msgVi m, queue := lnQueue m, prio := msgField m 20 2, serial := m.bits.getLsbD 22, seq := lnSeq m, pkt := p,
      st := .queued, satisfied := [], poisonSeen := [], boost := 0, next := 0, aborted := false,
      prev := aget s.accepted (16 * msgVi m + lnQueue m) }
  let s := { n.2 with launches := aput n.2.launches n.1 la, accepted := aput n.2.accepted (16 * msgVi m + lnQueue m) n.1 }
  headUp (toOwner s m (launchReply m 0)) la.vi la.queue

def execLaunch (m : HostMsg) (s : State) : Host.Outcome State Fault Refusal :=
  .next (onMessage 1 m (fun s => match checkLaunch s m with
    | .reject r => toOwner s m (launchReply m r)
    | .wait lines =>
      let g := inbEng (msgVi m)
      sooner (engWaiting s g (engFill s g (lnAddr m) 256) lines false) (.launch m)
    | .accept p lines => acceptLaunch s m p lines) s)

/-! ## RESUME and ABORT (18 R421; 04 R94, R95) -/

/-- A halted context of the VI is marked to run again. -/
def resumeCtx (s : State) (vi : Nat) (id : Word) : State :=
  match ctxNamed s id with
  | none => s
  | some (k, c) =>
    match c.status with
    | .halted t => if viOfCtx s k = vi && !stopped s k then modCtx s k (fun c => { c with status := .resuming t }) else s
    | _ => s

def execResume (m : HostMsg) (s : State) : Host.Outcome State Fault Refusal :=
  .next (onMessage 5 m (fun s => resumeCtx s (msgVi m) (msgData m)) s)

def execAbort (m : HostMsg) (s : State) : Host.Outcome State Fault Refusal :=
  .next (onMessage 6 m (fun s =>
    let q := msgField m 16 4
    match (queueOf s (msgVi m) q).find? (fun p => pkTag p.2.pkt = m.bits.extractLsb' 64 64) with
    | some p => abortLaunch s p.1
    | none => toOwner s m (doneMsg (msgVi m) q 1 0)) s)

/-! ## MEM_RD and MEM_WR (04 R88) -/

def memAddr (m : HostMsg) : Word64 := m.bits.extractLsb' 64 64
/-- Bytes of the access. -/
def memSize (m : HostMsg) : Nat := 8 * 2 ^ msgField m 16 2

/-- MEM_RSP (04 Tables 4-11, 4-12). -/
def memReply (m : HostMsg) (status : Nat) (bytes : List Byte) : BitVec 768 :=
  at_ 768 256 (leNat bytes) ||| at_ 768 64 (memAddr m).toNat ||| at_ 768 32 (msgField m 32 32) ||| at_ 768 24 status
  ||| at_ 768 16 (msgField m 16 2) ||| at_ 768 8 (msgVi m) ||| at_ 768 0 0x0C

/-- The status of an access that is refused, or its translation: of several that apply, the malformed message comes first,
then the misaligned address, then the translation (log entry 80). -/
def memCheck (s : State) (m : HostMsg) (acc : Access) : Except Nat Xlat :=
  if msgField m 18 6 ≠ 0 || msgField m 128 128 ≠ 0 || (msgOp m = 10 && 2 ^ 256 ≤ m.bits.toNat) then .error 5
  else if (memAddr m).toNat % memSize m ≠ 0 then .error 4
  else engXlat s (inbEng (msgVi m)) acc (memAddr m)

/-- MEM_RD: the stored form of the bytes (09 R284); nothing of a poisoned line (16 R395). -/
def memRead (s : State) (m : HostMsg) : State :=
  let g := inbEng (msgVi m)
  match memCheck s m .hostRead with
  | .error n => toOwner s m (memReply m n [])
  | .ok x =>
    let line := lineOf x.pa
    let f := xlatFill s g.vi 0 [x]
    if lineMoving s line || engBlocked s g f [line] false then sooner (engWaiting s g f [line] false) (.memRd m)
    else if isPoisoned s line then toOwner s m (memReply m 3 [])
    else toOwner (engTake s g f [line]) m (memReply m 0 (readBytes (dieSees s (engDie g)) x.pa (memSize m)))

def execMemRd (m : HostMsg) (s : State) : Host.Outcome State Fault Refusal :=
  .next (onMessage 10 m (fun s => memRead s m) s)

/-- MEM_WR, a write of records among others (13 R361). -/
def memWrite (s : State) (m : HostMsg) : State :=
  let g := inbEng (msgVi m)
  let n := memSize m
  match memCheck s m .hostWrite with
  | .error k => toOwner s m (memReply m k [])
  | .ok x =>
    let line := lineOf x.pa
    let f := xlatFill s g.vi 0 [x]
    if lineMoving s line || engBlocked s g f [line] true then sooner (engWaiting s g f [line] true) (.memWr m)
    else
      let before := bandsBefore s (pteLyrec x.pte) x.pa n
      let places := (List.range n).map (fun k => (x.pa + k, pteTol x.pte))
      let s := engStore s g f places (natLe n (msgField m 256 512))
      toOwner (recordsWritten s before x.pa n) m (memReply m 0 [])

def execMemWr (m : HostMsg) (s : State) : Host.Outcome State Fault Refusal :=
  .next (onMessage 11 m (fun s => memWrite s m) s)

end Sys2Proof.Machine
end

