-- ==== Sys2Proof/Machine/Window.lean ====
section
/-!
DEFINITION. Registers: REG_RD and REG_WR, the halt window and TICTL of a VI (18 R417 to R420; 20 R446), and the
management registers (23 R484) with the writes that take effect on VIs, the slot table and the gang schedule
(04 R89, R98, R100, R105).
-/

namespace Sys2Proof.Machine

/-! ## Answers -/

/-- REG_RSP (18 Table 18-4). The manual does not say which VI the answer of a management access carries. -/
def regReply (s : State) (m : HostMsg) (refused : Bool) (data : Word) : BitVec 768 :=
  at_ 768 32 data.toNat ||| at_ 768 16 (if refused then 1 else 0)
  ||| at_ 768 8 (if msgMgmt m then Config.choice s.tick 4000 % 256 else msgVi m) ||| at_ 768 0 0x09

/-- Answer the node that asked. -/
def regAnswer (s : State) (m : HostMsg) (refused : Bool) (data : Word) : State := send s m.src (regReply s m refused data)

/-- A write to one of the registers, by its sender; dropped and counted otherwise. -/
def onWrite (mgmt : Bool) (offs : List Nat) (m : HostMsg) (act : State → State) (s : State) : State :=
  if msgOp m = 8 && msgMgmt m = mgmt && offs.contains (msgOff m) then (if taken s m then act s else dropMsg s) else s

/-- A register write that is refused, or made. -/
def regWrite (s : State) (m : HostMsg) (r : Option State) : State :=
  match r with
  | some s' => regAnswer s' m false 0
  | none => regAnswer s m true 0

/-! ## The halt window (18 R418, R419) -/

/-- The halted context that HSEL names, of this VI. -/
def selCtx (s : State) (vi : Nat) : Option (Nat × Ctx) :=
  match ctxNamed s (viOf s vi).hsel with
  | some (k, c) =>
    if viOfCtx s k = vi && (match c.status with | .halted _ => true | .resuming _ => true | _ => false) then some (k, c)
    else none
  | none => none

/-- The cohort of a context is saved. -/
def isSaved (s : State) (key : Nat) : Bool :=
  match aget s.cohorts (tagOf s key) with | some co => co.saved | none => false

/-- The context that the window serves. -/
def served (s : State) (vi : Nat) : Option (Nat × Ctx) :=
  (selCtx s vi).bind (fun p => if isSaved s p.1 then none else some p)

def hxWord (x : Word) : Nat := (x.extractLsb' 24 5).toNat
def hxLane (x : Word) : Nat := (x.extractLsb' 16 6).toNat
def hxKind (x : Word) : Nat := (x.extractLsb' 8 3).toNat
def hxNum (x : Word) : Nat := (x.extractLsb' 0 8).toNat
/-- Bits of HIDX that are fields. -/
def hxMask : Word := 0x1F3F07FF#32

/-- VREGS of a context's launch. -/
def vregsOfCtx (s : State) (key : Nat) : Nat :=
  match aget s.cohorts (tagOf s key) with | some co => pkVregs (packetOf s co) | none => 0

/-- HIDX selects an item of the context (18 R419). -/
def hxValid (s : State) (key : Nat) (x : Word) : Bool :=
  let n := hxNum x
  let w := hxWord x
  x &&& ~~~hxMask = 0 &&
  (match hxKind x with
   | 0 => n < vregsOfCtx s key && w = 0
   | 1 => n < 128 && w = 0
   | 2 => n < 16 && w < 2
   | 3 => n < 16
   | 4 => w = 0
   | 5 => n < 2 && w = 0
   | 6 => n < 17 && w < 4
   | _ => false)

/-- A barrier's state as Table 10-5 lays it out. -/
def barBits (b : Barrier) : BitVec 128 :=
  at_ 128 88 b.cb ||| at_ 128 64 b.eb ||| at_ 128 32 b.cm ||| at_ 128 8 b.em ||| at_ 128 2 (if b.phase then 1 else 0)
  ||| at_ 128 1 (if b.misuse then 1 else 0) ||| at_ 128 0 (if b.init then 1 else 0)

/-- The selected word. An empty handle holds no record: what its words read as is open. -/
def hxRead (s : State) (key : Nat) (c : Ctx) (x : Word) : Word :=
  let n := hxNum x
  let w := hxWord x
  match hxKind x with
  | 0 => (match aget s.frames (frameKeyOf key) with | some f => vAt f n (hxLane x) | none => 0)
  | 1 => gAt c.r n
  | 2 => (maskOf c.r n).extractLsb' (32 * w) 32
  | 3 => (match hAt c.r n with
    | some h => h.extractLsb' (32 * w) 32
    | none => BitVec.ofNat 32 (Config.choice s.tick (4001 + w)))
  | 4 => c.r.fmt
  | 5 => c.r.seed.extractLsb' (32 * n) 32
  | _ => (barBits (barOf s (tagOf s key) n)).extractLsb' (32 * w) 32

/-- Poison of the selected word (18 Table 18-7). -/
def hxPoison (s : State) (key : Nat) (c : Ctx) (x : Word) : Nat :=
  if !hxValid s key x then 0
  else match hxKind x with
    | 0 => (match aget s.frames (frameKeyOf key) with | some f => (vPoisonAt f (hxNum x) (hxLane x)).toNat | none => 0)
    | 1 => (agetD c.r.gpoison 0 (hxNum x)).toNat
    | _ => 0

/-- A write of the selected word, none when it is refused. -/
def hxWrite (s : State) (key : Nat) (c : Ctx) (x v : Word) : Option State :=
  let n := hxNum x
  let w := hxWord x
  if !hxValid s key x then none
  else match hxKind x with
    | 0 =>
      if !c.live.getLsbD (hxLane x) then none
      else some (modFrame s (frameKeyOf key) (fun f =>
        { f with v := asetD f.v 0 (64 * n + hxLane x) v, vpoison := aerase f.vpoison (64 * n + hxLane x) }))
    | 1 => some (modRegs s key (fun r => { r with g := asetD r.g 0 n v, gpoison := aerase r.gpoison n }))
    | 2 =>
      if n = 0 then none
      else some (modRegs s key (fun r =>
        let m := maskOf r n
        putMask r n (if w = 0 then m.extractLsb' 32 32 ++ v else v ++ m.extractLsb' 0 32)))
    | 4 => if fmtBad v then none else some (modRegs s key (fun r => { r with fmt := v }))
    | 5 => some (modRegs s key (fun r =>
        { r with seed := if n = 0 then r.seed.extractLsb' 32 32 ++ v else v ++ r.seed.extractLsb' 0 32 }))
    | _ => none

/-- HSTAT (18 Table 18-7). -/
def hstat (s : State) (vi : Nat) : Word :=
  let v := viOf s vi
  let ref := if v.hrefused then 8 else 0
  match selCtx s vi with
  | none => BitVec.ofNat 32 ref
  | some (k, c) =>
    BitVec.ofNat 32 (16 * hxPoison s k c v.hidx + ref + (match c.status with | .resuming _ => 4 | _ => 0)
      + (if isSaved s k then 2 else 0) + 1)

/-- Note whether an access of the window had an effect. -/
def noteAccess (s : State) (vi : Nat) (refused : Bool) : State := modVi s vi (fun v => { v with hrefused := refused })

/-- A window access that is refused, or answered. -/
def windowRead (s : State) (m : HostMsg) (r : Option Word) : State :=
  match r with
  | some w => regAnswer (noteAccess s (msgVi m) false) m false w
  | none => regAnswer (noteAccess s (msgVi m) true) m true 0
def windowWrite (s : State) (m : HostMsg) (r : Option State) : State :=
  match r with
  | some s' => regAnswer (noteAccess s' (msgVi m) false) m false 0
  | none => regAnswer (noteAccess s (msgVi m) true) m true 0

def execHdataWrite (m : HostMsg) (s : State) : Host.Outcome State Fault Refusal :=
  .next (onWrite false [0x10C] m (fun s => windowWrite s m
    ((served s (msgVi m)).bind (fun p => hxWrite s p.1 p.2 (viOf s (msgVi m)).hidx (msgData m)))) s)

/-- The halted PC with one half replaced. -/
def newPc (pc : Word64) (high : Bool) (v : Word) : Word64 :=
  if high then v ++ pc.extractLsb' 0 32 else pc.extractLsb' 32 32 ++ v

/-- The host moves the halted PC: a barrier wait that the halt met does not follow it. -/
def movePc (s : State) (key : Nat) (c : Ctx) (high : Bool) (v : Word) : Option State :=
  let pc := newPc c.r.pc high v
  if !pcOk pc then none else some (modCtx s key (fun c => { c with r := { c.r with pc := pc }, paused := none, woken := false }))

def execHpcloHpchiWrite (m : HostMsg) (s : State) : Host.Outcome State Fault Refusal :=
  .next (onWrite false [0x110, 0x114] m (fun s => windowWrite s m
    ((served s (msgVi m)).bind (fun p => movePc s p.1 p.2 (msgOff m = 0x114) (msgData m)))) s)

/-! ## TICTL (18 R420) -/

/-- An invalidation through TICTL, refused while one is under way. -/
def tictl (m : HostMsg) (all : Bool) (s : State) : State :=
  let v := viOf s (msgVi m)
  if v.ticBusy then regAnswer s m true 0
  else
    let t : TlbInv :=
      { asid := descAsid v.desc, page := if all then none else some v.tiva, vi := some (msgVi m), ctx := none }
    regAnswer (startInv (modVi s (msgVi m) (fun v => { v with ticBusy := true })) t none) m false 0

def execTictlInvalidatePage (m : HostMsg) (s : State) : Host.Outcome State Fault Refusal :=
  .next (if msgData m = 1 then onWrite false [0x128] m (tictl m false) s else s)
def execTictlInvalidateAll (m : HostMsg) (s : State) : Host.Outcome State Fault Refusal :=
  .next (if msgData m = 2 then onWrite false [0x128] m (tictl m true) s else s)

/-! ## VI control and descriptors (04 R89, R105) -/

/-- The VI that VISEL names. -/
def selVi (s : State) : Nat := (s.mgmt.visel.extractLsb' 0 8).toNat
/-- VICTL: GANG reads as it was last written. -/
def victl (v : Vi) : Word :=
  BitVec.ofNat 32 ((if v.priv then 512 else 0) + (if v.reshard then 256 else 0) + 16 * (v.gangNew.getD v.gang % 16)
    + (if v.en then 1 else 0))

/-- The fields of VICTL other than EN; a new GANG takes effect at the next slice instant (04 R106). -/
def putRights (w : Word) (v : Vi) : Vi :=
  let g := (w.extractLsb' 4 4).toNat
  { v with reshard := w.getLsbD 8, priv := w.getLsbD 9, gangNew := if g = v.gang then none else some g }

/-- VICTL written with EN = 1. A VI that is enabled has a new context (03 R78; log entry 77). -/
def enableVi (s : State) (w : Word) : Option State :=
  let n := selVi s
  let v := viOf s n
  if v.en then some (modVi s n (putRights w))
  else if (List.range 4).any (fun p => descWays v.desc p = 0) || viBusy s n then none
  else some (modVi s n (fun v => { putRights w v with en := true, trapNext := 0, ovt := 0x00155555#32 }))

def execViEnable (m : HostMsg) (s : State) : Host.Outcome State Fault Refusal :=
  .next (if (msgData m).getLsbD 0 then onWrite true [0x014] m (fun s => regWrite s m (enableVi s (msgData m))) s else s)

/-- A launch of the VI has cohorts, placed or saved: its abort takes time (04 R95, R105). -/
def viRuns (s : State) (vi : Nat) : Bool :=
  s.launches.any (fun p => p.2.vi = vi && !(p.2.st = .queued || p.2.st = .ready))

/-- Abort the launches of a disabled VI: queued and ready ones first, then the others (04 R105). -/
def windDown (s : State) (vi : Nat) : State :=
  let ls := s.launches.filter (fun p => p.2.vi = vi)
  let early := (ls.filter (fun p => p.2.st = .queued || p.2.st = .ready)).map (·.1)
  let late := (ls.filter (fun p => !(p.2.st = .queued || p.2.st = .ready))).map (·.1)
  (early ++ late).foldl abortLaunch s

/-- VICTL written with EN = 0: the VI's transfers go to IDLE once every launch is DONE (04 R105). -/
def disableVi (m : HostMsg) (s : State) : State :=
  let n := selVi s
  let off := windDown (modVi s n (fun v => { putRights (msgData m) v with en := false })) n
  if !(viOf s n).en then regAnswer (modVi s n (putRights (msgData m))) m false 0
  else if viRuns s n then regAnswer off m false 0
  else match closesWait s n with
    | some s' => sooner s' (.viDisable m)
    | none => regAnswer (closeVi off n) m false 0

def execViDisable (m : HostMsg) (s : State) : Host.Outcome State Fault Refusal :=
  .next (if !(msgData m).getLsbD 0 then onWrite true [0x014] m (disableVi m) s else s)

/-- Bits of descriptor word k that are fields (04 Table 4-4). -/
def descMask (k : Nat) : Word :=
  match k with
  | 1 => 0x0007FFFF#32
  | 2 => 0x000000FF#32
  | 3 | 4 | 5 | 6 | 7 => 0
  | _ => 0xFFFFFFFF#32

/-- A descriptor word breaks R89: an empty way mask, a trap area that is not 4 KiB aligned, a reserved tier code. -/
def descBad (k : Nat) (w : Word) : Bool :=
  (12 ≤ k && w = 0) || (k = 10 && w.extractLsb' 0 12 ≠ 0)
  || (k = 2 && (List.range 4).any (fun p => w.extractLsb' (2 * p) 2 = 3))

/-- A descriptor with word k replaced. -/
def putDescWord (d : BitVec 512) (k : Nat) (w : Word) : BitVec 512 :=
  (d &&& ~~~(at_ 512 (32 * k) 0xFFFFFFFF)) ||| at_ 512 (32 * k) (w &&& descMask k).toNat

def writeDesc (s : State) (w : Word) : Option State :=
  let n := selVi s
  let k := (s.mgmt.vididx.extractLsb' 0 4).toNat
  if (viOf s n).en || viBusy s n || descBad k w then none
  else some (modVi s n (fun v => { v with desc := putDescWord v.desc k w }))

def execViddataWrite (m : HostMsg) (s : State) : Host.Outcome State Fault Refusal :=
  .next (onWrite true [0x01C] m (fun s => regWrite s m (writeDesc s (msgData m))) s)

/-! ## Slot table (04 R98) -/

/-- Entry i of the shadow table. -/
def shadowSlot (s : State) (i : Nat) : BitVec 3 := (agetD s.mgmt.slotShadow 0 (i / 8)).extractLsb' (3 * (i % 8)) 3

/-- The shadow table as a table. -/
def shadowTable (s : State) : Amap (BitVec 3) :=
  ((List.range 64).map (fun i => (i, shadowSlot s i))).filter (fun p => p.2 ≠ 0)

/-- A reserved code, fewer than four refresh slots, or no demand slot. -/
def slotsBad (s : State) : Bool :=
  let l := (List.range 64).map (shadowSlot s)
  l.any (fun c => 4 < c.toNat) || (l.filter (· = 4)).length < 4 || !l.contains 0

def commitSlots (s : State) (w : Word) : Option State :=
  if w ≠ 1 then some s else if slotsBad s then none else some (later { s with slotPend := some (shadowTable s) } .hbmFrameBoundary)

def execSlotcmtWrite (m : HostMsg) (s : State) : Host.Outcome State Fault Refusal :=
  .next (onWrite true [0x028] m (fun s => regWrite s m (commitSlots s (msgData m))) s)

/-- A pending table takes effect. -/
def execHbmFrameBoundary (s : State) : Host.Outcome State Fault Refusal :=
  .next (match s.slotPend with
  | some t => { s with slotTab := t, slotPend := none }
  | none => s)

/-! ## Gang schedule (04 R100) -/

/-- Nanoseconds of one turn of a schedule. -/
def turnNs (c : Schedule) : Nat := (c.entries.map (fun e => 1000 * e.2)).sum
/-- Nanoseconds from the start of a turn to the start of entry k. -/
def startNs (c : Schedule) (k : Nat) : Nat := ((c.entries.take k).map (fun e => 1000 * e.2)).sum

/-- The first instant of a schedule later than `t`, and the entry that starts at it. -/
def instantAfter (c : Schedule) (t : Nat) : Nat × Nat :=
  let t0 := c.t0.toNat
  if t < t0 || turnNs c = 0 then (t0, 0)
  else
    let q := (t - t0) / turnNs c
    let r := (t - t0) % turnNs c
    match (List.range c.entries.length).find? (fun k => r < startNs c k) with
    | some k => (t0 + q * turnNs c + startNs c k, k)
    | none => (t0 + (q + 1) * turnNs c, 0)

/-- Entry k of the shadow schedule. -/
def gsWord (s : State) (k : Nat) : Word := agetD s.mgmt.gsShadow 0 k

/-- What a GSCMT may not apply. -/
def gsBad (s : State) : Bool :=
  let n := s.mgmt.gscount.toNat
  n = 0 || 16 < n || s.mgmt.savesize.toNat < n
  || (List.range n).any (fun k =>
    let us := ((gsWord s k).extractLsb' 12 20).toNat
    us < 200 || 1000000 < us || (gsWord s k).extractLsb' 4 8 ≠ 0)

/-- The schedule that a GSCMT applies. -/
def gsSchedule (s : State) : Schedule :=
  { entries := (List.range s.mgmt.gscount.toNat).map (fun k =>
      (((gsWord s k).extractLsb' 0 4).toNat, ((gsWord s k).extractLsb' 12 20).toNat)),
    t0 := s.mgmt.t0hi ++ s.mgmt.t0lo }

/-- The write falls at an open time before the next instant of any schedule (log entry 56). -/
def commitSchedule (s : State) (w : Word) : Option State :=
  if w ≠ 1 then some s
  else if gsBad s then none
  else
    let next := s.pendScheds.foldl (fun n c => Nat.min n (instantAfter c s.ptp).1) (instantAfter s.sched s.ptp).1
    some { s with pendScheds := s.pendScheds ++ [gsSchedule s], ptp := s.ptp + free s 4100 (next - s.ptp) }

def execGscmtWrite (m : HostMsg) (s : State) : Host.Outcome State Fault Refusal :=
  .next (onWrite true [0x044] m (fun s => regWrite s m (commitSchedule s (msgData m))) s)

/-! ## Reading registers -/

/-- STATUS (23 Table 23-2). -/
def statusWord (s : State) : Word :=
  BitVec.ofNat 32 ((if s.attBusy then 8 else 0) + (if s.throttle then 4 else 0) + (if s.syncLoss then 2 else 0)
    + (if s.bootOk then 1 else 0))

/-- An Amber event as Table 18-15 lays it out. -/
def amberBits (e : AmberEvent) : BitVec 512 :=
  at_ 512 384 e.arg3.toNat ||| at_ 512 320 e.arg2.toNat ||| at_ 512 256 e.arg1.toNat ||| at_ 512 192 e.arg0.toNat
  ||| at_ 512 160 e.unit ||| at_ 512 152 e.die ||| at_ 512 144 e.code ||| at_ 512 128 e.resets
  ||| at_ 512 64 (e.time % 2 ^ 64) ||| at_ 512 0 (e.seq % 2 ^ 64)

/-- The word that AMBSEL selects; a slot that no event has filled reads as zero. -/
def amberWord (s : State) : Word :=
  match s.amber.find? (fun e => e.seq % 4096 = (s.mgmt.ambsel.extractLsb' 0 12).toNat) with
  | some e => (amberBits e).extractLsb' (32 * (s.mgmt.ambsel.extractLsb' 12 4).toNat) 32
  | none => 0

/-- The counter that CNTSEL selects. -/
def selCounter (s : State) : Nat :=
  let x := s.mgmt.cntsel
  if x.getLsbD 31 then agetD (portOf s (x.extractLsb' 16 6).toNat).counters 0 (x.extractLsb' 0 3).toNat
  else agetD s.discards 0 (x.extractLsb' 0 9).toNat

def loWord (n : Nat) : Word := BitVec.ofNat 32 n
def hiWord (n : Nat) : Word := BitVec.ofNat 32 (n / 2 ^ 32)
def selPort (s : State) : Nat := (s.mgmt.portsel.extractLsb' 0 6).toNat
def selL2 (s : State) : Nat := (s.mgmt.l2gsel.extractLsb' 0 3).toNat

/-- A management register; none when no table gives the offset (23 Table 23-1). Write-only registers read zero. -/
def mgmtRead (s : State) (off : Nat) : Option Word :=
  let g := s.mgmt
  match off with
  | 0x000 => some 0x00070288#32
  | 0x004 => some g.nodeId
  | 0x008 => some (statusWord s)
  | 0x00C => some 0
  | 0x010 => some g.visel
  | 0x014 => some (victl (viOf s (selVi s)))
  | 0x018 => some g.vididx
  | 0x01C => some ((viOf s (selVi s)).desc.extractLsb' (32 * (g.vididx.extractLsb' 0 4).toNat) 32)
  | 0x020 => some g.slotidx
  | 0x024 => some (agetD g.slotShadow 0 g.slotidx.toNat)
  | 0x028 => some 0
  | 0x030 => some g.gsidx
  | 0x034 => some (agetD g.gsShadow 0 g.gsidx.toNat)
  | 0x038 => some g.gscount
  | 0x03C => some g.t0lo
  | 0x040 => some g.t0hi
  | 0x044 => some 0
  | 0x050 => some g.keysel
  | 0x054 => some 0
  | 0x058 => some 0
  | 0x060 => some g.ambsel
  | 0x064 => some (amberWord s)
  | 0x068 => some (loWord (s.amberSeq % 4096))
  | 0x070 => some g.cntsel
  | 0x074 => some (loWord (selCounter s))
  | 0x078 => some (hiWord (selCounter s))
  | 0x07C => some (loWord s.msgDrop)
  | 0x080 => some (hiWord s.msgDrop)
  | 0x084 => some g.savelo
  | 0x088 => some g.savehi
  | 0x08C => some g.savesize
  | 0x090 => some g.portsel
  | 0x094 =>
    let p := portOf s (selPort s)
    some (loWord ((if p.up then 2 else 0) + (if p.longHaul then 1 else 0)))
  | 0x098 => some ((portOf s (selPort s)).lhBase.extractLsb' 0 32)
  | 0x09C => some ((portOf s (selPort s)).lhBase.extractLsb' 32 32)
  | 0x0A0 => some g.pwrlim
  | 0x0A4 => some g.temp
  | 0x0A8 => some g.l2gsel
  | 0x0AC => some ((agetD s.l2gmask 0 (selL2 s)).setWidth 32)
  | 0x0B0 => some 0
  | 0x0B4 => some 0
  | 0x0B8 => some g.attidx
  | 0x0BC => some (g.report.getD g.attidx.toNat 0)
  | _ => none

/-- Number of a peer table entry (20 R446). -/
def peerNo (off : Nat) : Option Nat :=
  if 0x140 ≤ off && off < 0x180 && off % 4 = 0 then some ((off - 0x140) / 4) else none

/-- A VI register that reads without an effect of its own (18 Table 18-5; 20 R446). -/
def viRead (s : State) (vi off : Nat) : Option Word :=
  let v := viOf s vi
  match off with
  | 0x100 => some v.hsel
  | 0x104 => some (hstat s vi)
  | 0x108 => some (v.hidx &&& hxMask)
  | 0x120 => some (v.tiva.extractLsb' 0 32)
  | 0x124 => some (v.tiva.extractLsb' 32 32)
  | 0x128 => some (if v.ticBusy then 1 else 0)
  | _ => (peerNo off).map (fun k => agetD v.peers 0 k)

/-- REG_RD. -/
def regRead (s : State) (m : HostMsg) : State :=
  let plain (r : Option Word) : State := match r with
    | some w => regAnswer s m false w
    | none => regAnswer s m true 0
  let vi := msgVi m
  if msgMgmt m then plain (mgmtRead s (msgOff m))
  else match msgOff m with
    | 0x10C => windowRead s m ((served s vi).bind (fun p =>
        if hxValid s p.1 (viOf s vi).hidx then some (hxRead s p.1 p.2 (viOf s vi).hidx) else none))
    | 0x110 => windowRead s m ((served s vi).map (fun p => p.2.r.pc.extractLsb' 0 32))
    | 0x114 => windowRead s m ((served s vi).map (fun p => p.2.r.pc.extractLsb' 32 32))
    | off => plain (viRead s vi off)

/-! ## Writes of registers with no behaviour of their own -/

def modMgmt (s : State) (f : Mgmt → Mgmt) : State := { s with mgmt := f s.mgmt }

/-- Long-haul mode of a port; refused while it is up (23 Table 23-1), and for a fifth port (20 R449; log entry 59). -/
def writePortCfg (s : State) (w : Word) : Option State :=
  let others := s.ports.filter (fun p => p.1 ≠ selPort s && p.2.longHaul)
  if (portOf s (selPort s)).up || (w.getLsbD 0 && 4 ≤ others.length) then none
  else some (modPort s (selPort s) (fun p => { p with longHaul := w.getLsbD 0 }))

/-- A management register. A write of a read-only one has no effect (00 R13); no rule refuses it, so its answer has
REFUSED = 0 (log entry 81). -/
def mgmtWrite (s : State) (off : Nat) (w : Word) : Option State :=
  let put (f : Mgmt → Mgmt) : Option State := some (modMgmt s f)
  match off with
  | 0x004 => put (fun g => { g with nodeId := w &&& 0x003FFFFF#32 })
  | 0x010 => put (fun g => { g with visel := w &&& 0xFF#32 })
  | 0x018 => put (fun g => { g with vididx := w &&& 0xF#32 })
  | 0x020 => put (fun g => { g with slotidx := w &&& 7#32 })
  | 0x024 => put (fun g => { g with slotShadow := aput g.slotShadow g.slotidx.toNat (w &&& 0x00FFFFFF#32) })
  | 0x030 => put (fun g => { g with gsidx := w &&& 0xF#32 })
  | 0x034 => put (fun g => { g with gsShadow := aput g.gsShadow g.gsidx.toNat w })
  | 0x038 => put (fun g => { g with gscount := w })
  | 0x03C => put (fun g => { g with t0lo := w })
  | 0x040 => put (fun g => { g with t0hi := w })
  | 0x060 => put (fun g => { g with ambsel := w &&& 0xFFFF#32 })
  | 0x070 => put (fun g => { g with cntsel := w &&& 0x803F01FF#32 })
  | 0x084 => put (fun g => { g with savelo := w })
  | 0x088 => put (fun g => { g with savehi := w })
  | 0x08C => put (fun g => { g with savesize := w })
  | 0x090 => put (fun g => { g with portsel := w &&& 0x3F#32 })
  | 0x094 => writePortCfg s w
  | 0x098 => some (modPort s (selPort s) (fun p => { p with lhBase := p.lhBase.extractLsb' 32 32 ++ w }))
  | 0x09C => some (modPort s (selPort s) (fun p => { p with lhBase := w ++ p.lhBase.extractLsb' 0 32 }))
  | 0x0A0 => put (fun g => { g with pwrlim := w })
  | 0x0A8 => put (fun g => { g with l2gsel := w &&& 7#32 })
  | 0x0B8 => put (fun g => { g with attidx := w &&& 0x7F#32 })
  | _ => if (mgmtRead s off).isSome then some s else none

/-- A VI register. A write of a read-only one has no effect, and is not refused (00 R13; log entry 81). -/
def viWrite (s : State) (vi off : Nat) (w : Word) : Option State :=
  match off with
  | 0x100 => some (modVi s vi (fun v => { v with hsel := w, hrefused := false }))
  | 0x104 => some s
  | 0x108 => some (modVi s vi (fun v => { v with hidx := w }))
  | 0x120 => some (modVi s vi (fun v => { v with tiva := v.tiva.extractLsb' 32 32 ++ w }))
  | 0x124 => some (modVi s vi (fun v => { v with tiva := w ++ v.tiva.extractLsb' 0 32 }))
  | 0x128 => if (viOf s vi).ticBusy then none else some s
  | _ => match peerNo off with
    | some k => if w.getLsbD 30 then none else some (modVi s vi (fun v => { v with peers := asetD v.peers 0 k w }))
    | none => none

/-- A write whose register has a row of its own in the opcode table. -/
def ownRow (m : HostMsg) : Bool :=
  if msgMgmt m then [0x00C, 0x014, 0x01C, 0x028, 0x044, 0x050, 0x054, 0x058, 0x0AC, 0x0B0, 0x0B4].contains (msgOff m)
  else [0x10C, 0x110, 0x114].contains (msgOff m) || (msgOff m = 0x128 && (msgData m = 1 || msgData m = 2))

/-- REG_RD, and REG_WR of every register with no behaviour of its own. -/
def execRegWr (m : HostMsg) (s : State) : Host.Outcome State Fault Refusal :=
  .next (
    if msgOp m = 7 then (if taken s m then regRead s m else dropMsg s)
    else if msgOp m ≠ 8 || ownRow m then s
    else if !taken s m then dropMsg s
    else regWrite s m (if msgMgmt m then mgmtWrite s (msgOff m) (msgData m)
      else viWrite s (msgVi m) (msgOff m) (msgData m)))

end Sys2Proof.Machine
end

