-- ==== Sys2Proof/Machine/Errors.lean ====
section
/-!
DEFINITION. Hardware errors: counting and retirement (18 R425, R429, R430; 11 R339), poison (16 R394; 20 R469), and the
gating of L2 slices (16 R393).
-/

namespace Sys2Proof.Machine

/-! ## Counting (18 R429, R430) -/

def execCorrectableError (r : Resource) (s : State) : Host.Outcome State Fault Refusal := .next (countFault s r 1)

/-- A line is poisoned: an Amber event names it and the agent that failed (16 R394; 18 Table 18-16). -/
def linePoisoned (s : State) (die line agent : Nat) : State :=
  amber (setPoison s line) 0x05 die (if 36 ≤ agent && agent ≤ 43 then 0x100 + agent else 0x1FF) (128 * line) agent 0 0

/-- The dies that hold the line dirty. -/
def dirtyIn (s : State) (line : Nat) : Bool := (List.range 8).any (fun d => isDirty (l2State s line d))

/-- An error strikes a line: in HBM the data is lost unless a die holds it dirty; in a slice of a die's L2 a dirty copy there
is (16 R394). -/
def strikeLine (s : State) (r : Resource) (line : Nat) : State :=
  if (r.cls = 0 && !dirtyIn s line) || (r.cls = 3 && isDirty (l2State s line (r.idx / 16))) then
    linePoisoned s (homeOf line) line 0xFF
  else s

def halfBit (h : Bool) : BitVec 2 := if h then 2 else 1

/-- What the error leaves poisoned. -/
def strike (s : State) (r : Resource) : ErrorSite → State
  | .line pa => strikeLine s r (lineOf pa)
  | .regHalf fk key h => modFrame s fk (fun f => { f with vpoison := aput f.vpoison key (agetD f.vpoison 0 key ||| halfBit h) })
  | .uniHalf ctx reg h =>
    modCtx s ctx (fun c => { c with r := { c.r with gpoison := aput c.r.gpoison reg (agetD c.r.gpoison 0 reg ||| halfBit h) } })
  | .accColumn tag row col => modCohort s tag (fun co => { co with accPoison := aput co.accPoison (row * 64 + col) true })
  | .other _ => s

/-- ARG1 of the event: the physical address, or a bank offset, whose layout is open. -/
def siteArg (s : State) : ErrorSite → Nat
  | .line pa => pa
  | .other w => w
  | _ => Config.choice s.tick 4200

def execUncorrectableError (r : Resource) (site : ErrorSite) (s : State) : Host.Outcome State Fault Refusal :=
  .next (strike (amber (countFault s r 4) 0x04 (resDie r) (resUnit r) (resArg r) (siteArg s site) 0 0) r site)

/-- The leak period of a resource ends; that of a Finien Link lane is its port's (20 R450). -/
def execFaultLeakPeriod (r : Resource) (s : State) : Host.Outcome State Fault Refusal :=
  .next (if r.cls = 10 then
    modPort s (r.idx / 4) (fun p => { p with laneFaults := asetD p.laneFaults 0 (r.idx % 4) (agetD p.laneFaults 0 (r.idx % 4) - 1) })
  else setFaultCount s r (faultCount s r - 1))

/-- The contents of the resource are on its spare. -/
def execSpareRetirementComplete (r : Resource) (s : State) : Host.Outcome State Fault Refusal :=
  .next (if s.retiring.contains r then
    let ix := (s.retired.filter (fun q => spareKey q = spareKey r)).length
    amber { s with retiring := s.retiring.filter (· ≠ r), retired := s.retired ++ [r] } 0x02 (resDie r) (resUnit r)
      (resArg r) ix 0 0
  else s)

/-! ## Lost lines (16 R394; 20 R469) -/

/-- A host's caches hold the line modified: a line that it took by a snoop, or a line of device memory that no die holds (log
entry 82). -/
def hostHolds (s : State) (line : Nat) : Bool :=
  s.hostOwn.contains line || (!sfHost line && (aget s.sf line).isNone)

/-- A die holds the line modified for one of its agents, by the number of Table 16-1. -/
def agentHolds (s : State) (agent line : Nat) : Bool :=
  (List.range 8).any (fun d => isDirty (l2State s line d) && agentHas s d agent line)

/-- A failing agent holds the only modified copy of the line: an agent of a die (0 to 43), a die (44 + its number), or a host
(log entry 82). -/
def failsWith (s : State) (agent line : Nat) : Bool :=
  if agent < 44 then agentHolds s agent line
  else if agent < 52 then isDirty (l2State s line (agent - 44))
  else hostHolds s line

/-- An agent fails while it holds the only modified copy of the line. -/
def execAgentFailure (agent line : Nat) (s : State) : Host.Outcome State Fault Refusal :=
  .next (if failsWith s agent line then
    let s := if agent < 52 then dropLine s line else { s with hostOwn := s.hostOwn.filter (· ≠ line) }
    linePoisoned s (homeOf line) line agent
  else s)

/-- A CXL request that its port does not complete: the line is as if poisoned. Who failed is not said. -/
def execCxlRequestTimeout (line : Nat) (s : State) : Host.Outcome State Fault Refusal :=
  .next (if inCxl (128 * line) then linePoisoned s (homeOf line) line (Config.choice s.tick 4201 % 256) else s)

/-! ## Gating of L2 slices (16 R393) -/

/-- The slice that a line belongs to. -/
def sliceOf (line : Nat) : Nat := line % 16

/-- The mask gates both slices of a pair. -/
def gatesPair (m : BitVec 16) : Bool := (List.range 8).any (fun i => m.getLsbD i && m.getLsbD (i + 8))

/-- A new mask for the selected die: its transition begins. -/
def gateSlices (s : State) (w : Word) : Option State :=
  let m := w.extractLsb' 0 16
  if gatesPair m then none
  else some (laterOnce { s with l2gPend := aput s.l2gPend (selL2 s) m } (.l2GatingTransitionComplete (selL2 s)))

def execL2gmaskWrite (m : HostMsg) (s : State) : Host.Outcome State Fault Refusal :=
  .next (onWrite true [0x0AC] m (fun s => regWrite s m (gateSlices s (msgData m))) s)

/-- Slices of a die that a new mask gates or ungates. -/
def changedSlices (s : State) (die : Nat) (new : BitVec 16) : BitVec 16 := agetD s.l2gmask 0 die ^^^ new

/-- Lines of the die that have to leave: those of slices that the new mask gates or ungates. -/
def gatedLines (s : State) (die : Nat) (new : BitVec 16) : List Nat :=
  ((s.l2.map (·.1)).filter (fun k => k % 8 = die && (changedSlices s die new).getLsbD (sliceOf (k / 8)))).map (· / 8)

/-- A request of the die for a line of these slices is at its home: the line is still to come. -/
def gateAsked (s : State) (die : Nat) (new : BitVec 16) : Bool :=
  s.txns.any (fun p => (changedSlices s die new).getLsbD (sliceOf p.1) && isAsked p.2 die false)

/-- The slices are clean: the new mask is in effect. Lines that are held go first. -/
def execL2GatingTransitionComplete (die : Nat) (s : State) : Host.Outcome State Fault Refusal :=
  match aget s.l2gPend die with
  | none => .next s
  | some m =>
    let lines := gatedLines s die m
    let busy := lines.filter (evictBlocked s die)
    let s' := (lines.filter (fun l => !evictBlocked s die l)).foldl (fun s l => evictDie s die l) s
    .next (if !busy.isEmpty || gateAsked s die m then later (recallAll s' busy) (.l2GatingTransitionComplete die)
    else { s' with l2gmask := asetD s'.l2gmask 0 die m, l2gPend := aerase s'.l2gPend die })

end Sys2Proof.Machine
end

