-- ==== Sys2Proof/Machine/Floating.lean ====
section
/-!
DEFINITION. Floating-point instructions, MAJ 0x02 (08 R217 to R221), and special functions, MAJ 0x04 (R227 to R230).
-/

namespace Sys2Proof.Machine

/-! ## Values and results -/

/-- Container j of an operand after its modifiers (06 R139). -/
def fvalA (e : Env) (f : FmtA) (l j : Nat) : Num :=
  modify f.absA f.negA (ieeeVal f.ty.toNat (elem f.ty.toNat (opWord e f.ty.toNat f.imm f.a l) j))
def fvalB (e : Env) (f : FmtA) (l j : Nat) : Num :=
  modify f.absB f.negB (ieeeVal f.ty.toNat (elem f.ty.toNat (opWord e f.ty.toNat f.imm f.b l) j))
def fvalC (e : Env) (f : FmtA) (l j : Nat) : Num :=
  ieeeVal f.ty.toNat (elem f.ty.toNat (opWord e f.ty.toNat f.imm f.c l) j)

/-- A result clamped to [+0, 1.0] (08 R221). -/
def sat01 (f bits : Nat) : Nat :=
  match ieeeVal f bits with
  | .nan => 0
  | x => if numNegSign x then 0 else if bits > oneBits f then oneBits f else bits

/-- One rounding, the overflow table and SAT (08 R217). -/
def floatBits (e : Env) (f : FmtA) (x : Num) : Nat :=
  let y := roundTo f.ty.toNat (modeOf e) e.c.r.ovt x
  if satOf e f.sat then sat01 f.ty.toNat y else y

/-- A rounded result in each container. -/
def floatResult (e : Env) (f : FmtA) (x : Nat → Num) : Word := mapElems f.ty.toNat (fun j => floatBits e f (x j))

/-- Rounding down: the mode in which an exact zero sum is −0. -/
def isRdn (e : Env) : Bool := modeOf e = 3

def reqF1 (f : FmtA) (sat rnd : Bool) : Req := { reqA f.u f.d [(f.a, 3)] with xsat := sat, rnd := rnd }
def reqF2 (f : FmtA) (sat rnd : Bool) : Req := { reqA f.u f.d [(f.a, 3), (f.b, 3)] with xsat := sat, rnd := rnd }

def execFadd (f : FmtA) (s : State) : Host.Outcome State Fault Refusal :=
  issue (.fadd f) (reqF2 f true true) (fun e s => writeD s e f.d (fun l =>
    floatResult e f (fun j => numAdd (isRdn e) (fvalA e f l j) (fvalB e f l j)))) s

def execFsub (f : FmtA) (s : State) : Host.Outcome State Fault Refusal :=
  issue (.fsub f) (reqF2 f true true) (fun e s => writeD s e f.d (fun l =>
    floatResult e f (fun j => numAdd (isRdn e) (fvalA e f l j) (numNeg (fvalB e f l j))))) s

def execFmul (f : FmtA) (s : State) : Host.Outcome State Fault Refusal :=
  issue (.fmul f) (reqF2 f true true) (fun e s => writeD s e f.d (fun l =>
    floatResult e f (fun j => numMul (fvalA e f l j) (fvalB e f l j)))) s

def execFma (f : FmtA) (s : State) : Host.Outcome State Fault Refusal :=
  issue (.fma f) { reqA f.u f.d [(f.a, 3), (f.b, 3), (f.c, 3)] with xsat := true, rnd := true } (fun e s =>
    writeD s e f.d (fun l =>
      floatResult e f (fun j =>
        numAdd (isRdn e) (numMul (fvalA e f l j) (fvalB e f l j)) (fvalC e f l j)))) s

/-- An operand returned exactly, in each container (08 R218). -/
def exactResult (f : FmtA) (x : Nat → Num) : Word := mapElems f.ty.toNat (fun j => roundTo f.ty.toNat 0 0 (x j))

def execFmin (f : FmtA) (s : State) : Host.Outcome State Fault Refusal :=
  issue (.fmin f) (reqF2 f false false) (fun e s => writeD s e f.d (fun l =>
    exactResult f (fun j => numMinMax false (fvalA e f l j) (fvalB e f l j)))) s

def execFmax (f : FmtA) (s : State) : Host.Outcome State Fault Refusal :=
  issue (.fmax f) (reqF2 f false false) (fun e s => writeD s e f.d (fun l =>
    exactResult f (fun j => numMinMax true (fvalA e f l j) (fvalB e f l j)))) s

/-- The encoding with the sign bit cleared; a NaN gives the canonical NaN. -/
def absBits (f bits : Nat) : Nat := if bits % signBit f > infBits f then nanBits f else bits % signBit f
/-- The encoding with the sign bit inverted; a NaN gives the canonical NaN. -/
def negBits (f bits : Nat) : Nat :=
  if bits % signBit f > infBits f then nanBits f else (bits + signBit f) % (2 * signBit f)

/-- Bits of container j of A. -/
def fbitsA (e : Env) (f : FmtA) (l j : Nat) : Nat := elem f.ty.toNat (opWord e f.ty.toNat f.imm f.a l) j

def execFabs (f : FmtA) (s : State) : Host.Outcome State Fault Refusal :=
  issue (.fabs f) (reqF1 f false false) (fun e s => writeD s e f.d (fun l =>
    mapElems f.ty.toNat (fun j => absBits f.ty.toNat (fbitsA e f l j)))) s

def execFneg (f : FmtA) (s : State) : Host.Outcome State Fault Refusal :=
  issue (.fneg f) (reqF1 f false false) (fun e s => writeD s e f.d (fun l =>
    mapElems f.ty.toNat (fun j => negBits f.ty.toNat (fbitsA e f l j)))) s

/-! ## Comparisons and classes (08 R219, R220) -/

def execFcmp (f : FmtA) (s : State) : Host.Outcome State Fault Refusal :=
  issue (.fcmp f) (reqMask [(f.a, half0 f.ty.toNat), (f.b, half0 f.ty.toNat)]) (fun e s =>
    writeMask s e f.d (fun l =>
      floatCond f.c.toNat (fvalA e f l 0) (fvalB e f l 0) && (op4Mask e).getLsbD l)) s

def execFcls (f : FmtA) (s : State) : Host.Outcome State Fault Refusal :=
  issue (.fcls f) (reqMask [(f.a, half0 f.ty.toNat), (f.b, 1)]) (fun e s =>
    writeMask s e f.d (fun l =>
      (opWord e 9 f.imm f.b l).getLsbD (classBit f.ty.toNat (fbitsA e f l 0)) && (op4Mask e).getLsbD l)) s

/-- A rounded to an integral value; the sign of zero stays (08 R217). -/
def frndNum (mode : Nat) : Num → Num
  | .fin n m e => .fin n (roundInt mode n m e).natAbs 0
  | x => x

def execFrnd (f : FmtA) (s : State) : Host.Outcome State Fault Refusal :=
  issue (.frnd f) (reqF1 f false true) (fun e s => writeD s e f.d (fun l =>
    exactResult f (fun j => frndNum (modeOf e) (fvalA e f l j)))) s

/-! ## Special functions (08 R227) -/

/-- Function `fn` of each container, with SAT. -/
def specialResult (fn : Nat) (e : Env) (f : FmtA) (l : Nat) : Word :=
  mapElems f.ty.toNat (fun j =>
    let y := specialFn fn f.ty.toNat (modeOf e) e.c.r.ovt (fvalA e f l j)
    if satOf e f.sat then sat01 f.ty.toNat y else y)

def execRcp (f : FmtA) (s : State) : Host.Outcome State Fault Refusal :=
  issue (.rcp f) (reqF1 f true true) (fun e s => writeD s e f.d (specialResult 0 e f)) s
def execRsq (f : FmtA) (s : State) : Host.Outcome State Fault Refusal :=
  issue (.rsq f) (reqF1 f true true) (fun e s => writeD s e f.d (specialResult 1 e f)) s
def execSqrt (f : FmtA) (s : State) : Host.Outcome State Fault Refusal :=
  issue (.sqrt f) (reqF1 f true true) (fun e s => writeD s e f.d (specialResult 2 e f)) s
def execExp2 (f : FmtA) (s : State) : Host.Outcome State Fault Refusal :=
  issue (.exp2 f) (reqF1 f true true) (fun e s => writeD s e f.d (specialResult 3 e f)) s
def execLog2 (f : FmtA) (s : State) : Host.Outcome State Fault Refusal :=
  issue (.log2 f) (reqF1 f true true) (fun e s => writeD s e f.d (specialResult 4 e f)) s
def execSin (f : FmtA) (s : State) : Host.Outcome State Fault Refusal :=
  issue (.sin f) (reqF1 f true true) (fun e s => writeD s e f.d (specialResult 5 e f)) s
def execCos (f : FmtA) (s : State) : Host.Outcome State Fault Refusal :=
  issue (.cos f) (reqF1 f true true) (fun e s => writeD s e f.d (specialResult 6 e f)) s
def execTanh (f : FmtA) (s : State) : Host.Outcome State Fault Refusal :=
  issue (.tanh f) (reqF1 f true true) (fun e s => writeD s e f.d (specialResult 7 e f)) s

end Sys2Proof.Machine
end

