-- ==== Sys2Proof/Machine/Gangs.lean ====
section
/-!
DEFINITION. Gangs and time slices (04 R100 to R106): pre-emption, save and restore of cohorts (18 R423, R424; 05 R120),
and the PTP clock (04 R101).
-/

namespace Sys2Proof.Machine

/-! ## Slice instants (04 R100, R102, R106) -/

/-- The schedule whose instant comes next: of the pending ones the one with the earliest, the last written among equals,
before the one in force (04 R100). -/
def nextSched (s : State) : Schedule :=
  s.pendScheds.foldl (fun b c => if (instantAfter c s.ptp).1 ≤ (instantAfter b s.ptp).1 then c else b) s.sched

/-- The next slice instant: its time, the gang that starts, the schedule in force from it, and those that are still to take
effect, each at the first instant of its own (04 R100; log entry 56). -/
def nextSlice (s : State) : Nat × Nat × Schedule × List Schedule :=
  let c := nextSched s
  let at_ := instantAfter c s.ptp
  (at_.1, (c.entries.getD at_.2 (0, 0)).1, c, s.pendScheds.filter (fun d => at_.1 < (instantAfter d s.ptp).1))

/-- VIs that run: those of the running gang, until a switch under way is over those that ran before it. -/
def ranBefore (s : State) : List Nat :=
  if s.switching.isSome then s.leaving else (s.vis.filter (fun p => p.2.gang = s.runGang)).map (·.1)

/-- GANG writes take effect (04 R106). -/
def applyGangs (s : State) : State :=
  { s with vis := s.vis.map (fun p => (p.1, match p.2.gangNew with
      | some g => { p.2 with gang := g, gangNew := none }
      | none => p.2)) }

/-- The gang of a cohort's VI. -/
def cohortGang (s : State) (co : Cohort) : Nat := match aget s.launches co.launch with | some la => viGang s la.vi | none => 0

/-- Resident cohorts that do not belong to a gang. -/
def outgoing (s : State) (gang : Nat) : List Nat :=
  (s.cohorts.filter (fun p => !p.2.saved && cohortGang s p.2 ≠ gang)).map (·.1)
/-- Saved cohorts of a gang. -/
def savedOf (s : State) (gang : Nat) : Bool := s.cohorts.any (fun p => p.2.saved && cohortGang s p.2 = gang)

/-- Pre-empt a cohort: its uncommitted regions are discarded, and it is to be saved (07 R203; 18 R423). -/
def preempt (s : State) (tag : Nat) : State :=
  let s := (cohortCtxs s tag).foldl (fun s p => rollback s p.1 false) s
  laterOnce (modCohort s tag (fun co => { co with saving := true })) (.cohortSave tag)

/-- A slice instant: GANG writes act, and the gangs are switched where they differ. -/
def execGangSliceInstant (s : State) : Host.Outcome State Fault Refusal :=
  let n := nextSlice s
  let left := ranBefore s
  let s := applyGangs { s with ptp := n.1, sched := n.2.2.1, pendScheds := n.2.2.2 }
  let gang := n.2.1
  let out := outgoing s gang
  .next (if gang = s.runGang && s.switching.isNone && out.isEmpty && !savedOf s gang then goOnPlacing s
    else laterOnce (out.foldl preempt { s with switching := some gang, leaving := left }) .gangSwitchRestore)

/-! ## Saving a cohort (04 R102; 18 R423, R424) -/

/-- A committed store that can be handed to the L2 (16 R402): one that goes to memory. -/
def canHand : Item → Bool
  | .store (.mem ..) => true
  | .store (.coord _) => true
  | _ => false

/-- A committed multicast that waits for its release will deliver to the cohort (04 R102; 05 R123). -/
def willReach (tag : Nat) : Item → Bool
  | .held (.job j) => j.dests.any (fun d => d.2.2 = tag % 2 ^ 32)
  | _ => false

/-- Something of the cohort still acts, or a delivery is still to reach it. Committed stores to memory and `redst` adds do
not delay the save (16 R402; log entry 34). -/
def saveWaits (s : State) (tag : Nat) : Bool :=
  s.ctxs.any (fun p => p.2.drain.any (willReach tag)) || (cohortCtxs s tag).any (fun p => !p.2.drain.all canHand || p.2.fault.isSome
    || s.tlbInvs.any (fun t => t.2.ctx = some p.1))
  || s.jobs.any (fun p => p.2.tag = tag || p.2.dests.any (fun d => d.2.2 = tag % 2 ^ 32))
  || s.fabs.any (fun p => !p.2.failed && p.2.tag = tag)
  || s.accQ.any (fun p => p.2.any (fun a => a.tag = tag))

/-- Give an object another key. -/
def rekey {α : Type} (m : Amap α) (f : Nat → Nat) (which : Nat → Bool) : Amap α :=
  m.foldl (fun acc p => aput acc (if which p.1 then f p.1 else p.1) p.2) []

/-- What a saved context keeps (18 Table 18-10): its committed stores go to the L2 of the die that it leaves (16 R402). -/
def savedCtx (key : Nat) (c : Ctx) : Ctx :=
  { c with ibuf := none, handed := if c.drain.isEmpty then none else some (storeCore key c) }

/-- An event of a context under the context's new key. -/
def rekeyEvent (old new : Nat) (i : Instr) : Instr :=
  match i with
  | .regionCommit k => .regionCommit (if k = old then new else k)
  | .contextHalt k => .contextHalt (if k = old then new else k)
  | .rollbackWindowExpiry k => .rollbackWindowExpiry (if k = old then new else k)
  | .lineHoldExpiry k => .lineHoldExpiry (if k = old then new else k)
  | .coordinateAccessAtHome k => .coordinateAccessAtHome (if k = old then new else k)
  | .staleRejection k => .staleRejection (if k = old then new else k)
  | i => i

/-- A context gets a new key: its operations and its events go with it. -/
def moveCtx (s : State) (old new : Nat) (f : Ctx → Ctx) : State :=
  match aget s.ctxs old with
  | none => s
  | some c =>
    let s := passOn s old [new]
    { s with ctxs := aput (aerase s.ctxs old) new (f c), agenda := s.agenda.map (rekeyEvent old new) }

/-- A cohort leaves its core. -/
def saveCohort (s : State) (tag : Nat) : State :=
  let keys := (cohortCtxs s tag).map (·.1)
  let fks := (s.frames.filter (fun p => p.2.tag = tag)).map (·.1)
  let s := keys.foldl (fun s k => moveCtx s k (savedKey tag k) (savedCtx k)) s
  let s := { s with
    frames := rekey s.frames (savedKey tag) fks.contains
    groups := s.groups.map (fun p => (p.1,
      if fks.contains p.2.frame then { p.2 with frame := savedKey tag p.2.frame, slots := 0 } else p.2))
    accQ := s.accQ.filter (fun p => !fks.contains p.1) }
  modCohort s tag (fun co => { co with saved := true, saving := false })

def execCohortSave (tag : Nat) (s : State) : Host.Outcome State Fault Refusal :=
  .next (match aget s.cohorts tag with
  | none => s
  | some co =>
    if !co.saving then s else if saveWaits s tag then later s (.cohortSave tag) else saveCohort s tag)

/-! ## Restoring cohorts (05 R120, R122; 18 R423, R424) -/

/-- The new key of a saved frame: frame number to place. -/
def placeOfFrame (s : State) (room : CoreRoom) (fk : Nat) : Nat × Nat :=
  match aget s.frames fk with
  | some f => room.frames.getD f.no (0, 0)
  | none => (0, 0)

/-- The trap of a halted context. -/
def haltOf (c : Ctx) : Option TrapInfo :=
  match c.status with
  | .halted t => some t
  | .resuming t => some t
  | _ => none

/-- TRAP_NOTICE again for a halted context, with the slot of its record, or NOREC where the record was lost; one whose record
waits to be written has no notice yet (18 R416, R423). -/
def noticeAgain (s : State) (key : Nat) : State :=
  match aget s.ctxs key with
  | none => s
  | some c =>
    match haltOf c with
    | none => s
    | some t =>
      let vi := viOfCtx s key
      let notice (slot : Nat) (norec : Bool) : State :=
        send s (descOwner (viOf s vi).desc) (trapNotice vi slot norec t.cause (ctxidOf key c))
      match c.recSlot with
      | some slot => notice slot false
      | none => if recordDue s key c then s else notice 0 true

/-- Give a restored context its new key, and its operations, its events and its record that waits with it; it opens a region
with the overflow table of its VI (03 R79). -/
def restoreCtx (s : State) (old new : Nat) : State :=
  match aget s.ctxs old with
  | none => s
  | some c =>
    let renamed (r : Nat × PendingRec) : Nat × PendingRec :=
      (r.1, if r.2.ctxid = ctxidOf old c then { r.2 with ctxid := ctxidOf new c } else r.2)
    let ovt := (viOf s (viOfCtx s new)).ovt
    noticeAgain { moveCtx s old new (fun c => { c with r := { c.r with ovt := ovt } }) with recs := s.recs.map renamed } new

/-- Put a saved cohort into its place on a core. -/
def restoreCohort (s : State) (tag core : Nat) (room : CoreRoom) : State :=
  let fks := (s.frames.filter (fun p => p.2.tag = tag)).map (·.1)
  let newKey (fk : Nat) : Nat := core + 512 * (placeOfFrame s room fk).1
  let moves := (cohortCtxs s tag).map (fun p => (p.1, newKey (frameKeyOf p.1) + p.1 % 2 ^ 20 / 65536 * 65536))
  let moved (p : Nat × Frame) : Nat × Frame :=
    let a := placeOfFrame s room p.1
    (newKey p.1, { p.2 with core := core, phys := a.1, regBase := a.2 })
  let frames := (s.frames.filter (fun p => p.2.tag = tag)).map moved
  let rest := s.frames.filter (fun p => p.2.tag ≠ tag)
  let groups := s.groups.map (fun p => (p.1,
    if fks.contains p.2.frame then { p.2 with core := core, frame := newKey p.2.frame } else p.2))
  let s := modCohort s tag (fun co =>
    { co with core := core, slot := room.slot, spBase := room.spBase, accBase := room.accBase, saved := false })
  let s := { s with frames := frames.foldl (fun m p => aput m p.1 p.2) rest, groups := groups }
  moves.foldl (fun s m => restoreCtx s m.1 m.2) s

/-- Restore one cohort of a launch with CLUSTER = 0; it stays saved when there is no room. -/
def restoreOne (s : State) (tag : Nat) (p : BitVec 2048) : State :=
  match coreFor s p with
  | none => s
  | some (core, room) => { restoreCohort s tag core room with diePtr := (core / 36 + 1) % 8 }

/-- Restore the members of a cluster together, and rewrite their sibling tables. Room is asked for the members that
remain, where one has ended: the model's choice (log entry 78). -/
def restoreCluster (s : State) (key : Nat) (p : BitVec 2048) : State :=
  let members := (s.cohorts.filter (fun c => c.2.cluster = some key)).map (fun c => (c.2.x % 4, c.1))
  match clusterFor s p (members.map (·.1)) with
  | none => s
  | some (first, rooms) =>
    let s := rooms.foldl (fun s r =>
      match members.find? (fun m => m.1 = r.1) with
      | some m => restoreCohort s m.2 (first + r.1) r.2
      | none => s) s
    let s := members.foldl (fun s m => modCohort s m.2 (fun co =>
      { co with sibs := (List.range co.sibs.length).map (fun i => (first + i, (co.sibs.getD i (0, 0)).2)) })) s
    { s with diePtr := (first / 36 + 1) % 8 }

/-- Restore a cohort that is still saved, with its cluster. -/
def restoreNext (s : State) (tag : Nat) : State :=
  match aget s.cohorts tag with
  | none => s
  | some co =>
    if !co.saved then s
    else match co.cluster with
      | none => restoreOne s tag (packetOf s co)
      | some k => restoreCluster s k (packetOf s co)

/-- Restore the running gang's cohorts, those of the lowest tag first; one for which there is no room is passed by later ones
(log entry 78). -/
def restoreAll (s : State) : State := ((toRestore s).map (·.1)).foldl restoreNext s

/-- A leg of another gang is being served here. -/
def servesLeg (s : State) (gang : Nat) (i : Instr) : Bool :=
  match i with
  | .junctionPullServe p => !p.got.isEmpty && portCarries s p.port && viGang s p.dstVi ≠ gang
  | _ => false

/-- Transfers of VIs of other gangs have legs in flight, here or served from here (04 R102). -/
def legsLeft (s : State) (gang : Nat) : Bool :=
  s.xfers.any (fun p => viGang s p.2.vi ≠ gang && !p.2.flying.isEmpty) || s.agenda.any (servesLeg s gang)

/-- The gang runs: its transfers and its paused launch go on. -/
def reopen (s : State) : State := goOnPlacing (resumePulls s)

/-- The incoming gang's cohorts are restored once every save is complete; one for which there is no room waits until a
cohort ends. -/
def execGangSwitchRestore (s : State) : Host.Outcome State Fault Refusal :=
  .next (match s.switching with
  | some g =>
    if s.cohorts.any (fun p => p.2.saving) || legsLeft s g then later s .gangSwitchRestore
    else reopen (restoreAll { s with runGang := g, switching := none, leaving := [] })
  | none => if (toRestore s).isEmpty then s else reopen (restoreAll s))

/-- The drains and saves are not complete 20 µs after the instant (04 R103). -/
def execGangSwitchOverrun (ns : Nat) (s : State) : Host.Outcome State Fault Refusal :=
  .next (match s.switching with
  | some g => amber s 0x0A 0 0x1FF g ns 0 0
  | none => s)

/-! ## PTP (04 R101) -/

/-- PTP accuracy is lost: slicing goes on with the local oscillator. -/
def execPtpSyncLoss (offset : Nat) (s : State) : Host.Outcome State Fault Refusal :=
  .next (if s.syncLoss then s else amber { s with syncLoss := true } 0x09 0 0x1FF offset 0 0 0)

/-- A good synchronisation: the instants follow PTP time again. -/
def execPtpSyncRestored (s : State) : Host.Outcome State Fault Refusal := .next { s with syncLoss := false }

end Sys2Proof.Machine
end

