-- ==== Sys2Proof/Machine/Integer.lean ====
section
/-!
DEFINITION. Integer instructions: MAJ 0x00 and 0x01 (06 R149, 08 R212 to R216).
-/

namespace Sys2Proof.Machine

/-- `nop` has no effect (06 R149). -/
def execNop (f : FmtA) (s : State) : Host.Outcome State Fault Refusal :=
  issue (.nop f) { gov := true } (fun e s => finish s e id) s

/-! ## Elementwise integer results (08 Table 8-4) -/

/-- Container j of operands A, B, C as integers. -/
def ivalA (e : Env) (f : FmtA) (l j : Nat) : Int :=
  intVal f.ty.toNat (elem f.ty.toNat (opWord e f.ty.toNat f.imm f.a l) j)
def ivalB (e : Env) (f : FmtA) (l j : Nat) : Int :=
  intVal f.ty.toNat (elem f.ty.toNat (opWord e f.ty.toNat f.imm f.b l) j)
def ivalC (e : Env) (f : FmtA) (l j : Nat) : Int :=
  intVal f.ty.toNat (elem f.ty.toNat (opWord e f.ty.toNat f.imm f.c l) j)
/-- Container j of operands A, B as bits. -/
def ibitsA (e : Env) (f : FmtA) (l j : Nat) : Nat := elem f.ty.toNat (opWord e f.ty.toNat f.imm f.a l) j
def ibitsB (e : Env) (f : FmtA) (l j : Nat) : Nat := elem f.ty.toNat (opWord e f.ty.toNat f.imm f.b l) j

/-- An exact integer in each container, clamped under SAT or wrapped (08 R212). -/
def intResult (e : Env) (f : FmtA) (x : Nat → Int) : Word :=
  let ty := f.ty.toNat
  mapElems ty (fun j => wrapBits ty (if satOf e f.sat then clampi ty (x j) else x j))
/-- Bits in each container. -/
def bitResult (f : FmtA) (x : Nat → Nat) : Word := mapElems f.ty.toNat x

def reqInt1 (f : FmtA) (sat : Bool) : Req := { reqA f.u f.d [(f.a, 3)] with xsat := sat }
def reqInt2 (f : FmtA) (sat : Bool) : Req := { reqA f.u f.d [(f.a, 3), (f.b, 3)] with xsat := sat }
def reqInt3 (f : FmtA) (sat : Bool) : Req := { reqA f.u f.d [(f.a, 3), (f.b, 3), (f.c, 3)] with xsat := sat }

def execAdd (f : FmtA) (s : State) : Host.Outcome State Fault Refusal :=
  issue (.add f) (reqInt2 f true) (fun e s => writeD s e f.d (fun l =>
    intResult e f (fun j => ivalA e f l j + ivalB e f l j))) s

def execSub (f : FmtA) (s : State) : Host.Outcome State Fault Refusal :=
  issue (.sub f) (reqInt2 f true) (fun e s => writeD s e f.d (fun l =>
    intResult e f (fun j => ivalA e f l j - ivalB e f l j))) s

def execMul (f : FmtA) (s : State) : Host.Outcome State Fault Refusal :=
  issue (.mul f) (reqInt2 f true) (fun e s => writeD s e f.d (fun l =>
    intResult e f (fun j => ivalA e f l j * ivalB e f l j))) s

/-- The high half of the exact product. -/
def execMulhi (f : FmtA) (s : State) : Host.Outcome State Fault Refusal :=
  issue (.mulhi f) (reqInt2 f false) (fun e s => writeD s e f.d (fun l =>
    intResult e f (fun j => (ivalA e f l j * ivalB e f l j) / (2 ^ elemBits f.ty.toNat : Nat)))) s

def execMad (f : FmtA) (s : State) : Host.Outcome State Fault Refusal :=
  issue (.mad f) (reqInt3 f true) (fun e s => writeD s e f.d (fun l =>
    intResult e f (fun j => ivalA e f l j * ivalB e f l j + ivalC e f l j))) s

/-- The effect of `addc` and `subb`: D and mask C from one step per lane (08 R213). -/
def carryDo (step : Word → Word → Bool → Word × Bool) (f : FmtA) (e : Env) (s : State) : State :=
  let k := kOf f.c
  let old := maskOf e.c.r k
  let res (l : Nat) : Word × Bool := step (opWord e 9 f.imm f.a l) (opWord e 9 f.imm f.b l) (old.getLsbD l)
  modRegs (writeD s e f.d (fun l => (res l).1)) e.key (fun r => putMask r k (mergeMask e old (fun l => (res l).2)))

def execAddc (f : FmtA) (s : State) : Host.Outcome State Fault Refusal :=
  issue (.addc f) (reqA false f.d [(f.a, 3), (f.b, 3)]) (carryDo addCarry f) s

def execSubb (f : FmtA) (s : State) : Host.Outcome State Fault Refusal :=
  issue (.subb f) (reqA false f.d [(f.a, 3), (f.b, 3)]) (carryDo subBorrow f) s

def execMin (f : FmtA) (s : State) : Host.Outcome State Fault Refusal :=
  issue (.min f) (reqInt2 f false) (fun e s => writeD s e f.d (fun l =>
    intResult e f (fun j => min (ivalA e f l j) (ivalB e f l j)))) s

def execMax (f : FmtA) (s : State) : Host.Outcome State Fault Refusal :=
  issue (.max f) (reqInt2 f false) (fun e s => writeD s e f.d (fun l =>
    intResult e f (fun j => max (ivalA e f l j) (ivalB e f l j)))) s

def execAbs (f : FmtA) (s : State) : Host.Outcome State Fault Refusal :=
  issue (.abs f) (reqInt1 f true) (fun e s => writeD s e f.d (fun l =>
    intResult e f (fun j => ((ivalA e f l j).natAbs : Int)))) s

def execNeg (f : FmtA) (s : State) : Host.Outcome State Fault Refusal :=
  issue (.neg f) (reqInt1 f true) (fun e s => writeD s e f.d (fun l =>
    intResult e f (fun j => -ivalA e f l j))) s

def execAnd (f : FmtA) (s : State) : Host.Outcome State Fault Refusal :=
  issue (.and f) (reqInt2 f false) (fun e s => writeD s e f.d (fun l =>
    bitResult f (fun j => ibitsA e f l j &&& ibitsB e f l j))) s

def execOr (f : FmtA) (s : State) : Host.Outcome State Fault Refusal :=
  issue (.or f) (reqInt2 f false) (fun e s => writeD s e f.d (fun l =>
    bitResult f (fun j => ibitsA e f l j ||| ibitsB e f l j))) s

def execXor (f : FmtA) (s : State) : Host.Outcome State Fault Refusal :=
  issue (.xor f) (reqInt2 f false) (fun e s => writeD s e f.d (fun l =>
    bitResult f (fun j => ibitsA e f l j ^^^ ibitsB e f l j))) s

def execNot (f : FmtA) (s : State) : Host.Outcome State Fault Refusal :=
  issue (.not f) (reqInt1 f false) (fun e s => writeD s e f.d (fun l =>
    bitResult f (fun j => 2 ^ elemBits f.ty.toNat - 1 - ibitsA e f l j))) s

/-- Shift amounts are taken modulo the element width. -/
def shiftBy (e : Env) (f : FmtA) (l j : Nat) : Nat := ibitsB e f l j % elemBits f.ty.toNat

def execShl (f : FmtA) (s : State) : Host.Outcome State Fault Refusal :=
  issue (.shl f) (reqInt2 f false) (fun e s => writeD s e f.d (fun l =>
    bitResult f (fun j => ibitsA e f l j * 2 ^ shiftBy e f l j))) s

def execShr (f : FmtA) (s : State) : Host.Outcome State Fault Refusal :=
  issue (.shr f) (reqInt2 f false) (fun e s => writeD s e f.d (fun l =>
    bitResult f (fun j => ibitsA e f l j / 2 ^ shiftBy e f l j))) s

/-- x of n bits shifted right by k with copies of bit n − 1. -/
def sarBits (n x k : Nat) : Nat :=
  if x < 2 ^ (n - 1) then x / 2 ^ k else x / 2 ^ k + (2 ^ n - 2 ^ (n - k))

def execSar (f : FmtA) (s : State) : Host.Outcome State Fault Refusal :=
  issue (.sar f) (reqInt2 f false) (fun e s => writeD s e f.d (fun l =>
    bitResult f (fun j => sarBits (elemBits f.ty.toNat) (ibitsA e f l j) (shiftBy e f l j)))) s

/-- x of n bits rotated left by k. -/
def rotBits (n x k : Nat) : Nat := (x * 2 ^ k) % 2 ^ n + x / 2 ^ (n - k)

def execRotl (f : FmtA) (s : State) : Host.Outcome State Fault Refusal :=
  issue (.rotl f) (reqInt2 f false) (fun e s => writeD s e f.d (fun l =>
    bitResult f (fun j => rotBits (elemBits f.ty.toNat) (ibitsA e f l j) (shiftBy e f l j)))) s

def execClz (f : FmtA) (s : State) : Host.Outcome State Fault Refusal :=
  issue (.clz f) (reqInt1 f false) (fun e s => writeD s e f.d (fun l =>
    bitResult f (fun j =>
      let x := ibitsA e f l j
      if x = 0 then elemBits f.ty.toNat else elemBits f.ty.toNat - 1 - Nat.log2 x))) s

/-- Number of one bits below bit n. -/
def popCount (n x : Nat) : Nat := ((List.range n).filter (fun i => x.testBit i)).length

def execPopc (f : FmtA) (s : State) : Host.Outcome State Fault Refusal :=
  issue (.popc f) (reqInt1 f false) (fun e s => writeD s e f.d (fun l =>
    bitResult f (fun j => popCount (elemBits f.ty.toNat) (ibitsA e f l j)))) s

/-- Bits of x below bit n in reverse order. -/
def reverseBits (n x : Nat) : Nat :=
  (List.range n).foldl (fun acc i => acc + (if x.testBit i then 2 ^ (n - 1 - i) else 0)) 0

def execBrev (f : FmtA) (s : State) : Host.Outcome State Fault Refusal :=
  issue (.brev f) (reqInt1 f false) (fun e s => writeD s e f.d (fun l =>
    bitResult f (fun j => reverseBits (elemBits f.ty.toNat) (ibitsA e f l j)))) s

/-! ## Bit fields and selection (08 R214, R215) -/

/-- Offset and width w' of a control operand. -/
def fieldOf (ctl : Word) : Nat × Nat :=
  let o := ctl.toNat % 32
  (o, min (ctl.toNat / 256 % 64) (32 - o))

def bfxWord (signed : Bool) (a ctl : Word) : Word :=
  let (o, w) := fieldOf ctl
  let x := a.toNat / 2 ^ o % 2 ^ w
  if signed && 0 < w && 2 ^ (w - 1) ≤ x then BitVec.ofNat 32 (x + (2 ^ 32 - 2 ^ w)) else BitVec.ofNat 32 x

def bfiWord (a b ctl : Word) : Word :=
  let (o, w) := fieldOf ctl
  let mask : Word := BitVec.ofNat 32 ((2 ^ w - 1) * 2 ^ o)
  (a &&& ~~~mask) ||| (BitVec.ofNat 32 (b.toNat % 2 ^ w * 2 ^ o))

def execBfx (f : FmtA) (s : State) : Host.Outcome State Fault Refusal :=
  issue (.bfx f) (reqA f.u f.d [(f.a, 3), (f.b, 1)]) (fun e s => writeD s e f.d (fun l =>
    bfxWord (f.ty = 9) (opWord e 9 f.imm f.a l) (opWord e 9 f.imm f.b l))) s

def execBfi (f : FmtA) (s : State) : Host.Outcome State Fault Refusal :=
  issue (.bfi f) (reqA f.u f.d [(f.a, 3), (f.b, 3), (f.c, 1)]) (fun e s => writeD s e f.d (fun l =>
    bfiWord (opWord e 9 f.imm f.a l) (opWord e 9 f.imm f.b l) (opWord e 9 f.imm f.c l))) s

/-- `sel` consumes in a lane only the operand that it selects there (log entry 76). -/
def execSel (f : FmtA) (s : State) : Host.Outcome State Fault Refusal :=
  issue (.sel f)
    { reqA false f.d [(f.a, 3), (f.b, 3)] with
      reads := fun e l => [if (maskOf e.c.r (kOf f.c)).getLsbD l then (f.a, 3, l) else (f.b, 3, l)] }
    (fun e s => writeD s e f.d (fun l =>
      if (maskOf e.c.r (kOf f.c)).getLsbD l then opWord e 9 f.imm f.a l else opWord e 9 f.imm f.b l)) s

/-- `icmp` compares container 0 (08 R216). -/
def execIcmp (f : FmtA) (s : State) : Host.Outcome State Fault Refusal :=
  issue (.icmp f) (reqMask [(f.a, half0 f.ty.toNat), (f.b, half0 f.ty.toNat)]) (fun e s =>
    writeMask s e f.d (fun l =>
      intCond f.c.toNat (ivalA e f l 0) (ivalB e f l 0) && (op4Mask e).getLsbD l)) s

end Sys2Proof.Machine
end

