-- ==== Sys2Proof/Machine/Layout.lean ====
section
/-!
DEFINITION. Layout instructions: MAJ 0x0E (13 R356 to R362).
-/

namespace Sys2Proof.Machine

/-! ## The band that a lane names, and its record (13 R358) -/

/-- Region coordinates and band index of an access. -/
def accCoord (a : ElemAcc) (k : Nat) (c : Int) : Nat := recOrigin a.hrec k + c.toNat
def accBand (a : ElemAcc) : Nat :=
  bandIndex a.hrec (accCoord a 0 a.p.1) (accCoord a 1 a.p.2.1) (accCoord a 2 a.p.2.2)

/-- The record of a lane's band: its virtual address, and its translation. -/
def accRecord (s : State) (e : Env) (a : ElemAcc) : Word64 × Except Nat Xlat :=
  let va := recordVa a.hrec (accBand a)
  (va, translate s (eCore e) (eVi e) va)

/-- Lanes whose records are translated: lane access, address, translation. -/
def accRecords (s : State) (e : Env) (as_ : List ElemAcc) : List (ElemAcc × Word64 × Xlat) :=
  as_.filterMap (fun a => match accRecord s e a with
    | (va, .ok x) => some (a, va, x)
    | (_, .error _) => none)

/-- The order that an operation names must be legal for the band: none for `lyrd` and `lyunp` (13 R358). -/
def namedOrder (kind : Option Nat) (x : Word) : Option (BitVec 4) :=
  match kind with
  | some 0 => if opxCur x then none else some (opxOrd x)
  | some 2 => some (opxOrd x)
  | _ => none

/-- A failed check in the page-class position. -/
def layoutRefused (s : State) (e : Env) (kind : Option Nat) (x : Nat → Word) (p : ElemAcc × Word64 × Xlat) : Bool :=
  let acc : Access := if kind.isNone then .record else .recordPin
  pageRefuses (viOf s (eVi e)).desc acc p.2.2
  || (match namedOrder kind (x p.1.lane) with
      | some o => !orderLegal p.1.hrec o
      | none => false)
  || (kind.isSome && !orderLegal p.1.hrec (bandAt s (p.2.2.pa / 64)).order)

/-- KIND of a layout instruction's traps; `kind` is none for `lyrd`, else the operation (18 R414). -/
def layoutKind (kind : Option Nat) : Nat := if kind.isNone then 5 else 6

/-- Traps of a layout instruction, but for poison (13 R358). -/
def layoutTrap (s : State) (e : Env) (f : FmtT) (kind : Option Nat) (x : Nat → Word) (as_ : List ElemAcc) :
    Option TrapInfo :=
  let kd := layoutKind kind
  let rs := accRecords s e as_
  (coordRange e f kd as_).orElse (fun _ =>
  (as_.findSome? (fun a => match accRecord s e a with
    | (va, .error lv) => some (accessTrap cTranslationFault a.lane kd lv va (ePc e))
    | (_, .ok _) => none)).orElse (fun _ =>
  rs.findSome? (fun p => if layoutRefused s e kind x p then some (accessTrap cProtection p.1.lane kd 0 p.2.1 (ePc e))
    else none)))

/-- Poison of a lane's record (13 R358): met once the record's line need not be waited for (16 R390, R399). -/
def layoutPoison (s : State) (e : Env) (kind : Option Nat) (rs : List (ElemAcc × Word64 × Xlat)) : Option TrapInfo :=
  rs.findSome? (fun p => if isPoisoned s (lineOf p.2.2.pa)
    then some (accessTrap cPoisonConsumed p.1.lane (layoutKind kind) 0 p.2.1 (ePc e)) else none)

/-- The records' lines, and their fills. -/
def recordLines (rs : List (ElemAcc × Word64 × Xlat)) : List Nat :=
  distinct ((distinct (rs.map (fun p => p.2.2.pa / 64))).map (fun k => lineOf (64 * k)))
def layoutFill (s : State) (e : Env) (rs : List (ElemAcc × Word64 × Xlat)) : Nat → Fill :=
  xlatFill s (eVi e) 0 (rs.map (·.2.2))

/-! ## `lyrd` (13 R359) -/

/-- An operation of the context's own uncommitted region names one of the bands. -/
def ownLayout (c : Ctx) (keys : List Nat) : Bool :=
  (storesOf (regionItems c)).any (fun en => match en with
    | .layout ops => ops.any (fun o => keys.contains o.band)
    | _ => false)
/-- An older operation of the context for the band has not been applied. -/
def layoutPending (b : Band) (ctx : Nat) : Bool :=
  let mine (m : Option MoveJob) : Bool := match m with | some j => j.ctxs.contains ctx | none => false
  b.queue.any (fun o => o.ctxs.contains ctx) || mine b.move || mine b.pinWait

/-- The record as `lyrd` returns it: a STATE of MOVING that software wrote is FREE (13 R359, R361). -/
def lyrdWord (r : BitVec 512) : Word :=
  let w : Word := r.extractLsb' 0 32
  if rrField r 4 2 = 1 then w &&& ~~~0x30#32 else w

def lyrdDo (f : FmtT) (e : Env) (s : State) : State :=
  if e.exec = 0 then finish s e id
  else match hAt e.c.r f.h.toNat with
    | none => trapE s e (handleTrap e 5)
    | some h =>
      let as_ := plainAccs e f h
      match layoutTrap s e f none (fun _ => 0) as_ with
      | some t => trapE s e t
      | none =>
        let rs := accRecords s e as_
        let keys := distinct (rs.map (fun p => p.2.2.pa / 64))
        let lines := recordLines rs
        let fl := layoutFill s e rs
        if ownLayout e.c keys then endRegion s e.key
        else if keys.any (fun k => layoutPending (bandAt s k) e.key || bandBusy s k) then s
        else if loadWaits s e fl lines then waiting s e fl lines false
        else match layoutPoison s e none rs with
        | some t => trapE s e t
        | none =>
          let words := rs.flatMap (fun p =>
            let r := readRecord s (p.2.2.pa / 64)
            [(64 * f.d.toNat + p.1.lane, lyrdWord r), (64 * (f.d.toNat + 1) + p.1.lane, r.extractLsb' 32 32)])
          let s := rs.foldl (fun s p => tlbFill s (eCore e) (eVi e) p.2.1 p.2.2) s
          unlessLost (joinReads s e fl lines) e (fun s => finish (writeV s e.key 3 words) e id)

def execLyrd (f : FmtT) (s : State) : Host.Outcome State Fault Refusal :=
  issue (.lyrd f)
    { gov := false, vregs := [f.d.toNat, f.d.toNat + 1] ++ vregsOf [f.c0, f.c1, f.c2],
      reads := ownReads (coordReads f), shadows := [f.d.toNat, f.d.toNat + 1] } (lyrdDo f) s

/-! ## `lypin`, `lyunp`, `lyadv` (13 R360) -/

/-- Operand X of a lane. -/
def layoutX (e : Env) (f : FmtT) (l : Nat) : Word := opWord e 9 0 f.d l

def layoutDo (kind : Nat) (f : FmtT) (e : Env) (s : State) : State :=
  if e.exec = 0 then finish s e id
  else match hAt e.c.r f.h.toNat with
    | none => trapE s e (handleTrap e 6)
    | some h =>
      let as_ := plainAccs e f h
      match layoutTrap s e f (some kind) (layoutX e f) as_ with
      | some t => trapE s e t
      | none =>
        let rs := accRecords s e as_
        match layoutPoison s e (some kind) rs with
        | some t =>
          if linesBusy s e false (layoutFill s e rs) (recordLines rs) then
            waiting s e (layoutFill s e rs) (recordLines rs) false
          else trapE s e t
        | none =>
        let ops := rs.map (fun p =>
          ({ kind := kind, band := p.2.2.pa / 64, bandIx := accBand p.1, hrec := p.1.hrec, x := layoutX e f p.1.lane,
             ctxs := [e.key], vi := eVi e } : LayoutOp))
        let s := rs.foldl (fun s p => tlbFill s (eCore e) (eVi e) p.2.1 p.2.2) s
        finish (storeEntry s e (.layout ops)) e id

def reqLayout (f : FmtT) : Req :=
  { gov := false, vregs := vregsOf [f.d, f.c0, f.c1, f.c2], reads := ownReads ((f.d, 3) :: coordReads f), sbuf := true }

def execLypin (f : FmtT) (s : State) : Host.Outcome State Fault Refusal :=
  issue (.lypin f) (reqLayout f) (layoutDo 0 f) s
def execLyunp (f : FmtT) (s : State) : Host.Outcome State Fault Refusal :=
  issue (.lyunp f) (reqLayout f) (layoutDo 1 f) s
def execLyadv (f : FmtT) (s : State) : Host.Outcome State Fault Refusal :=
  issue (.lyadv f) (reqLayout f) (layoutDo 2 f) s

end Sys2Proof.Machine
end

