-- ==== Sys2Proof/Machine/Link.lean ====
section
/-!
DEFINITION. Finien Link ports (20 R447 to R450): frames received, acknowledged and sent again, failed authentication, lane
faults, key changeover, a port going up and down.
-/

namespace Sys2Proof.Machine

/-- An Amber event about a port, whose code and arguments are not given (20 R450). -/
def portEvent (s : State) : State :=
  amber s (Config.choice s.tick 4300 % 256) (Config.choice s.tick 4301 % 8) (Config.choice s.tick 4302 % 512)
    (Config.choice s.tick 4303) (Config.choice s.tick 4304) (Config.choice s.tick 4305) (Config.choice s.tick 4306)

/-- The port goes down: LINKDOWN counts it, an Amber event is written. -/
def portDown (s : State) (port : Nat) : State :=
  portEvent (countPort (modPort s port (fun p => { p with up := false, authRun := 0 })) (some port) 5)

/-- A frame that fails authentication is discarded; the 16th in a row takes the port down (20 R448). -/
def badFrame (s : State) (port : Nat) : State :=
  let s := modPort (countPort s (some port) 1) port (fun p => { p with authRun := p.authRun + 1 })
  if 16 ≤ (portOf s port).authRun then portDown s port else s

/-- Frames of a lane that the receive buffer holds. -/
def laneHeld (p : Port) (lane : Nat) : Nat := (p.rxBuf.filter (fun f => f.lane = lane)).length
/-- The buffer of a lane is full: its size is open (log entry 83). -/
def laneFull (p : Port) (lane : Nat) : Bool := Config.rxRoom + 1 ≤ laneHeld p lane

/-- The module takes the first `n` frames out of the receive buffer, in order; lanes with room again are no longer paused. -/
def takeFrames (n : Nat) (p : Port) : Port :=
  let p := { p with delivered := p.delivered ++ p.rxBuf.take n, rxBuf := p.rxBuf.drop n }
  { p with paused := p.paused.filter (laneFull p) }

/-- A lane whose buffer is full is paused. -/
def pauseFull (lane : Nat) (p : Port) : Port :=
  if laneFull p lane then { p with paused := addNew p.paused [lane] } else p

/-- A good frame: the next of its lane is taken in and acknowledged, or refused while the lane is full; a duplicate is
acknowledged again; one out of turn is not (20 R447). -/
def goodFrame (f : LinkFrame) (p : Port) : Port :=
  let p := { p with authRun := 0 }
  let next := agetD p.rxSeq 0 f.lane
  if f.seq = next then
    if laneFull p f.lane then pauseFull f.lane p
    else pauseFull f.lane
      { p with rxBuf := p.rxBuf ++ [f], rxSeq := aput p.rxSeq f.lane (f.seq + 1), acks := p.acks ++ [(f.lane, f.seq)] }
  else if f.seq < next then { p with acks := p.acks ++ [(f.lane, f.seq)] }
  else p

/-- A frame arrives; how many frames the module has taken from the buffer by then is open. -/
def execFrameReceive (port : Nat) (f : LinkFrame) (s : State) : Host.Outcome State Fault Refusal :=
  .next (if 48 ≤ port || 8 ≤ f.lane || !carries (portOf s port) then s
  else
    let s := modPort s port (takeFrames (free s 4307 ((portOf s port).rxBuf.length + 1)))
    if f.authOk then modPort s port (goodFrame f) else badFrame s port)

/-- The receiver has the frame: the replay buffer or the replay window lets it go. -/
def execFrameAcknowledgement (port lane seq : Nat) (s : State) : Host.Outcome State Fault Refusal :=
  .next (if carries (portOf s port) then
    modPort s port (fun p => { p with
      replay := p.replay.filter (fun f => !(f.lane = lane && f.seq = seq))
      window := p.window.filter (fun w => !(w.1 = lane && w.2.1 = seq)) })
  else s)

/-- A frame of the lane waits for its acknowledgement. -/
def unacked (p : Port) (lane : Nat) : Bool := p.replay.any (fun f => f.lane = lane) || p.window.any (fun w => w.1 = lane)

/-- A lane error counts against the physical lane; a lasting fault retires it, and the port goes down with the second
(20 R450). -/
def laneFault (s : State) (port lane : Nat) : State :=
  let old := agetD (portOf s port).laneFaults 0 lane
  let s := modPort s port (fun p => { p with laneFaults := aput p.laneFaults lane (old + 1) })
  if old < 1024 && 1024 ≤ old + 1 then
    let s := portEvent (modPort s port (fun p => { p with lanesLost := p.lanesLost + 1 }))
    if 2 ≤ (portOf s port).lanesLost then portDown s port else s
  else s

/-- A frame of the lane that is not acknowledged is sent again. -/
def execFrameReplay (port lane : Nat) (laneError : Option Nat) (s : State) : Host.Outcome State Fault Refusal :=
  .next (if !carries (portOf s port) || !unacked (portOf s port) lane then s
  else
    let s := countPort s (some port) 0
    match laneError with
    | some l => if l < 4 then laneFault s port l else s
    | none => s)

/-- The named sequence number is reached: the next key becomes the current one. -/
def execKeyChangeover (port : Nat) (s : State) : Host.Outcome State Fault Refusal :=
  .next (if (portOf s port).keyNext.isEmpty then s
  else sendUnsent (modPort s port (fun p => { p with keyCur := p.keyNext, keyNext := [] })))

/-- Link training is complete; frames that waited leave. A port that has lost two lanes stays down. -/
def execPortUp (port : Nat) (s : State) : Host.Outcome State Fault Refusal :=
  .next (if port < 48 && (portOf s port).lanesLost < 2 then sendUnsent (modPort s port (fun p => { p with up := true }))
  else s)

end Sys2Proof.Machine
end

