-- ==== Sys2Proof/Machine/Security.lean ====
section
/-!
DEFINITION. Keys and attestation (20 R448; 23 R484, R486, R487).
-/

namespace Sys2Proof.Machine

/-! ## Keys -/

/-- Bits of KEYSEL that are fields. -/
def keySelMask : Word := 0x803F9FFF#32

def execKeyselWrite (m : HostMsg) (s : State) : Host.Outcome State Fault Refusal :=
  .next (onWrite true [0x050] m (fun s =>
    regWrite s m (some (modMgmt s (fun g => { g with keysel := msgData m &&& keySelMask, keyWords := [] })))) s)

def execKeydataWrite (m : HostMsg) (s : State) : Host.Outcome State Fault Refusal :=
  .next (onWrite true [0x054] m (fun s =>
    regWrite s m (some (modMgmt s (fun g => { g with keyWords := g.keyWords ++ [msgData m] })))) s)

/-- A line modified in a cache is whole there: it stays as it reads until it is written back (16 R382). -/
def wholeLine (s : State) (line : Nat) : State :=
  if (dirtyOf s line).isEmpty then s
  else { s with dirty := (List.range 128).foldl (fun m k => aput m (128 * line + k) (readByte s (128 * line + k))) s.dirty }

/-- Lines under a slot become unreadable in memory when its key changes (23 R487; log entry 66). -/
def retireKey (s : State) (slot : Nat) (new : List Word) : State :=
  match aget s.keys slot with
  | some old =>
    if old = new then s
    else
      let gone := s.lineKey.filter (fun p => p.2 = slot)
      let s := gone.foldl (fun s p => wholeLine s p.1) s
      { s with sealed := gone.foldl (fun m p => aput m p.1 (slot, old)) s.sealed,
               lineKey := s.lineKey.filter (fun p => p.2 ≠ slot) }
  | none => s

/-- Lines that this key seals can be read again. -/
def unsealKey (s : State) (slot : Nat) (new : List Word) : State :=
  let back := s.sealed.filter (fun p => p.2 = (slot, new))
  { s with sealed := s.sealed.filter (fun p => p.2 ≠ (slot, new)),
           lineKey := back.foldl (fun m p => aput m p.1 slot) s.lineKey }

/-- Install a memory key: not in slot 0, not in a slot that an enabled VI names, sixteen words. -/
def installKey (s : State) (slot : Nat) : Option State :=
  let ws := s.mgmt.keyWords
  if slot = 0 || ws.length ≠ 16 || s.vis.any (fun p => p.2.en && descKey p.2.desc = slot) then none
  else
    let s := unsealKey (retireKey s slot ws) slot ws
    some { s with keys := aput s.keys slot ws }

/-- Install a port key of eight words, in the current or the next slot; frames that waited for one leave (20 R448). -/
def installPortKey (s : State) (port : Nat) (next : Bool) : Option State :=
  let ws := s.mgmt.keyWords
  if ws.length ≠ 8 then none
  else some (sendUnsent (modPort s port (fun p => if next then { p with keyNext := ws } else { p with keyCur := ws })))

def commitKey (s : State) (w : Word) : Option State :=
  let k := s.mgmt.keysel
  if w ≠ 1 then some s
  else if k.getLsbD 31 then installPortKey s (k.extractLsb' 16 6).toNat (k.getLsbD 15)
  else installKey s (k.extractLsb' 0 13).toNat

def execKeycmtWrite (m : HostMsg) (s : State) : Host.Outcome State Fault Refusal :=
  .next (onWrite true [0x058] m (fun s => regWrite s m (commitKey s (msgData m))) s)

/-! ## Attestation (23 R486) -/

/-- The next of the twelve nonce words; refused while a report is built. -/
def writeNonce (s : State) (w : Word) : Option State :=
  if s.attBusy then none
  else some (modMgmt s (fun g => { g with nonce := aput g.nonce g.nonceIx w, nonceIx := (g.nonceIx + 1) % 12 }))

def execAttnonceWrite (m : HostMsg) (s : State) : Host.Outcome State Fault Refusal :=
  .next (onWrite true [0x0B0] m (fun s => regWrite s m (writeNonce s (msgData m))) s)

/-- ATTGO: refused while a report is built, whatever is written (23 R486). -/
def startReport (s : State) (w : Word) : Option State :=
  if s.attBusy then none
  else if w ≠ 1 then some s
  else some (later { s with attBusy := true } .attestationReportComplete)

def execAttgoWrite (m : HostMsg) (s : State) : Host.Outcome State Fault Refusal :=
  .next (onWrite true [0x0B4] m (fun s => regWrite s m (startReport s (msgData m))) s)

/-- Word i of bytes 0 to 415 of the report (23 Table 23-3); the measurements are open. -/
def reportBody (s : State) (i : Nat) : Word :=
  if i = 0 then 1
  else if i = 1 then s.mgmt.nodeId
  else if i = 2 then BitVec.ofNat 32 (Nat.min s.resets 0xFFFF)
  else if i = 3 then 0
  else if i < 16 then agetD s.mgmt.nonce 0 (i - 4)
  else if i < 52 then Config.reportWord i s.resets
  else 0

/-- Word i of the report: the signature is an open function of the body. -/
def reportWord (s : State) (i : Nat) : Word :=
  if i < 104 then reportBody s i else Config.reportSig i ((List.range 104).map (reportBody s))

def execAttestationReportComplete (s : State) : Host.Outcome State Fault Refusal :=
  .next (if s.attBusy then
    modMgmt { s with attBusy := false } (fun g => { g with report := (List.range 128).map (reportWord s) })
  else s)

end Sys2Proof.Machine
end

