-- ==== Sys2Proof/Machine/Reset.lean ====
section
/-!
DEFINITION. Reset, power and clock (23 R485, R488, R489; 18 R431).
-/

namespace Sys2Proof.Machine

/-! ## The steps of a reset (23 Table 23-4) -/

/-- The host snoops that homes have in service or in their queues, as messages that have still to be served. -/
def snoopsLeft (s : State) : List Instr :=
  s.txns.flatMap (fun p => (p.2.cur :: p.2.queue).filterMap (fun q => match q with
    | .snoop own => some (.hsnp p.1 own)
    | _ => none))

/-- Step 1 and the first part of step 2: nothing but host snoops is served, and every context stops without a save, with what
it had under way (16 Table 16-6). -/
def stopWork (s : State) : State :=
  { s with
    agenda := s.agenda ++ snoopsLeft s
    ctxs := [], groups := [], frames := [], cohorts := [], clusters := [], launches := [], recs := [], jobs := [],
    accQ := [], redsts := [], fabs := [], engOwn := [], txns := [] }

/-- A Paver move installs at once, but not over a poisoned line (13 R351, R352). -/
def installNow (s : State) (band : Nat) : State :=
  match (bandAt s band).move with
  | none => s
  | some m => if m.lines.any (isPoisoned s) then abandonMove s band m else installMove s band m

def installAll (s : State) : State := (s.bands.map (·.1)).foldl installNow s

/-- Transfers that plan or run are stopped: STATE 4, CAUSE 8. -/
def stopXfers (s : State) : State :=
  ((s.xfers.filter (fun p => p.2.st = 1 || p.2.st = 2)).map (·.1)).foldl (fun s n => enterState s n 4 8) s

/-- The flush phase: every modified line is written back. -/
def flushPhase (s : State) : State := (distinct (s.dirty.map (fun p => lineOf p.1))).foldl writeBack s

/-- Keys of these slots are cleared: what was written under them is unreadable (23 R487). -/
def clearSlots (s : State) (slots : List Nat) : State := slots.foldl (fun s k => retireKey s k []) s

/-- Every memory key but that of slot 0 is cleared. -/
def clearKeys (s : State) : State := clearSlots s ((s.keys.map (·.1)).filter (· ≠ 0))

/-- What a port keeps: the faults and the loss of its lanes. -/
def portAfterReset (p : Port) : Port := { Port.reset with laneFaults := p.laneFaults, lanesLost := p.lanesLost }

/-- Events that a reset leaves waiting: host snoops, and the retirement of lasting faults. -/
def survives : Instr → Bool
  | .hsnp .. => true
  | .spareRetirementComplete _ => true
  | _ => false

/-- Transfers that are over or stopped: `jnrst` takes them up after the reset, whatever their records say by then (log entry
69). -/
def xfersKept (s : State) : Amap Xfer :=
  (s.xfers.filter (fun p => 3 ≤ p.2.st)).map (fun p => (p.1, { p.2 with flying := [], owned := [] }))

/-- Step 4: all else is as after reset. What survives: stopped transfers; memory and poison with the key of slot 0, the
fault counts and retirements, the Amber record; what lies outside the module: time of the network, temperature, clock,
messages and answers already given, the lines in a host's caches. -/
def cleared (s : State) : State :=
  { State.reset with
    tick := s.tick, agenda := s.agenda.filter survives, syncLoss := s.syncLoss, throttle := s.throttle,
    clockMhz := s.clockMhz, resets := s.resets, outbox := s.outbox, fabOut := s.fabOut,
    snoopRsps := s.snoopRsps, hostOwn := s.hostOwn, xfers := xfersKept s, nextId := s.nextId,
    lineKey := s.lineKey.filter (fun p => p.2 = 0), mem := s.mem, poison := s.poison, sealed := s.sealed,
    ptp := s.ptp, keys := s.keys.filter (fun p => p.1 = 0),
    ports := s.ports.map (fun p => (p.1, portAfterReset p.2)), mgmt := { Mgmt.reset with temp := s.mgmt.temp },
    amber := s.amber, amberSeq := s.amberSeq, faultCnt := s.faultCnt, retired := s.retired, retiring := s.retiring,
    spares := s.spares }

/-- The reset event; which die and unit it names is open. -/
def resetEvent (s : State) (cause : Nat) : State :=
  amber s 0x0C (Config.choice s.tick 9000 % 8) 0x1FF cause 0 0 0

/-- Firmware loads slot 0, where it is empty, with a random key (23 R487; log entry 69). -/
def loadKey (s : State) : State :=
  if (aget s.keys 0).isSome then s
  else
    let k := Config.bootKey s.tick
    let s := unsealKey s 0 k
    { s with keys := aput s.keys 0 k }

/-- Step 5: the firmware image is checked, time restarts (23 R485). -/
def boot (s : State) (cause : Nat) : State :=
  let n := s.resets + 1
  let good := Config.firmwareGood n
  let s := resetEvent { s with resets := n, bootOk := good, time := 0 } cause
  if good then loadKey s else resetEvent s 2

/-- A reset (23 R488). -/
def resetModule (s : State) (cause : Nat) : State :=
  boot (cleared (clearKeys (flushPhase (stopXfers (installAll (stopWork s)))))) cause

/-! ## What starts it -/

/-- The cause of a reset that is neither a failed check nor a thermal trip is not given. -/
def openCause (s : State) : Nat := Config.choice s.tick 9001

/-- RESETCTL: the key value starts a reset, any other is refused. -/
def resetctl (m : HostMsg) (s : State) : State :=
  if msgData m = 0x00005253#32 then resetModule (regAnswer s m false 0) (openCause s) else regAnswer s m true 0

def execResetctlWrite (m : HostMsg) (s : State) : Host.Outcome State Fault Refusal :=
  .next (onWrite true [0x00C] m (resetctl m) s)

/-- Power comes on. -/
def execPowerOn (s : State) : Host.Outcome State Fault Refusal :=
  .next (if s.powered then s else resetModule { s with powered := true, resets := 0 } (openCause s))

/-- 110 °C: reset with cause 3. The clock is lowered already, since 95 °C. -/
def execThermalTrip (s : State) : Host.Outcome State Fault Refusal :=
  .next (resetModule { modMgmt s (fun g => { g with temp := 110 }) with
    clockMhz := Nat.min s.clockMhz 550, throttle := true } 3)

/-- The temperature that comes with a clock: open below 110 °C, and from 95 °C on only with a clock that is lowered
further, or at its lowest (23 R489). -/
def tempWith (s : State) (mhz : Nat) : Nat :=
  Config.choice s.tick 4310 % (if mhz < s.clockMhz || mhz = 300 then 110 else 95)

/-- The arithmetic clock moves, in steps of 50 MHz between 300 and 600, and the temperature with it; THROTTLE says that the
clock is below 600 MHz (23 R489). -/
def execClockThrottle (mhz : Nat) (s : State) : Host.Outcome State Fault Refusal :=
  .next (if 300 ≤ mhz && mhz ≤ 600 && mhz % 50 = 0 then
    { modMgmt s (fun g => { g with temp := BitVec.ofNat 32 (tempWith s mhz) }) with clockMhz := mhz, throttle := mhz < 600 }
  else s)

/-- Power is lost: the module stops, and HBM, the keys and the Amber record are lost with it. -/
def execPowerLoss (s : State) : Host.Outcome State Fault Refusal :=
  let s := clearSlots s (s.keys.map (·.1))
  .next { State.reset with
    poison := s.poison.filter (fun l => !inHbm (128 * l)), sealed := s.sealed.filter (fun p => !inHbm (128 * p.1)),
    tick := s.tick, powered := false, bootOk := false, resets := 0, outbox := s.outbox, fabOut := s.fabOut,
    snoopRsps := s.snoopRsps, hostOwn := s.hostOwn, keys := [],
    mem := s.mem.filter (fun p => !inHbm p.1), ptp := s.ptp, amber := [], amberSeq := 0,
    ports := s.ports.map (fun p => (p.1, portAfterReset p.2)), faultCnt := s.faultCnt, retired := s.retired,
    spares := s.spares }

end Sys2Proof.Machine
end

