-- ==== Sys2Proof/Machine/Dispatch.lean ====
section
/-!
DEFINITION. What each instruction and event does: one arm per constructor, one direct call of its meaning.
-/

namespace Sys2Proof.Machine

def exec (i : Instr) (s : State) : Host.Outcome State Fault Refusal :=
  match i with
  | .nop f => Sys2Proof.Machine.execNop f s
  | .add f => Sys2Proof.Machine.execAdd f s
  | .sub f => Sys2Proof.Machine.execSub f s
  | .mul f => Sys2Proof.Machine.execMul f s
  | .mulhi f => Sys2Proof.Machine.execMulhi f s
  | .mad f => Sys2Proof.Machine.execMad f s
  | .addc f => Sys2Proof.Machine.execAddc f s
  | .subb f => Sys2Proof.Machine.execSubb f s
  | .min f => Sys2Proof.Machine.execMin f s
  | .max f => Sys2Proof.Machine.execMax f s
  | .abs f => Sys2Proof.Machine.execAbs f s
  | .neg f => Sys2Proof.Machine.execNeg f s
  | .and f => Sys2Proof.Machine.execAnd f s
  | .or f => Sys2Proof.Machine.execOr f s
  | .xor f => Sys2Proof.Machine.execXor f s
  | .not f => Sys2Proof.Machine.execNot f s
  | .shl f => Sys2Proof.Machine.execShl f s
  | .shr f => Sys2Proof.Machine.execShr f s
  | .sar f => Sys2Proof.Machine.execSar f s
  | .rotl f => Sys2Proof.Machine.execRotl f s
  | .clz f => Sys2Proof.Machine.execClz f s
  | .popc f => Sys2Proof.Machine.execPopc f s
  | .brev f => Sys2Proof.Machine.execBrev f s
  | .bfx f => Sys2Proof.Machine.execBfx f s
  | .bfi f => Sys2Proof.Machine.execBfi f s
  | .sel f => Sys2Proof.Machine.execSel f s
  | .icmp f => Sys2Proof.Machine.execIcmp f s
  | .fadd f => Sys2Proof.Machine.execFadd f s
  | .fsub f => Sys2Proof.Machine.execFsub f s
  | .fmul f => Sys2Proof.Machine.execFmul f s
  | .fma f => Sys2Proof.Machine.execFma f s
  | .fmin f => Sys2Proof.Machine.execFmin f s
  | .fmax f => Sys2Proof.Machine.execFmax f s
  | .fabs f => Sys2Proof.Machine.execFabs f s
  | .fneg f => Sys2Proof.Machine.execFneg f s
  | .fcmp f => Sys2Proof.Machine.execFcmp f s
  | .fcls f => Sys2Proof.Machine.execFcls f s
  | .frnd f => Sys2Proof.Machine.execFrnd f s
  | .cvt f => Sys2Proof.Machine.execCvt f s
  | .cvti f => Sys2Proof.Machine.execCvti f s
  | .cvtf f => Sys2Proof.Machine.execCvtf f s
  | .pack f => Sys2Proof.Machine.execPack f s
  | .unpk f => Sys2Proof.Machine.execUnpk f s
  | .qnt f => Sys2Proof.Machine.execQnt f s
  | .rcp f => Sys2Proof.Machine.execRcp f s
  | .rsq f => Sys2Proof.Machine.execRsq f s
  | .sqrt f => Sys2Proof.Machine.execSqrt f s
  | .exp2 f => Sys2Proof.Machine.execExp2 f s
  | .log2 f => Sys2Proof.Machine.execLog2 f s
  | .sin f => Sys2Proof.Machine.execSin f s
  | .cos f => Sys2Proof.Machine.execCos f s
  | .tanh f => Sys2Proof.Machine.execTanh f s
  | .shfl f => Sys2Proof.Machine.execShfl f s
  | .shup f => Sys2Proof.Machine.execShup f s
  | .shdn f => Sys2Proof.Machine.execShdn f s
  | .qswp f => Sys2Proof.Machine.execQswp f s
  | .qbc f => Sys2Proof.Machine.execQbc f s
  | .vote f => Sys2Proof.Machine.execVote f s
  | .ballot f => Sys2Proof.Machine.execBallot f s
  | .lred f => Sys2Proof.Machine.execLred f s
  | .lscan f => Sys2Proof.Machine.execLscan f s
  | .xbld f => Sys2Proof.Machine.execXbld f s
  | .xbp f => Sys2Proof.Machine.execXbp f s
  | .mov f => Sys2Proof.Machine.execMov f s
  | .movi f => Sys2Proof.Machine.execMovi f s
  | .rsr f => Sys2Proof.Machine.execRsr f s
  | .wsr f => Sys2Proof.Machine.execWsr f s
  | .fmts f => Sys2Proof.Machine.execFmts f s
  | .fmtr f => Sys2Proof.Machine.execFmtr f s
  | .rand f => Sys2Proof.Machine.execRand f s
  | .mset f => Sys2Proof.Machine.execMset f s
  | .mpop f => Sys2Proof.Machine.execMpop f s
  | .ld f => Sys2Proof.Machine.execLd f s
  | .st f => Sys2Proof.Machine.execSt f s
  | .ldg f => Sys2Proof.Machine.execLdg f s
  | .stg f => Sys2Proof.Machine.execStg f s
  | .ldsp f => Sys2Proof.Machine.execLdsp f s
  | .stsp f => Sys2Proof.Machine.execStsp f s
  | .prf f => Sys2Proof.Machine.execPrf f s
  | .tld f => Sys2Proof.Machine.execTld f s
  | .tst f => Sys2Proof.Machine.execTst f s
  | .tlds f => Sys2Proof.Machine.execTlds f s
  | .stsh f => Sys2Proof.Machine.execStsh f s
  | .redst f => Sys2Proof.Machine.execRedst f s
  | .thnd f => Sys2Proof.Machine.execThnd f s
  | .aadd f => Sys2Proof.Machine.execAadd f s
  | .amin f => Sys2Proof.Machine.execAmin f s
  | .amax f => Sys2Proof.Machine.execAmax f s
  | .aand f => Sys2Proof.Machine.execAand f s
  | .aor f => Sys2Proof.Machine.execAor f s
  | .axor f => Sys2Proof.Machine.execAxor f s
  | .axchg f => Sys2Proof.Machine.execAxchg f s
  | .acas f => Sys2Proof.Machine.execAcas f s
  | .afadd f => Sys2Proof.Machine.execAfadd f s
  | .wait f => Sys2Proof.Machine.execWait f s
  | .nbinit f => Sys2Proof.Machine.execNbinit f s
  | .nbarv f => Sys2Proof.Machine.execNbarv f s
  | .nbwt f => Sys2Proof.Machine.execNbwt f s
  | .nbsync f => Sys2Proof.Machine.execNbsync f s
  | .waddr f => Sys2Proof.Machine.execWaddr f s
  | .cpy f => Sys2Proof.Machine.execCpy f s
  | .cpyo f => Sys2Proof.Machine.execCpyo f s
  | .cpym f => Sys2Proof.Machine.execCpym f s
  | .cpyacc f => Sys2Proof.Machine.execCpyacc f s
  | .cpyacs f => Sys2Proof.Machine.execCpyacs f s
  | .dzjob f => Sys2Proof.Machine.execDzjob f s
  | .mma f => Sys2Proof.Machine.execMma f s
  | .mmaz f => Sys2Proof.Machine.execMmaz f s
  | .accz f => Sys2Proof.Machine.execAccz f s
  | .accrd f => Sys2Proof.Machine.execAccrd f s
  | .accwr f => Sys2Proof.Machine.execAccwr f s
  | .bra f => Sys2Proof.Machine.execBra f s
  | .brm f => Sys2Proof.Machine.execBrm f s
  | .call f => Sys2Proof.Machine.execCall f s
  | .calli f => Sys2Proof.Machine.execCalli f s
  | .ret f => Sys2Proof.Machine.execRet f s
  | .exit f => Sys2Proof.Machine.execExit f s
  | .rgn f => Sys2Proof.Machine.execRgn f s
  | .wset f => Sys2Proof.Machine.execWset f s
  | .join f => Sys2Proof.Machine.execJoin f s
  | .trap f => Sys2Proof.Machine.execTrap f s
  | .brk f => Sys2Proof.Machine.execBrk f s
  | .lyrd f => Sys2Proof.Machine.execLyrd f s
  | .lypin f => Sys2Proof.Machine.execLypin f s
  | .lyunp f => Sys2Proof.Machine.execLyunp f s
  | .lyadv f => Sys2Proof.Machine.execLyadv f s
  | .ovtld f => Sys2Proof.Machine.execOvtld f s
  | .tlbinv f => Sys2Proof.Machine.execTlbinv f s
  | .cmnt f => Sys2Proof.Machine.execCmnt f s
  | .ambw f => Sys2Proof.Machine.execAmbw f s
  | .jnlaunch f => Sys2Proof.Machine.execJnlaunch f s
  | .jnrst f => Sys2Proof.Machine.execJnrst f s
  | .jnrstStop f => Sys2Proof.Machine.execJnrstStop f s
  | .jnrstClose f => Sys2Proof.Machine.execJnrstClose f s
  | .jnst f => Sys2Proof.Machine.execJnst f s
  | .fput f => Sys2Proof.Machine.execFput f s
  | .fget f => Sys2Proof.Machine.execFget f s
  | .fsig f => Sys2Proof.Machine.execFsig f s
  | .pblk f => Sys2Proof.Machine.execPblk f s
  | .xpfx f => Sys2Proof.Machine.execXpfx f s
  | .notAnInstruction w => Sys2Proof.Machine.execNotAnInstruction w s
  | .fetchLineArrival ctx noise => Sys2Proof.Machine.execFetchLineArrival ctx noise s
  | .pageWalkComplete core vi va => Sys2Proof.Machine.execPageWalkComplete core vi va s
  | .regionCommit ctx => Sys2Proof.Machine.execRegionCommit ctx s
  | .rollbackWindowExpiry ctx => Sys2Proof.Machine.execRollbackWindowExpiry ctx s
  | .lineHoldExpiry ctx => Sys2Proof.Machine.execLineHoldExpiry ctx s
  | .contextHalt ctx => Sys2Proof.Machine.execContextHalt ctx s
  | .trapRecordWrite rec => Sys2Proof.Machine.execTrapRecordWrite rec s
  | .cohortEnd tag => Sys2Proof.Machine.execCohortEnd tag s
  | .launchCompletion l => Sys2Proof.Machine.execLaunchCompletion l s
  | .launch m => Sys2Proof.Machine.execLaunch m s
  | .resume m => Sys2Proof.Machine.execResume m s
  | .abort m => Sys2Proof.Machine.execAbort m s
  | .memRd m => Sys2Proof.Machine.execMemRd m s
  | .memWr m => Sys2Proof.Machine.execMemWr m s
  | .droppedMessage m => Sys2Proof.Machine.execDroppedMessage m s
  | .regWr m => Sys2Proof.Machine.execRegWr m s
  | .hdataWrite m => Sys2Proof.Machine.execHdataWrite m s
  | .hpcloHpchiWrite m => Sys2Proof.Machine.execHpcloHpchiWrite m s
  | .tictlInvalidatePage m => Sys2Proof.Machine.execTictlInvalidatePage m s
  | .tictlInvalidateAll m => Sys2Proof.Machine.execTictlInvalidateAll m s
  | .tlbInvalidationComplete n => Sys2Proof.Machine.execTlbInvalidationComplete n s
  | .viEnable m => Sys2Proof.Machine.execViEnable m s
  | .viDisable m => Sys2Proof.Machine.execViDisable m s
  | .viddataWrite m => Sys2Proof.Machine.execViddataWrite m s
  | .slotcmtWrite m => Sys2Proof.Machine.execSlotcmtWrite m s
  | .hbmFrameBoundary => Sys2Proof.Machine.execHbmFrameBoundary s
  | .gscmtWrite m => Sys2Proof.Machine.execGscmtWrite m s
  | .gangSliceInstant => Sys2Proof.Machine.execGangSliceInstant s
  | .cohortSave tag => Sys2Proof.Machine.execCohortSave tag s
  | .gangSwitchRestore => Sys2Proof.Machine.execGangSwitchRestore s
  | .gangSwitchOverrun ns => Sys2Proof.Machine.execGangSwitchOverrun ns s
  | .ptpSyncLoss offset => Sys2Proof.Machine.execPtpSyncLoss offset s
  | .ptpSyncRestored => Sys2Proof.Machine.execPtpSyncRestored s
  | .waitEventRead l k => Sys2Proof.Machine.execWaitEventRead l k s
  | .waitEventRetry l k => Sys2Proof.Machine.execWaitEventRetry l k s
  | .launchSelection => Sys2Proof.Machine.execLaunchSelection s
  | .launchPriorityAging l => Sys2Proof.Machine.execLaunchPriorityAging l s
  | .cohortPlacement => Sys2Proof.Machine.execCohortPlacement s
  | .clusterPlacement => Sys2Proof.Machine.execClusterPlacement s
  | .copyUnitTransfer job unit => Sys2Proof.Machine.execCopyUnitTransfer job unit s
  | .multicastDelivery job pos => Sys2Proof.Machine.execMulticastDelivery job pos s
  | .multicastBoundExpiry job => Sys2Proof.Machine.execMulticastBoundExpiry job s
  | .copyCompletion job => Sys2Proof.Machine.execCopyCompletion job s
  | .dzJobEnd job => Sys2Proof.Machine.execDzJobEnd job s
  | .matrixInstructionCompletion frame => Sys2Proof.Machine.execMatrixInstructionCompletion frame s
  | .coordinateAccessAtHome ctx => Sys2Proof.Machine.execCoordinateAccessAtHome ctx s
  | .staleRejection ctx => Sys2Proof.Machine.execStaleRejection ctx s
  | .redstHomeAdd op => Sys2Proof.Machine.execRedstHomeAdd op s
  | .epochEnd band => Sys2Proof.Machine.execEpochEnd band s
  | .windowEnd band => Sys2Proof.Machine.execWindowEnd band s
  | .pinMoveStart band => Sys2Proof.Machine.execPinMoveStart band s
  | .paverMoveInstall band => Sys2Proof.Machine.execPaverMoveInstall band s
  | .pinApply band => Sys2Proof.Machine.execPinApply band s
  | .unpinApply band => Sys2Proof.Machine.execUnpinApply band s
  | .adviceApply band => Sys2Proof.Machine.execAdviceApply band s
  | .gets die line => Sys2Proof.Machine.execGets die line s
  | .getm die line => Sys2Proof.Machine.execGetm die line s
  | .wbd die line => Sys2Proof.Machine.execWbd die line s
  | .evc die line => Sys2Proof.Machine.execEvc die line s
  | .fwds die line => Sys2Proof.Machine.execFwds die line s
  | .fwdm die line => Sys2Proof.Machine.execFwdm die line s
  | .inv die line => Sys2Proof.Machine.execInv die line s
  | .binv line => Sys2Proof.Machine.execBinv line s
  | .data die line => Sys2Proof.Machine.execData die line s
  | .datad die line => Sys2Proof.Machine.execDatad die line s
  | .ack die line => Sys2Proof.Machine.execAck die line s
  | .cmp die line => Sys2Proof.Machine.execCmp die line s
  | .hsnp line own => Sys2Proof.Machine.execHsnp line own s
  | .fill core line => Sys2Proof.Machine.execFill core line s
  | .wrt core line => Sys2Proof.Machine.execWrt core line s
  | .l1inv core line => Sys2Proof.Machine.execL1inv core line s
  | .own die agent line => Sys2Proof.Machine.execOwn die agent line s
  | .rcl die agent line => Sys2Proof.Machine.execRcl die agent line s
  | .rclack die agent line => Sys2Proof.Machine.execRclack die agent line s
  | .correctableError r => Sys2Proof.Machine.execCorrectableError r s
  | .uncorrectableError r site => Sys2Proof.Machine.execUncorrectableError r site s
  | .agentFailure agent line => Sys2Proof.Machine.execAgentFailure agent line s
  | .faultLeakPeriod r => Sys2Proof.Machine.execFaultLeakPeriod r s
  | .spareRetirementComplete r => Sys2Proof.Machine.execSpareRetirementComplete r s
  | .l2gmaskWrite m => Sys2Proof.Machine.execL2gmaskWrite m s
  | .l2GatingTransitionComplete die => Sys2Proof.Machine.execL2GatingTransitionComplete die s
  | .junctionPlanComplete x => Sys2Proof.Machine.execJunctionPlanComplete x s
  | .junctionPullServe p => Sys2Proof.Machine.execJunctionPullServe p s
  | .junctionLegComplete x leg payload => Sys2Proof.Machine.execJunctionLegComplete x leg payload s
  | .junctionPullRefusal x leg reason => Sys2Proof.Machine.execJunctionPullRefusal x leg reason s
  | .junctionPullRetry x leg => Sys2Proof.Machine.execJunctionPullRetry x leg s
  | .junctionPullTimeout x leg => Sys2Proof.Machine.execJunctionPullTimeout x leg s
  | .fabricOperationAtTarget op => Sys2Proof.Machine.execFabricOperationAtTarget op s
  | .fsigWrite op => Sys2Proof.Machine.execFsigWrite op s
  | .fabricAcknowledgement op payload => Sys2Proof.Machine.execFabricAcknowledgement op payload s
  | .fabricRefusal op sub => Sys2Proof.Machine.execFabricRefusal op sub s
  | .fabricTimeout op port => Sys2Proof.Machine.execFabricTimeout op port s
  | .frameReceive port frame => Sys2Proof.Machine.execFrameReceive port frame s
  | .frameAcknowledgement port lane seq => Sys2Proof.Machine.execFrameAcknowledgement port lane seq s
  | .frameReplay port lane laneError => Sys2Proof.Machine.execFrameReplay port lane laneError s
  | .keyChangeover port => Sys2Proof.Machine.execKeyChangeover port s
  | .cxlRequestTimeout line => Sys2Proof.Machine.execCxlRequestTimeout line s
  | .keyselWrite m => Sys2Proof.Machine.execKeyselWrite m s
  | .keydataWrite m => Sys2Proof.Machine.execKeydataWrite m s
  | .keycmtWrite m => Sys2Proof.Machine.execKeycmtWrite m s
  | .attnonceWrite m => Sys2Proof.Machine.execAttnonceWrite m s
  | .attgoWrite m => Sys2Proof.Machine.execAttgoWrite m s
  | .attestationReportComplete => Sys2Proof.Machine.execAttestationReportComplete s
  | .resetctlWrite m => Sys2Proof.Machine.execResetctlWrite m s
  | .powerOn => Sys2Proof.Machine.execPowerOn s
  | .thermalTrip => Sys2Proof.Machine.execThermalTrip s
  | .clockThrottle mhz => Sys2Proof.Machine.execClockThrottle mhz s
  | .portUp port => Sys2Proof.Machine.execPortUp port s
  | .powerLoss => Sys2Proof.Machine.execPowerLoss s

end Sys2Proof.Machine
end

