-- ==== Sys2Proof/Machine/Step.lean ====
section
/-!
DEFINITION. One step of the machine: an event that is due, or one act of one context.
-/

namespace Sys2Proof.Machine

/-- One step: time passes; then the agent that moves acts (log entry 3). -/
def step (s : State) : Host.Outcome State Fault Refusal :=
  match moveOf s with
  | .idle => .next (passTime s)
  | .event i rest =>
    if dropped s i then .next { passTime s with agenda := rest } else exec i { passTime s with agenda := rest }
  | .context key =>
    match aget (enter (passTime s) key).ctxs key with
    | none => .next (passTime s)
    | some c =>
      match actOf c with
      | .fetch => exec (.fetchLineArrival key 0) (enter (passTime s) key)
      | .run i => exec i (enter (passTime s) key)
      | .bad => .next (badSlot (enter (passTime s) key) key)

/-- The state whose very next step issues the given slot (log entry 4). -/
def State.withFetchWord (s : State) (nbits w : Nat) : State := placeSlot s (BitVec.ofNat 96 (w % 2 ^ nbits))

end Sys2Proof.Machine
end

