-- ==== Sys2Proof/Safety.lean ====
section
/-!
DEFINITION. What counts as a safe state: the canonical form of memory and of the overlay of modified bytes.
-/

namespace Sys2Proof.Machine

/-- Memory keeps its one canonical form, and so does the overlay of bytes modified in caches. -/
def State.memoryWf (s : State) : Bool := memWf s.mem && arising s.dirty

end Sys2Proof.Machine
end

