-- ==== Sys2Proof/Claims.lean ====
section
/-!
DEFINITION. The terms in which the statements are said: what of the state an instruction sees, and what a step that only
changes the registers of one context leaves alone. Nothing here is used by the machine.
-/

namespace Sys2Proof.Claims

open Sys2Proof.Machine

/-! ## Observations -/

/-- v register n in lane `lane` of the frame of context `key`; 0 where there is no such frame. -/
def vReg (s : State) (key n lane : Nat) : Word :=
  match aget s.frames (frameKeyOf key) with
  | some f => vAt f n lane
  | none => 0

/-- The poison of v register n in a lane, one bit for each half. -/
def vPoison (s : State) (key n lane : Nat) : BitVec 2 :=
  match aget s.frames (frameKeyOf key) with
  | some f => vPoisonAt f n lane
  | none => 0

/-- The registers of a context. -/
def regsOf (s : State) (key : Nat) : Option CtxRegs := (aget s.ctxs key).map (fun c : Ctx => c.r)

/-- The lanes that an extension word with ZERO = 1 clears (07 R177). -/
def Cleared (e : Env) (lane : Nat) : Prop :=
  ∃ w, e.word = some w ∧ xwZero w = true ∧ e.norm.getLsbD lane = true ∧ e.exec.getLsbD lane = false

/-- The overflow table in force: that of the open region, or the VI's when the instruction opens one (03 R79). -/
def ovtInForce (s : State) (e : Env) : Word :=
  match e.c.region with
  | some _ => e.c.r.ovt
  | none => (viOf s (eVi e)).ovt

/-- The registers after an instruction that changes none of them: the next slot, one prefix place and one extension word
used, the overflow table in force. -/
def stepped (s : State) (e : Env) : CtxRegs :=
  { e.c.r with
    pc := nextSlot e.c.r.pc, pblk := pblkNext e.c.r.pblk, xwords := e.c.r.xwords.tail, ovt := ovtInForce s e }

/-! ## Frames -/

/-- `t` is `s` but for the registers, the region record and the v words of the executing context; the context has a region
open; no other context, frame or part of the module differs, and no byte of memory reads differently. -/
def OnlyRegs (s t : State) (e : Env) : Prop :=
  t = { s with ctxs := t.ctxs, frames := t.frames }
  ∧ (∀ k, k ≠ e.key → aget t.ctxs k = aget s.ctxs k)
  ∧ (∀ k, k ≠ frameKeyOf e.key → aget t.frames k = aget s.frames k)
  ∧ (∃ c, aget t.ctxs e.key = some c ∧ c = { e.c with r := c.r, region := c.region } ∧ c.region.isSome = true)
  ∧ (∃ f, aget t.frames (frameKeyOf e.key) = some f ∧ f = { e.fr with v := f.v, vpoison := f.vpoison })
  ∧ (∀ pa, readByte t pa = readByte s pa)

/-- No v word and no poison mark of one differs. -/
def SameV (s t : State) : Prop :=
  ∀ key n lane, vReg t key n lane = vReg s key n lane ∧ vPoison t key n lane = vPoison s key n lane

/-- The v words of destination D hold `val`: in each executing lane, 0 in each cleared one; the words written are no longer
poisoned, every other v word is as it was (06 R148, 07 R175, R177; 18 R428). -/
def VDestIs (s t : State) (e : Env) (d : Spec) (val : Nat → Word) : Prop :=
  ∀ n lane, lane < 64 →
    (operandOf d = .vreg n ∧ e.exec.getLsbD lane = true →
      vReg t e.key n lane = val lane ∧ vPoison t e.key n lane = 0)
    ∧ (operandOf d = .vreg n ∧ Cleared e lane → vReg t e.key n lane = 0 ∧ vPoison t e.key n lane = 0)
    ∧ (¬ (operandOf d = .vreg n ∧ (e.exec.getLsbD lane = true ∨ Cleared e lane)) →
      vReg t e.key n lane = vReg s e.key n lane ∧ vPoison t e.key n lane = vPoison s e.key n lane)

/-- As `VDestIs`, where the write replaces only the given halves of each register: only their poison goes (18 R428). -/
def VDestPart (s t : State) (e : Env) (d : Spec) (halves : BitVec 2) (val : Nat → Word) : Prop :=
  ∀ n lane, lane < 64 →
    (operandOf d = .vreg n ∧ e.exec.getLsbD lane = true →
      vReg t e.key n lane = val lane ∧ vPoison t e.key n lane = vPoison s e.key n lane &&& ~~~halves)
    ∧ (operandOf d = .vreg n ∧ Cleared e lane → vReg t e.key n lane = 0 ∧ vPoison t e.key n lane = 0)
    ∧ (¬ (operandOf d = .vreg n ∧ (e.exec.getLsbD lane = true ∨ Cleared e lane)) →
      vReg t e.key n lane = vReg s e.key n lane ∧ vPoison t e.key n lane = vPoison s e.key n lane)

/-- The g registers of `r` are those of `old`, with `val` in the one that D names, if any: written, and no longer
poisoned. -/
def GDestIs (old r : CtxRegs) (d : Spec) (val : Word) : Prop :=
  (∀ n, gAt r n = if operandOf d = .greg n then val else gAt old n)
  ∧ (∀ n, agetD r.gpoison 0 n = if operandOf d = .greg n then 0 else agetD old.gpoison 0 n)
  ∧ (∀ i, r.wroteG.contains i = (old.wroteG.contains i || decide (256 ≤ i ∧ operandOf d = .greg (i - 256))))

/-- Destination D holds `val`: a v register in each executing lane; a g register once, the value of lane 0; nothing for
510. Every other register is as it was. -/
def DestIs (s t : State) (e : Env) (d : Spec) (val : Nat → Word) : Prop :=
  VDestIs s t e d val
  ∧ ∃ r, regsOf t e.key = some r
    ∧ r = { stepped s e with g := r.g, gpoison := r.gpoison, wroteG := r.wroteG } ∧ GDestIs e.c.r r d (val 0)

/-- Mask k of `r` has bit `bit L` in each executing lane L, 0 in each cleared one and the bit of `old` elsewhere; the other
masks are those of `old` (08 R216). -/
def MaskSet (old r : CtxRegs) (e : Env) (k : Nat) (bit : Nat → Bool) : Prop :=
  (∀ j, j ≠ k → maskOf r j = maskOf old j)
  ∧ ∀ lane, lane < 64 →
    (e.exec.getLsbD lane = true → (maskOf r k).getLsbD lane = bit lane)
    ∧ (Cleared e lane → (maskOf r k).getLsbD lane = false)
    ∧ (e.exec.getLsbD lane = false → ¬ Cleared e lane → (maskOf r k).getLsbD lane = (maskOf old k).getLsbD lane)

/-- Mask register k is written lane by lane with `bit`; every other register is as it was. -/
def MaskIs (s t : State) (e : Env) (k : Nat) (bit : Nat → Bool) : Prop :=
  SameV s t
  ∧ ∃ r, regsOf t e.key = some r ∧ r = { stepped s e with masks := r.masks } ∧ MaskSet e.c.r r e k bit

/-- The registers of the context are `r`, no v word differs, and nothing else but the region record does. -/
def RegsAre (s t : State) (e : Env) (r : CtxRegs) : Prop := OnlyRegs s t e ∧ SameV s t ∧ regsOf t e.key = some r

/-- The word of register D before the instruction. -/
def oldWord (e : Env) (d : Spec) (lane : Nat) : Word :=
  match operandOf d with
  | .vreg n => vAt e.fr n lane
  | .greg n => gAt e.c.r n
  | _ => 0

/-- A trap is due in the executing context: it halts once the part of its region before the instruction has committed;
until then its registers and memory are as before the instruction (07 R202; 18 R410). -/
def Traps (s t : State) (e : Env) (info : TrapInfo) : Prop :=
  (∃ c, aget t.ctxs e.key = some c ∧ c.fault = some info ∧ c.r = { e.c.r with ovt := c.r.ovt })
  ∧ t.agenda.contains (.contextHalt e.key) = true
  ∧ SameV s t
  ∧ (∀ k, k ≠ e.key → aget t.ctxs k = aget s.ctxs k)
  ∧ t = { s with ctxs := t.ctxs, agenda := t.agenda }
  ∧ (∀ pa, readByte t pa = readByte s pa)

/-! ## What an instruction asks of the issue stage -/

/-- What each instruction asks of the issue stage: the path it runs on, its class, the prefixes it accepts, the registers
it reads and may shadow (06 R150, R153; 07 Table 7-3, Table 7-7, R176, R177, R198; 18 R426). -/
def request (i : Instr) (s : State) : Req :=
  match i with
  | .nop _ => { gov := true }
  | .add f | .sub f | .mul f => reqInt2 f true
  | .mulhi f => reqInt2 f false
  | .mad f => reqInt3 f true
  | .addc f | .subb f => reqA false f.d [(f.a, 3), (f.b, 3)]
  | .min f | .max f => reqInt2 f false
  | .abs f | .neg f => reqInt1 f true
  | .and f | .or f | .xor f => reqInt2 f false
  | .not f => reqInt1 f false
  | .shl f | .shr f | .sar f | .rotl f => reqInt2 f false
  | .clz f | .popc f | .brev f => reqInt1 f false
  | .bfx f => reqA f.u f.d [(f.a, 3), (f.b, 1)]
  | .bfi f => reqA f.u f.d [(f.a, 3), (f.b, 3), (f.c, 1)]
  | .sel f =>
    { reqA false f.d [(f.a, 3), (f.b, 3)] with 
      reads := fun e l => [if (maskOf e.c.r (kOf f.c)).getLsbD l then (f.a, 3, l) else (f.b, 3, l)] }
  | .icmp f => reqMask [(f.a, half0 f.ty.toNat), (f.b, half0 f.ty.toNat)]
  | .fadd f | .fsub f | .fmul f => reqF2 f true true
  | .fma f => { reqA f.u f.d [(f.a, 3), (f.b, 3), (f.c, 3)] with xsat := true, rnd := true }
  | .fmin f | .fmax f => reqF2 f false false
  | .fabs f | .fneg f => reqF1 f false false
  | .fcmp f => reqMask [(f.a, half0 f.ty.toNat), (f.b, half0 f.ty.toNat)]
  | .fcls f => reqMask [(f.a, half0 f.ty.toNat), (f.b, 1)]
  | .frnd f => reqF1 f false true
  | .cvt f => { reqA f.u f.d [(f.a, half0 f.c.toNat)] with rnd := true }
  | .cvti f | .cvtf f => { reqA f.u f.d [(f.a, half0 f.c.toNat), (f.b, 3)] with rnd := true }
  | .pack f => { reqA f.u f.d [(f.a, 3), (f.b, 3)] with rnd := true }
  | .unpk f => { reqA f.u f.d [(f.a, halfOf f.ty.toNat f.c.toNat)] with rnd := true }
  | .qnt f => { reqA f.u f.d [(f.a, 3), (f.b, 1)] with rnd := true }
  | .rcp f | .rsq f | .sqrt f | .exp2 f | .log2 f | .sin f | .cos f | .tanh f => reqF1 f true true
  | .shfl f => reqMove f (shflSource f)
  | .shup f => reqMove f (shupSource f)
  | .shdn f => reqMove f (shdnSource f)
  | .qswp f => reqQuad f (qswpLane f)
  | .qbc f => reqQuad f (qbcLane f)
  | .vote f => reqA false f.d [(f.a, 3)]
  | .ballot f => { reqMask [(f.a, 3)] with op4 := false }
  | .lred f | .lscan f => reqRed f
  | .xbld f => reqA f.u f.d [(f.a, 1)]
  | .xbp f => reqMove f (xbpSource f)
  | .mov f => reqA (movUniform f) f.d [(f.a, 3)]
  | .movi f | .rsr f => reqA (movUniform f) f.d []
  | .wsr f => { reqGroup [(f.a, 3)] with shadows := [if f.d.toNat = 398 then 601 else 600] }
  | .fmts f => reqGroup [(f.a, 3)]
  | .fmtr f => reqA f.u f.d []
  | .rand f => reqA false f.d []
  | .mset f => reqGroup (msetReads f)
  | .mpop f => reqA f.u f.d []
  | .ld f => reqLoad f
  | .st f => reqStore f
  | .ldg f => reqLoad f
  | .stg f => reqStore f
  | .ldsp f => reqLoad f
  | .stsp f => reqStore f
  | .prf f => { vregs := vregsM f }
  | .tld f => reqCoordLoad f
  | .tst f => reqCoordStore f
  | .tlds f => reqCoordLoad f
  | .stsh f => reqCoordStore f
  | .redst f => { vregs := vregsM f, reads := ownReads (addrReads f ++ [(f.d, 3)]), stall := true, cls := .st }
  | .thnd f => { vregs := vregsM f, reads := ownReads (addrReads f), shadows := [512 + kOf f.d] }
  | .aadd f | .amin f | .amax f | .aand f | .aor f | .axor f | .axchg f => reqAtom f
  | .acas f => reqCas f
  | .afadd f => reqAtom f
  | .wait _ => { gov := false, bare := outside s }
  | .nbinit f => { gov := false, held := true, reads := ownReads [(f.a, 3), (f.b, 3)] }
  | .nbarv _ => { gov := false, held := true }
  | .nbwt _ => { gov := false, bare := outside s }
  | .nbsync _ => { gov := false, held := !outside s, bare := outside s }
  | .waddr f => { gov := false, reads := ownReads (addrReads f ++ [(f.d, 3)]) }
  | .cpy f | .cpyo f | .cpym f => reqCopy f
  | .cpyacc f => reqAccCopy f false
  | .cpyacs f => reqAccCopy f true
  | .dzjob f => reqDz f
  | .mma f | .mmaz f => reqMatrix f (productSlotRegs f)
  | .accz f => reqMatrix f []
  | .accrd f => { reqMatrix f (eightRegs f.abase.toNat) with held := false, shadows := (eightRegs f.abase.toNat) }
  | .accwr f => reqMatrix f (eightRegs f.bbase.toNat)
  | .bra _ => { gov := false }
  | .brm f => { gov := false, stall := brmSplits f s }
  | .call _ => { gov := false }
  | .calli f => { gov := false, reads := ownReads (pairReads (calliReg f)) }
  | .ret _ => { gov := false }
  | .exit _ | .rgn _ | .wset _ => { gov := false, stall := true }
  | .join _ => { gov := false, stall := joinArrives s }
  | .trap _ | .brk _ => { gov := false, stall := true }
  | .lyrd f =>
    { gov := false, vregs := [f.d.toNat, f.d.toNat + 1] ++ vregsOf [f.c0, f.c1, f.c2],
      reads := ownReads (coordReads f), shadows := [f.d.toNat, f.d.toNat + 1] }
  | .lypin f | .lyunp f | .lyadv f => reqLayout f
  | .ovtld f => reqPriv [(f.a, 3)]
  | .tlbinv f => reqPriv (if f.c = 1 then pairReads f.a else [])
  | .cmnt f => { reqPriv (addrReads f ++ [(f.d, 3)]) with cls := .st }
  | .ambw f => reqPriv [(f.a, 3), (f.b, 3)]
  | .jnlaunch f | .jnrst f | .jnrstStop f | .jnrstClose f => reqJn f
  | .jnst f => { gov := false, reads := ownReads (pairR f.s1), shadows := [f.s0.toNat, f.s0.toNat + 1] }
  | .fput f | .fget f => reqFabric f
  | .fsig f => { reqFabric f with reads := ownReads (pairR f.s0 ++ pairR f.s1 ++ [(f.s2, 3)] ++ cwReads f) }
  | .pblk _ => { gov := false }
  | .xpfx f => { vregs := xpfxVregs f }
  | .notAnInstruction _ => {}
  | _ => {}

/-- Instruction `i` acts in the next step: the current context has the environment `e` and nothing stands in its way
(06 Table 6-18, 07 Table 7-1, R197, R198). -/
def Ready (i : Instr) (s : State) (e : Env) : Prop := envOf s = some e ∧ blocked i (request i s) e s = none

/-- The environment and the state on which the effect of an instruction runs: its region is open (07 R197). -/
def actEnv (i : Instr) (s : State) (e : Env) : Env := openedEnv (request i s) s e
def actState (i : Instr) (s : State) (e : Env) : State := setCtx s e.key (actEnv i s e).c

/-! ## Memory -/

/-- Entries of the snoop filter of the home and set of a line (16 Table 16-2). -/
def filterSet (s : State) (line : Nat) : List (Nat × SfEntry) :=
  s.sf.filter (fun p => p.1 % 65536 = line % 65536 && homeOf p.1 = homeOf line)

/-- The snoop filter and the die's L2 have room for the lines, each filled as `fl` says: nothing is evicted when they are
taken (04 R96; 16 R383). -/
def RoomFor (s : State) (die : Nat) (fl : Nat → Fill) (lines : List Nat) : Prop :=
  ∀ l ∈ lines, ((aget s.sf l).isSome = true ∨ (filterSet s l).length + lines.length ≤ 16)
    ∧ (holdsL2 s l die = true ∨ lines.length ≤ (freeWays s die (fl l) l).length)

/-- The L1 of the core has room for the lines: 2,048 are 256 KiB (00 Table 0-1). -/
def L1Room (s : State) (core : Nat) (lines : List Nat) : Prop := (l1Held s core).length + lines.length ≤ 2048

/-- No byte differs in its latest value, and none reads differently but where a die keeps values whose write-back a tolerance
has dropped: such a die puts them back when it owns the line (09 R286; 15 R375). -/
def SameBytes (s t : State) : Prop :=
  ∀ pa, exactByte t pa = exactByte s pa
    ∧ ((∀ d, d < 8 → s.keptBy.contains (l2Key (lineOf pa) d) = false) → readByte t pa = readByte s pa)

/-- The state a step later: only time has passed, also for a port that has a lane paused (06 R158; 20 R450; log entry 2). -/
def afterTime (s : State) : State :=
  { s with tick := s.tick + 1, time := (s.time + Config.cyclesOfStep s.tick) % 2 ^ 64,
           ports := s.ports.map (fun p => (p.1, pauseTime (Config.cyclesOfStep s.tick) p.2)) }

/-- A byte of the replay window of a long-haul port, which no VI maps (20 R449). -/
def InWindow (s : State) (pa : Nat) : Prop :=
  ∃ p ∈ s.ports, p.2.longHaul = true ∧ p.2.lhBase.toNat ≤ pa ∧ pa < p.2.lhBase.toNat + windowBytes

/-- `t` is `s` but for messages to hosts and the frames that carry them, which a long-haul port keeps in its window. -/
def OnlyPosts (s t : State) : Prop :=
  t = { s with outbox := t.outbox, ports := t.ports, unsent := t.unsent, mem := t.mem, lineKey := t.lineKey,
               sealed := t.sealed }
  ∧ ∀ pa, ¬ InWindow s pa → readByte t pa = readByte s pa

/-- The same for a message to another device. -/
def OnlyPostsOut (s t : State) : Prop :=
  t = { s with fabOut := t.fabOut, agenda := t.agenda, ports := t.ports, unsent := t.unsent, mem := t.mem,
               lineKey := t.lineKey, sealed := t.sealed }
  ∧ ∀ pa, ¬ InWindow s pa → readByte t pa = readByte s pa

/-- No region of another context holds any of the lines (16 R397, R398). -/
def NoHolder (s : State) (key : Nat) (lines : List Nat) : Prop :=
  ∀ p ∈ s.ctxs, p.1 ≠ key → ∀ l ∈ lines, holdsLine p.2 l = false

/-- `t` is `s` but for the executing context, its frame's words and what the caches record of who holds a line; no byte
reads differently. -/
def OnlyRegsAndCaches (s t : State) (e : Env) : Prop :=
  t = { s with ctxs := t.ctxs, frames := t.frames, l2 := t.l2, sf := t.sf, sfAge := t.sfAge, hostOwn := t.hostOwn,
               tlb := t.tlb, boc := t.boc, bands := t.bands, agenda := t.agenda }
  ∧ (∀ k, k ≠ e.key → aget t.ctxs k = aget s.ctxs k)
  ∧ (∀ k, k ≠ frameKeyOf e.key → aget t.frames k = aget s.frames k)
  ∧ (∃ f, aget t.frames (frameKeyOf e.key) = some f ∧ f = { e.fr with v := f.v, vpoison := f.vpoison })
  ∧ (∀ pa, readByte t pa = readByte s pa)

/-- The same where lines are claimed for writing. -/
def OnlyRegsAndClaims (s t : State) (e : Env) : Prop :=
  t = { s with ctxs := t.ctxs, frames := t.frames, l2 := t.l2, sf := t.sf, sfAge := t.sfAge, hostOwn := t.hostOwn,
               tlb := t.tlb, boc := t.boc, bands := t.bands, agenda := t.agenda, dirty := t.dirty, keptBy := t.keptBy }
  ∧ (∀ k, k ≠ e.key → aget t.ctxs k = aget s.ctxs k)
  ∧ (∀ k, k ≠ frameKeyOf e.key → aget t.frames k = aget s.frames k)
  ∧ (∃ f, aget t.frames (frameKeyOf e.key) = some f ∧ f = { e.fr with v := f.v, vpoison := f.vpoison })
  ∧ SameBytes s t

/-- `t` is `s` but for the executing context, its frame's words, the contents of memory and what the caches record. -/
def OnlyRegsAndMemory (s t : State) (e : Env) : Prop :=
  t = { s with ctxs := t.ctxs, frames := t.frames, l2 := t.l2, sf := t.sf, sfAge := t.sfAge, hostOwn := t.hostOwn,
               tlb := t.tlb, mem := t.mem, dirty := t.dirty, exact := t.exact, keptBy := t.keptBy, poison := t.poison,
               tolFmt := t.tolFmt, lineKey := t.lineKey, sealed := t.sealed }
  ∧ (∀ k, k ≠ e.key → aget t.ctxs k = aget s.ctxs k)
  ∧ (∀ k, k ≠ frameKeyOf e.key → aget t.frames k = aget s.frames k)
  ∧ (∃ f, aget t.frames (frameKeyOf e.key) = some f ∧ f = { e.fr with v := f.v, vpoison := f.vpoison })

/-- The bytes of `n` lanes' stores, in order: a later one of the same address remains (09 R258). -/
def lastByte (cells : List Host.Cell) (a : Nat) (old : Byte) : Byte :=
  cells.foldl (fun b c => if c.1 = a then c.2 else b) old

/-- The byte k that a store of type `ty` writes: T6 elements have two zero bits above them (09 Table 9-5). -/
def storeByte (ty : Nat) (w : Word) (k : Nat) : Byte := ((if ty = 4 then w &&& 0x3F#32 else w).extractLsb' (8 * k) 8)

/-- The cells of lanes that store `n` bytes each at `pa l` from `w l`. -/
def cellsOf (ls : List Nat) (pa : Nat → Nat) (ty n : Nat) (w : Nat → Word) : List Host.Cell :=
  ls.flatMap (fun l => (List.range n).map (fun k => (pa l + k, storeByte ty (w l) k)))

/-! ## What a region does at its commit (07 R200; 10 R292) -/

/-- The bytes of memory that the items of a region store, in program order. -/
def memCellsOf (items : List Item) : List Host.Cell :=
  items.flatMap (fun it => match it with | .store (.mem cells _) => cells | _ => [])
/-- The bytes of the scratchpad that they store. -/
def scratchCellsOf (items : List Item) : List Host.Cell :=
  items.flatMap (fun it => match it with | .store (.scratch cells) => cells | _ => [])
/-- Their layout operations. -/
def layoutOpsOf (items : List Item) : List LayoutOp :=
  items.flatMap (fun it => match it with | .store (.layout ops) => ops | _ => [])
/-- The jobs that they release. -/
def jobsIn (items : List Item) : List Job :=
  items.flatMap (fun it => match it with | .held (.job j) => [j] | _ => [])
/-- The matrix writes that they release. -/
def accOpsOf (items : List Item) : List AccOp :=
  items.flatMap (fun it => match it with | .held (.acc a) => [a] | _ => [])
/-- How many of them are counted in ST. -/
def stItems (items : List Item) : Nat :=
  (items.filter (fun it => match it with | .store (.mem ..) => true | .store (.scratch _) => true | _ => false)).length

/-- The barriers of a cohort (16 is that of its cluster, if any), what a context has noted of its arrivals, and whether a
released accumulator write of it has not completed. -/
structure BarView where
  bar    : Nat → Barrier
  pend   : BitVec 17
  arrph  : BitVec 17
  shared : Bool
  acc    : Bool

/-- A barrier after one more arrival: it completes when its counts are full (10 R304). -/
def arrivedAt (b : Barrier) : Barrier :=
  if b.cm + 1 = b.em ∧ b.cb = b.eb then { b with phase := !b.phase, cm := 0, cb := 0 } else { b with cm := b.cm + 1 }

/-- A barrier operation or an accumulator write of context `key` is released; none where a barrier operation fails, or an
arrival waits for accumulator writes (10 R302, R306; 11 R336). -/
def releaseOne (key : Nat) (v : BarView) : Held → Option BarView
  | .barInit k em eb _ =>
    if (k < 16 ∨ k = 16 ∧ v.shared = true) ∧ (v.bar k).misuse = false
        ∧ ((v.bar k).init = true → (v.bar k).cm = 0 ∧ (v.bar k).cb = 0)
        ∧ em ≤ 4095 ∧ eb ≤ 2 ^ 24 - 1 ∧ (em ≠ 0 ∨ eb ≠ 0) then
      some { v with bar := fun j =>
        if j = k then { v.bar k with em := em, eb := eb, cm := 0, cb := 0, init := true } else v.bar j }
    else none
  | .barArrive k _ =>
    if (k < 16 ∨ k = 16 ∧ v.shared = true) ∧ (v.bar k).init = true ∧ (v.bar k).misuse = false ∧ (v.bar k).cm ≠ (v.bar k).em
        ∧ v.acc = false then
      some { v with
        bar := fun j => if j = k then arrivedAt (v.bar k) else v.bar j
        pend := v.pend ||| (1#17 <<< k)
        arrph := if (v.bar k).phase then v.arrph ||| (1#17 <<< k) else v.arrph &&& ~~~(1#17 <<< k) }
    else none
  | .acc a => some { v with acc := v.acc || a.owners.contains key }
  | .job j => some { v with acc := v.acc || ((j.kind = .accInMem || j.kind = .accInSp) && j.owners.contains key) }
  | .jn _ => some v

/-- The held operations among the items are released in order. -/
def releaseAll (key : Nat) : BarView → List Item → Option BarView
  | v, [] => some v
  | v, .store _ :: rest => releaseAll key v rest
  | v, .held h :: rest =>
    match releaseOne key v h with
    | some v' => releaseAll key v' rest
    | none => none

/-- A context has no store under way, and a region of it, if any, holds no line and no granule. -/
def HoldsNothing (c : Ctx) : Prop :=
  storesOf c.drain = [] ∧ (∀ l, holdsLine c l = false) ∧ ∀ g, holdsGranule c g = false

/-! ## Numbers in registers -/

/-- Container j of a register word, n bits wide (03 R58, 08 R207). -/
def el (n j : Nat) (w : Word) : BitVec n := w.extractLsb' (n * j) n

/-- The integer that n bits hold. -/
def intOf {n : Nat} (signed : Bool) (x : BitVec n) : Int := if signed then x.toInt else (x.toNat : Int)

/-- The least and the greatest integer of n bits. -/
def leastInt (n : Nat) (signed : Bool) : Int := if signed then -(2 ^ (n - 1) : Nat) else 0
def greatestInt (n : Nat) (signed : Bool) : Int := if signed then (2 ^ (n - 1) : Nat) - 1 else (2 ^ n : Nat) - 1

/-- The number of leading zero bits. -/
def leadingZeros {n : Nat} (x : BitVec n) : Nat := ((List.range n).takeWhile (fun i => !x.getMsbD i)).length
/-- The number of one bits. -/
def countOnes {n : Nat} (x : BitVec n) : Nat := ((List.range n).filter (fun i => x.getLsbD i)).length

end Sys2Proof.Claims
end

