-- ==== Sys2Proof/Certificates/Slice0/Obligations.lean ====
section
/-!
DEFINITION. The statements about the machine, for the provers. A docstring names the rules that a statement comes from; the
statement says what the docstring's own words say, and leaves the rest of those rules (their encodings, which
issue_checks and decoding_inverts_encoding take up) to others. Numbers before a rule are chapters of spec/.
-/

open Sys2Proof Sys2Proof.Machine Sys2Proof.Claims

/-! ## Integer instructions (08 R212 to R216) -/

/-- The result of a wrapping integer instruction on one container of n bits (08 Table 8-4), with its fields. -/
def Sys2Proof.Claims.wrapped {n : Nat} (sg : Bool) (a b c : BitVec n) : Instr → Option (FmtA × BitVec n)
  | .add f => some (f, a + b)
  | .sub f => some (f, a - b)
  | .mul f => some (f, a * b)
  | .mulhi f => some (f, BitVec.ofInt n (intOf sg a * intOf sg b / (2 ^ n : Nat)))
  | .mad f => some (f, a * b + c)
  | .min f => some (f, if intOf sg a ≤ intOf sg b then a else b)
  | .max f => some (f, if intOf sg a ≤ intOf sg b then b else a)
  | .abs f => some (f, if intOf sg a < 0 then -a else a)
  | .neg f => some (f, -a)
  | .and f => some (f, a &&& b)
  | .or f => some (f, a ||| b)
  | .xor f => some (f, a ^^^ b)
  | .not f => some (f, ~~~a)
  | .shl f => some (f, a <<< (b.toNat % n))
  | .shr f => some (f, a >>> (b.toNat % n))
  | .sar f => some (f, a.sshiftRight (b.toNat % n))
  | .rotl f => some (f, a.rotateLeft (b.toNat % n))
  | .clz f => some (f, BitVec.ofNat n (leadingZeros a))
  | .popc f => some (f, BitVec.ofNat n (countOnes a))
  | .brev f => some (f, a.reverse)
  | _ => none

/-- 08 R212, Table 8-4: without SAT, each container of the destination holds the instruction's result modulo 2^n; nothing
else changes. -/
def Obligations.integer_results_wrap : Prop :=
  ∀ (s : State) (e : Env) (i : Instr) (f : FmtA),
    (wrapped false 0#1 0#1 0#1 i).map (·.1) = some f → Ready i s e → satOf e f.sat = false →
    ∃ t w, exec i s = .next t ∧ OnlyRegs s t e ∧ DestIs s t e f.d w
      ∧ ∀ l j, j < nc f.ty.toNat →
        wrapped (fmtSigned f.ty.toNat) (el (elemBits f.ty.toNat) j (opWord e f.ty.toNat f.imm f.a l))
          (el (elemBits f.ty.toNat) j (opWord e f.ty.toNat f.imm f.b l))
          (el (elemBits f.ty.toNat) j (opWord e f.ty.toNat f.imm f.c l)) i
        = some (f, el (elemBits f.ty.toNat) j (w l))

/-- The exact result of an instruction that accepts SAT (08 Table 8-4). -/
def Sys2Proof.Claims.exactInt (a b c : Int) : Instr → Option (FmtA × Int)
  | .add f => some (f, a + b)
  | .sub f => some (f, a - b)
  | .mul f => some (f, a * b)
  | .mad f => some (f, a * b + c)
  | .abs f => some (f, max a (-a))
  | .neg f => some (f, -a)
  | _ => none

/-- 08 R212: with SAT or XSAT, each container holds the exact result limited to the range of the type. -/
def Obligations.integer_results_saturate : Prop :=
  ∀ (s : State) (e : Env) (i : Instr) (f : FmtA),
    (exactInt 0 0 0 i).map (·.1) = some f → Ready i s e → satOf e f.sat = true →
    ∃ t w, exec i s = .next t ∧ OnlyRegs s t e ∧ DestIs s t e f.d w
      ∧ ∀ l j, j < nc f.ty.toNat →
        ∃ x, exactInt
            (intOf (fmtSigned f.ty.toNat) (el (elemBits f.ty.toNat) j (opWord e f.ty.toNat f.imm f.a l)))
            (intOf (fmtSigned f.ty.toNat) (el (elemBits f.ty.toNat) j (opWord e f.ty.toNat f.imm f.b l)))
            (intOf (fmtSigned f.ty.toNat) (el (elemBits f.ty.toNat) j (opWord e f.ty.toNat f.imm f.c l))) i
          = some (f, x)
          ∧ intOf (fmtSigned f.ty.toNat) (el (elemBits f.ty.toNat) j (w l))
            = max (leastInt (elemBits f.ty.toNat) (fmtSigned f.ty.toNat))
                (min (greatestInt (elemBits f.ty.toNat) (fmtSigned f.ty.toNat)) x)

/-- 08 R213: `addc` and `subb` are one 32-bit step in each executing lane, with bit L of mask C as carry or borrow in and
out: the word and the new carry together are the exact sum, the word and the new borrow the exact difference. -/
def Obligations.carry_and_borrow : Prop :=
  ∀ (s : State) (e : Env) (f : FmtA),
    (Ready (.addc f) s e →
      ∃ t r w co, exec (.addc f) s = .next t ∧ OnlyRegs s t e ∧ VDestIs s t e f.d w
        ∧ regsOf t e.key = some r ∧ r = { stepped s e with masks := r.masks } ∧ MaskSet e.c.r r e (kOf f.c) co
        ∧ ∀ l, (w l).toNat + 2 ^ 32 * (co l).toNat
          = (opWord e 9 f.imm f.a l).toNat + (opWord e 9 f.imm f.b l).toNat
            + ((maskOf e.c.r (kOf f.c)).getLsbD l).toNat)
    ∧ (Ready (.subb f) s e →
      ∃ t r w bo, exec (.subb f) s = .next t ∧ OnlyRegs s t e ∧ VDestIs s t e f.d w
        ∧ regsOf t e.key = some r ∧ r = { stepped s e with masks := r.masks } ∧ MaskSet e.c.r r e (kOf f.c) bo
        ∧ ∀ l, ((w l).toNat : Int) - 2 ^ 32 * ((bo l).toNat : Int)
          = (opWord e 9 f.imm f.a l).toNat - (opWord e 9 f.imm f.b l).toNat
            - ((maskOf e.c.r (kOf f.c)).getLsbD l).toNat)

/-- 08 R214: `bfx` gives the field of A of width w' = min(w, 32 − o) from bit o, extended as TY says, and 0 for w' = 0;
`bfi` replaces that field of A by the low bits of B and keeps every other bit of A. -/
def Obligations.bit_fields : Prop :=
  ∀ (s : State) (e : Env) (f : FmtA),
    (Ready (.bfx f) s e →
      ∃ t w, exec (.bfx f) s = .next t ∧ OnlyRegs s t e ∧ DestIs s t e f.d w
        ∧ ∀ l (o wd : Nat), o = ((opWord e 9 f.imm f.b l).extractLsb' 0 5).toNat →
          wd = min ((opWord e 9 f.imm f.b l).extractLsb' 8 6).toNat (32 - o) →
          ∀ i, i < 32 → (w l).getLsbD i =
            if i < wd then (opWord e 9 f.imm f.a l).getLsbD (o + i)
            else decide (f.ty = 9) && decide (0 < wd) && (opWord e 9 f.imm f.a l).getLsbD (o + wd - 1))
    ∧ (Ready (.bfi f) s e →
      ∃ t w, exec (.bfi f) s = .next t ∧ OnlyRegs s t e ∧ DestIs s t e f.d w
        ∧ ∀ l (o wd : Nat), o = ((opWord e 9 f.imm f.c l).extractLsb' 0 5).toNat →
          wd = min ((opWord e 9 f.imm f.c l).extractLsb' 8 6).toNat (32 - o) →
          ∀ i, i < 32 → (w l).getLsbD i =
            if o ≤ i ∧ i < o + wd then (opWord e 9 f.imm f.b l).getLsbD (i - o)
            else (opWord e 9 f.imm f.a l).getLsbD i)

/-! ## Comparisons, classes and selection (08 R215, R216, R219, R220) -/

/-- The integer conditions (08 Table 8-5). -/
def Sys2Proof.Claims.IntHolds (cc : Nat) (a b : Int) : Prop :=
  (cc = 0 ∧ a = b) ∨ (cc = 1 ∧ a ≠ b) ∨ (cc = 2 ∧ a < b) ∨ (cc = 3 ∧ a ≤ b) ∨ (cc = 4 ∧ a > b) ∨ (cc = 5 ∧ a ≥ b)

/-- The floating conditions (08 Table 8-7), on exact values. -/
def Sys2Proof.Claims.FloatHolds (cc : Nat) (a b : Sys2Proof.Machine.Num) : Prop :=
  (cc = 7 ∧ (a = .nan ∨ b = .nan)) ∨ (cc = 1 ∧ (a = .nan ∨ b = .nan))
  ∨ (a ≠ .nan ∧ b ≠ .nan ∧
    ((cc = 0 ∧ numCmp a b = .eq) ∨ (cc = 1 ∧ numCmp a b ≠ .eq) ∨ (cc = 2 ∧ numCmp a b = .lt)
      ∨ (cc = 3 ∧ (numCmp a b = .lt ∨ numCmp a b = .eq)) ∨ (cc = 4 ∧ numCmp a b = .gt)
      ∨ (cc = 5 ∧ (numCmp a b = .gt ∨ numCmp a b = .eq)) ∨ cc = 6))

/-- 08 R216, R219, R220: `icmp`, `fcmp` and `fcls` write bit L of mask D in each executing lane with the condition on
container 0, ANDed with the OP4 mask; other bits, the v and g registers and the rest of the state stay. -/
def Obligations.compare_writes_mask : Prop :=
  ∀ (s : State) (e : Env) (f : FmtA),
    (Ready (.icmp f) s e →
      ∃ t bit, exec (.icmp f) s = .next t ∧ OnlyRegs s t e ∧ MaskIs s t e (kOf f.d) bit
        ∧ ∀ l, bit l = true ↔ (op4Mask e).getLsbD l = true ∧
          IntHolds f.c.toNat
            (intOf (fmtSigned f.ty.toNat) (el (elemBits f.ty.toNat) 0 (opWord e f.ty.toNat f.imm f.a l)))
            (intOf (fmtSigned f.ty.toNat) (el (elemBits f.ty.toNat) 0 (opWord e f.ty.toNat f.imm f.b l))))
    ∧ (Ready (.fcmp f) s e →
      ∃ t bit, exec (.fcmp f) s = .next t ∧ OnlyRegs s t e ∧ MaskIs s t e (kOf f.d) bit
        ∧ ∀ l, bit l = true ↔ (op4Mask e).getLsbD l = true ∧
          FloatHolds f.c.toNat
            (modify f.absA f.negA (ieeeVal f.ty.toNat (elem f.ty.toNat (opWord e f.ty.toNat f.imm f.a l) 0)))
            (modify f.absB f.negB (ieeeVal f.ty.toNat (elem f.ty.toNat (opWord e f.ty.toNat f.imm f.b l) 0))))
    ∧ (Ready (.fcls f) s e →
      ∃ t bit, exec (.fcls f) s = .next t ∧ OnlyRegs s t e ∧ MaskIs s t e (kOf f.d) bit
        ∧ ∀ l, bit l = true ↔ (op4Mask e).getLsbD l = true ∧
          (opWord e 9 f.imm f.b l).getLsbD
            (classBit f.ty.toNat (elem f.ty.toNat (opWord e f.ty.toNat f.imm f.a l) 0)) = true)

/-- 08 R215, R239, R240, R241, R243: `sel`, `mov` and `movi` move 32-bit values, `rsr` reads a special register, `fmtr` the
format register, `mpop` a count, a bit index or a half of a mask; only the destination changes. -/
def Sys2Proof.Claims.MovesAndReads : Prop :=
  ∀ (s : State) (e : Env) (f : FmtA),
    (Ready (.sel f) s e →
      ∃ t, exec (.sel f) s = .next t ∧ OnlyRegs s t e ∧ DestIs s t e f.d (fun l =>
        if (maskOf e.c.r (kOf f.c)).getLsbD l then opWord e 9 f.imm f.a l else opWord e 9 f.imm f.b l))
    ∧ (Ready (.mov f) s e →
      ∃ t, exec (.mov f) s = .next t ∧ OnlyRegs s t e ∧ DestIs s t e f.d (opWord e 9 f.imm f.a))
    ∧ (Ready (.movi f) s e →
      ∃ t, exec (.movi f) s = .next t ∧ OnlyRegs s t e ∧ DestIs s t e f.d (opWord e 9 f.imm f.a))
    ∧ (Ready (.rsr f) s e → f.a ≠ 395 → f.a ≠ 396 →
      ∃ t, exec (.rsr f) s = .next t ∧ OnlyRegs s t e ∧ DestIs s t e f.d (specialWord s e f.a.toNat))
    ∧ (Ready (.fmtr f) s e →
      ∃ t, exec (.fmtr f) s = .next t ∧ OnlyRegs s t e ∧ DestIs s t e f.d (fun _ => e.c.r.fmt))
    ∧ (Ready (.mpop f) s e →
      ∃ t w, exec (.mpop f) s = .next t ∧ OnlyRegs s t e ∧ DestIs s t e f.d (fun _ => w)
        ∧ ((f.c = 0 ∧ w = BitVec.ofNat 32 (countOnes (maskOf e.c.r (kOf f.a))))
          ∨ (f.c = 1 ∧ w.toNat ≤ 64 ∧ (∀ i, i < w.toNat → (maskOf e.c.r (kOf f.a)).getLsbD i = false)
            ∧ (w.toNat < 64 → (maskOf e.c.r (kOf f.a)).getLsbD w.toNat = true))
          ∨ (f.c = 2 ∧ w = (maskOf e.c.r (kOf f.a)).extractLsb' 0 32)
          ∨ (f.c = 3 ∧ w = (maskOf e.c.r (kOf f.a)).extractLsb' 32 32)))

/-- 06 R158: a read of `s.time` (395) gives the low word of the time count and keeps its high word; the next read of
`s.timehi` (396) gives the word kept, or the high word of the count when none is kept, and lets it go. -/
def Sys2Proof.Claims.TimeLatch : Prop :=
  ∀ (s : State) (e : Env) (f : FmtA), Ready (.rsr f) s e → (f.a = 395 ∨ f.a = 396) →
    (movUniform f = true ∨ e.exec ≠ 0) →
    ∃ t r w, exec (.rsr f) s = .next t ∧ OnlyRegs s t e ∧ VDestIs s t e f.d (fun _ => w)
      ∧ regsOf t e.key = some r
      ∧ r = { stepped s e with g := r.g, gpoison := r.gpoison, wroteG := r.wroteG, latch := r.latch }
      ∧ GDestIs e.c.r r f.d w
      ∧ (f.a = 395 → w = BitVec.ofNat 32 s.time ∧ r.latch = some (BitVec.ofNat 32 (s.time / 2 ^ 32)))
      ∧ (f.a = 396 → w = e.c.r.latch.getD (BitVec.ofNat 32 (s.time / 2 ^ 32)) ∧ r.latch = none)

/-- 06 R158; 08 R215, R239, R240, R241, R243: moves and reads of state, the time latch among them. -/
def Obligations.moves_and_reads : Prop :=
  Sys2Proof.Claims.MovesAndReads ∧ Sys2Proof.Claims.TimeLatch

/-- 08 R205, R240 to R242: `wsr`, `fmts` and `mset` act once for the context, and only when their executing set is not
empty: a half of the seed (and `rand`'s count restarts), the format register, a whole mask. -/
def Sys2Proof.Claims.GroupStateWrites : Prop :=
  ∀ (s : State) (e : Env) (f : FmtA),
    (∀ i, (i = .wsr f ∨ i = .fmts f ∨ i = .mset f) → Ready i s e → e.exec = 0 →
      ∃ t, exec i s = .next t ∧ RegsAre s t e (stepped s e))
    ∧ (Ready (.wsr f) s e → e.exec ≠ 0 →
      ∃ t r, exec (.wsr f) s = .next t ∧ RegsAre s t e r
        ∧ r = { stepped s e with
            seed := (if f.d = 398 then opWord e 9 f.imm f.a 0 else e.c.r.seed.extractLsb' 32 32)
              ++ (if f.d = 398 then e.c.r.seed.extractLsb' 0 32 else opWord e 9 f.imm f.a 0)
            randCnt := 0, randRuns := 0, seedReset := true, wroteG := r.wroteG })
    ∧ (Ready (.fmts f) s e → e.exec ≠ 0 → fmtBad (opWord e 9 f.imm f.a 0) = false →
      ∃ t, exec (.fmts f) s = .next t ∧ RegsAre s t e { stepped s e with fmt := opWord e 9 f.imm f.a 0 })
    ∧ (Ready (.mset f) s e → e.exec ≠ 0 →
      ∃ t r, exec (.mset f) s = .next t ∧ RegsAre s t e r
        ∧ r = { stepped s e with masks := r.masks, wroteM := r.wroteM }
        ∧ (∀ j, j ≠ kOf f.d → maskOf r j = maskOf e.c.r j)
        ∧ ((f.c = 0 ∧ isG f.a = true ∧ maskOf r (kOf f.d) = gAt e.c.r (f.a.toNat - 255) ++ gAt e.c.r (f.a.toNat - 256))
          ∨ (f.c = 0 ∧ isConst f.a = true ∧ maskOf r (kOf f.d) = (constWord 9 f.a.toNat).signExtend 64)
          ∨ (f.c = 0 ∧ isImm f.a = true ∧ maskOf r (kOf f.d) = f.imm.signExtend 64)
          ∨ (f.c = 1 ∧ maskOf r (kOf f.d) = maskOf e.c.r (kOf f.a) &&& maskOf e.c.r (kOf f.b))
          ∨ (f.c = 2 ∧ maskOf r (kOf f.d) = maskOf e.c.r (kOf f.a) ||| maskOf e.c.r (kOf f.b))
          ∨ (f.c = 3 ∧ maskOf r (kOf f.d) = maskOf e.c.r (kOf f.a) &&& ~~~(maskOf e.c.r (kOf f.b)))
          ∨ (f.c = 4 ∧ maskOf r (kOf f.d) = maskOf e.c.r (kOf f.a) ^^^ maskOf e.c.r (kOf f.b))
          ∨ (f.c = 5 ∧ maskOf r (kOf f.d) = ~~~(maskOf e.c.r (kOf f.a)))))

/-- 03 R82, 08 R241: `fmts` of a value with a reserved bit, a reserved rounding code or a format code above 10 traps
ILLEGAL_ENCODING at its own PC and leaves the format register. -/
def Sys2Proof.Claims.FmtsRefusesBadValues : Prop :=
  ∀ (s : State) (e : Env) (f : FmtA), Ready (.fmts f) s e → e.exec ≠ 0 →
    fmtBad (opWord e 9 f.imm f.a 0) = true →
    ∃ t, exec (.fmts f) s = .next t ∧ Traps s t e (plainTrap 0x01 e.c.r.pc)

/-- 08 R244: `rand` gives each executing lane the mixing function of the seed, its global lane number and the count of
calls, and counts the call. -/
def Sys2Proof.Claims.RandomBits : Prop :=
  ∀ (s : State) (e : Env) (f : FmtA), Ready (.rand f) s e →
    ∃ t, exec (.rand f) s = .next t ∧ OnlyRegs s t e
      ∧ VDestIs s t e f.d (fun l => randMix e.c.r.seed (globalLane e l) e.c.r.randCnt)
      ∧ regsOf t e.key = some { stepped s e with randCnt := e.c.r.randCnt + 1, randRuns := e.c.r.randRuns + 1 }

/-- 08 R205, R240 to R242, R244; 03 R82: instructions that write state of the group, the values that `fmts` refuses, and
`rand`. -/
def Obligations.group_state_writes : Prop :=
  Sys2Proof.Claims.GroupStateWrites ∧ Sys2Proof.Claims.FmtsRefusesBadValues ∧ Sys2Proof.Claims.RandomBits

/-- 06 R149, R146, R147; 07 R175, R177: `nop` only goes to the next slot; `pblk` sets the prefix state for COUNT + 1
instructions; `xpfx` queues its NW + 1 words and takes no place of a `pblk`. -/
def Obligations.nop_and_prefixes : Prop :=
  ∀ (s : State) (e : Env),
    (∀ f, Ready (.nop f) s e → ∃ t, exec (.nop f) s = .next t ∧ RegsAre s t e (stepped s e))
    ∧ (∀ f, Ready (.pblk f) s e → ∃ t, exec (.pblk f) s = .next t ∧ RegsAre s t e { stepped s e with
        pblk := some { left := f.count.toNat + 1, pat := f.pat, mask := maskOf e.c.r f.mask.toNat } })
    ∧ (∀ f, Ready (.xpfx f) s e → ∃ t, exec (.xpfx f) s = .next t ∧ RegsAre s t e { stepped s e with
        pblk := e.c.r.pblk
        xwords := if f.nw = 0 then [f.xw0] else if f.nw = 1 then [f.xw0, f.xw1] else [f.xw0, f.xw1, f.xw2] })

/-! ## Floating point (08 R217 to R221) and conversions (R222 to R226) -/

/-- The exact result of a rounded floating instruction (08 Table 8-6). -/
def Sys2Proof.Claims.exactFloat (rdn : Bool) (a b c : Sys2Proof.Machine.Num) : Instr → Option (FmtA × Sys2Proof.Machine.Num)
  | .fadd f => some (f, numAdd rdn a b)
  | .fsub f => some (f, numAdd rdn a (numNeg b))
  | .fmul f => some (f, numMul a b)
  | .fma f => some (f, numAdd rdn (numMul a b) c)
  | _ => none

/-- Container j of operands A, B and C of a floating instruction, after the modifiers of A and B. -/
def Sys2Proof.Claims.floatA (e : Env) (f : FmtA) (l j : Nat) : Sys2Proof.Machine.Num :=
  modify f.absA f.negA (ieeeVal f.ty.toNat (el (elemBits f.ty.toNat) j (opWord e f.ty.toNat f.imm f.a l)).toNat)
def Sys2Proof.Claims.floatB (e : Env) (f : FmtA) (l j : Nat) : Sys2Proof.Machine.Num :=
  modify f.absB f.negB (ieeeVal f.ty.toNat (el (elemBits f.ty.toNat) j (opWord e f.ty.toNat f.imm f.b l)).toNat)
def Sys2Proof.Claims.floatC (e : Env) (f : FmtA) (l j : Nat) : Sys2Proof.Machine.Num :=
  ieeeVal f.ty.toNat (el (elemBits f.ty.toNat) j (opWord e f.ty.toNat f.imm f.c l)).toNat

/-- 08 R217, R221: `fadd`, `fsub`, `fmul` and `fma` round the exact result once, in each container, under the mode and the
overflow table in force, and clamp it under SAT. -/
def Obligations.float_results_round_once : Prop :=
  ∀ (s : State) (e : Env) (i : Instr) (f : FmtA),
    (exactFloat false .nan .nan .nan i).map (·.1) = some f → Ready i s e →
    ∃ t w, exec i s = .next t ∧ OnlyRegs s t e ∧ DestIs s t e f.d w
      ∧ ∀ l j, j < nc f.ty.toNat →
        ∃ x y, exactFloat (decide (modeOf e = 3)) (floatA e f l j) (floatB e f l j) (floatC e f l j) i = some (f, x)
          ∧ y = roundTo f.ty.toNat (modeOf e) (ovtInForce s e) x
          ∧ el (elemBits f.ty.toNat) j (w l)
            = BitVec.ofNat _ (if satOf e f.sat then sat01 f.ty.toNat y else y)

/-- 08 R218: `fmin` and `fmax` give one of their operands: the other one when one is a NaN, the canonical NaN when both are,
−0 below +0. -/
def Sys2Proof.Claims.FloatMinMax : Prop :=
  ∀ (s : State) (e : Env) (f : FmtA) (mx : Bool) (i : Instr), i = (if mx then .fmax f else .fmin f) → Ready i s e →
    ∃ (t : State) (w : Nat → Word) (x : Nat → Nat → Sys2Proof.Machine.Num), exec i s = .next t ∧ OnlyRegs s t e ∧ DestIs s t e f.d w
      ∧ ∀ l j, j < nc f.ty.toNat →
        el (elemBits f.ty.toNat) j (w l) = BitVec.ofNat _ (roundTo f.ty.toNat 0 0 (x l j))
        ∧ (floatA e f l j = .nan → x l j = floatB e f l j)
        ∧ (floatB e f l j = .nan → x l j = floatA e f l j)
        ∧ (floatA e f l j ≠ .nan → floatB e f l j ≠ .nan →
          (x l j = floatA e f l j ∨ x l j = floatB e f l j)
          ∧ numLt (if mx then x l j else floatA e f l j) (if mx then floatA e f l j else x l j) = false
          ∧ numLt (if mx then x l j else floatB e f l j) (if mx then floatB e f l j else x l j) = false)

/-- 08 R217, 03 R62: `fabs` clears and `fneg` inverts the sign bit of each container, a NaN gives the canonical NaN; `frnd`
rounds each container to an integral value under the mode. -/
def Sys2Proof.Claims.FloatSignAndIntegral : Prop :=
  ∀ (s : State) (e : Env) (f : FmtA),
    (Ready (.fabs f) s e →
      ∃ t w, exec (.fabs f) s = .next t ∧ OnlyRegs s t e ∧ DestIs s t e f.d w ∧ ∀ l j, j < nc f.ty.toNat →
        ∀ b, b = el (elemBits f.ty.toNat) j (opWord e f.ty.toNat f.imm f.a l) →
          (ieeeVal f.ty.toNat b.toNat = .nan → (el (elemBits f.ty.toNat) j (w l)).toNat = nanBits f.ty.toNat)
          ∧ (ieeeVal f.ty.toNat b.toNat ≠ .nan → ∀ k, k < elemBits f.ty.toNat →
            (el (elemBits f.ty.toNat) j (w l)).getLsbD k = (b.getLsbD k && decide (k + 1 < elemBits f.ty.toNat))))
    ∧ (Ready (.fneg f) s e →
      ∃ t w, exec (.fneg f) s = .next t ∧ OnlyRegs s t e ∧ DestIs s t e f.d w ∧ ∀ l j, j < nc f.ty.toNat →
        ∀ b, b = el (elemBits f.ty.toNat) j (opWord e f.ty.toNat f.imm f.a l) →
          (ieeeVal f.ty.toNat b.toNat = .nan → (el (elemBits f.ty.toNat) j (w l)).toNat = nanBits f.ty.toNat)
          ∧ (ieeeVal f.ty.toNat b.toNat ≠ .nan → ∀ k, k < elemBits f.ty.toNat →
            (el (elemBits f.ty.toNat) j (w l)).getLsbD k = (b.getLsbD k != decide (k + 1 = elemBits f.ty.toNat))))
    ∧ (Ready (.frnd f) s e →
      ∃ t w, exec (.frnd f) s = .next t ∧ OnlyRegs s t e ∧ DestIs s t e f.d w ∧ ∀ l j, j < nc f.ty.toNat →
        (∀ neg m x, floatA e f l j = .fin neg m x →
          el (elemBits f.ty.toNat) j (w l)
            = BitVec.ofNat _ (roundTo f.ty.toNat 0 0 (.fin neg (roundInt (modeOf e) neg m x).natAbs 0)))
        ∧ ((∀ neg m x, floatA e f l j ≠ .fin neg m x) →
          el (elemBits f.ty.toNat) j (w l) = BitVec.ofNat _ (roundTo f.ty.toNat 0 0 (floatA e f l j))))

/-- 08 R218, R217: `fmin`, `fmax`, `fabs`, `fneg` and `frnd`. -/
def Obligations.float_selections : Prop :=
  Sys2Proof.Claims.FloatMinMax ∧ Sys2Proof.Claims.FloatSignAndIntegral

/-- 03 R75, Table 3-7: rounding a finite value whose magnitude lies between two neighbouring encodings of FP32, BF16 or
FP16 gives one of the two: `lo`, the lower one, where the value is representable; the one towards zero under RTZ, the
upper value under RUP, the lower under RDN; the nearer one under RNE and RNA, and where both are as near the even one
(RNE) or the greater magnitude (RNA). -/
def Sys2Proof.Claims.RoundingIsCorrect : Prop :=
  ∀ (f mode : Nat) (ovt : Word) (neg : Bool) (m : Nat) (x : Int), f ≤ 2 → mode ≤ 4 → 0 < m →
    ∀ (lo ml : Nat) (el_ : Int), lo + 1 < infBits f → ieeeVal f lo = .fin false ml el_ →
    ∀ (mh : Nat) (eh : Int), ieeeVal f (lo + 1) = .fin false mh eh →
    -- lo ≤ m · 2^x < lo + 1
    numCmp (.fin false ml el_) (.fin false m x) ≠ .gt → numCmp (.fin false m x) (.fin false mh eh) = .lt →
    (roundTo f mode ovt (.fin neg m x) = (if neg then signBit f else 0) + lo
      ∨ (roundTo f mode ovt (.fin neg m x) = (if neg then signBit f else 0) + (lo + 1)
        ∧ numCmp (.fin false ml el_) (.fin false m x) = .lt))
    ∧ (mode = 1 ∨ (mode = 2 ∧ neg = true) ∨ (mode = 3 ∧ neg = false)
        ∨ numCmp (.fin false ml el_) (.fin false m x) = .eq →
      roundTo f mode ovt (.fin neg m x) = (if neg then signBit f else 0) + lo)
    ∧ ((mode = 2 ∧ neg = false) ∨ (mode = 3 ∧ neg = true) → numCmp (.fin false ml el_) (.fin false m x) = .lt →
      roundTo f mode ovt (.fin neg m x) = (if neg then signBit f else 0) + (lo + 1))
    ∧ (mode = 4 → ∀ c, numAdd false (.fin false ml el_) (.fin false mh eh) = c →
      (numCmp (numScale 1 (.fin false m x)) c = .lt →
        roundTo f mode ovt (.fin neg m x) = (if neg then signBit f else 0) + lo)
      ∧ (numCmp (numScale 1 (.fin false m x)) c ≠ .lt →
        roundTo f mode ovt (.fin neg m x) = (if neg then signBit f else 0) + (lo + 1)))
    ∧ (mode = 0 → ∀ c, numAdd false (.fin false ml el_) (.fin false mh eh) = c →
      (numCmp (numScale 1 (.fin false m x)) c = .lt →
        roundTo f mode ovt (.fin neg m x) = (if neg then signBit f else 0) + lo)
      ∧ (numCmp (numScale 1 (.fin false m x)) c = .gt →
        roundTo f mode ovt (.fin neg m x) = (if neg then signBit f else 0) + (lo + 1))
      ∧ (numCmp (numScale 1 (.fin false m x)) c = .eq →
        roundTo f mode ovt (.fin neg m x) = (if neg then signBit f else 0) + (lo + lo % 2)))

/-- 03 R60, R62, R66, R75, R76: a value that a format represents rounds to its own encoding in every mode; a NaN rounds to
the canonical NaN. -/
def Sys2Proof.Claims.RepresentableValuesRoundToThemselves : Prop :=
  ∀ (mode : Nat) (ovt : Word),
    (∀ f b, f ≤ 2 → b < 2 ^ elemBits f →
      roundTo f mode ovt (ieeeVal f b) = (if ieeeVal f b = .nan then nanBits f else b))
    ∧ (∀ b, b < 256 → roundTo 3 mode ovt (tVal 3 b) = b)
    ∧ (∀ b, b < 64 → roundTo 4 mode ovt (tVal 4 b) = b)

/-- 03 R74, R75: rounding is correct, and exact where the value is representable. -/
def Obligations.rounding_is_correct : Prop :=
  Sys2Proof.Claims.RoundingIsCorrect ∧ Sys2Proof.Claims.RepresentableValuesRoundToThemselves

/-- 08 R222, R223, R225, R226; 03 R81: `cvt`, `cvti`, `cvtf`, `unpk` and `qnt` round one exact value into container 0 of the
destination and clear the rest of it. -/
def Sys2Proof.Claims.Conversions : Prop :=
  ∀ (s : State) (e : Env) (f : FmtA),
    (Ready (.cvt f) s e →
      ∃ t, exec (.cvt f) s = .next t ∧ OnlyRegs s t e ∧ DestIs s t e f.d (fun l => BitVec.ofNat 32
        (roundTo f.ty.toNat (modeOf e) (ovtInForce s e)
          (numVal f.c.toNat (elem f.c.toNat (opWord e f.c.toNat f.imm f.a l) 0)))))
    ∧ (Ready (.cvti f) s e →
      ∃ t, exec (.cvti f) s = .next t ∧ OnlyRegs s t e ∧ DestIs s t e f.d (fun l => BitVec.ofNat 32
        (roundTo f.ty.toNat (modeOf e) (ovtInForce s e)
          (numScale (max (-255) (min 255 (opWord e 9 f.imm f.b l).toInt))
            (ieeeVal f.c.toNat (elem f.c.toNat (opWord e f.c.toNat f.imm f.a l) 0))))))
    ∧ (Ready (.cvtf f) s e →
      ∃ t, exec (.cvtf f) s = .next t ∧ OnlyRegs s t e ∧ DestIs s t e f.d (fun l => BitVec.ofNat 32
        (roundTo f.ty.toNat (modeOf e) (ovtInForce s e)
          (numScale (-(max (-255) (min 255 (opWord e 9 f.imm f.b l).toInt)))
            (numOfInt (intVal f.c.toNat (elem f.c.toNat (opWord e f.c.toNat f.imm f.a l) 0)))))))
    ∧ (Ready (.unpk f) s e →
      ∃ t, exec (.unpk f) s = .next t ∧ OnlyRegs s t e ∧ DestIs s t e f.d (fun l => BitVec.ofNat 32
        (roundTo (if f.ty.toNat ≤ 4 then 0 else if fmtSigned f.ty.toNat then 9 else 10) 0 0
          (numVal f.ty.toNat (elem f.ty.toNat (opWord e f.ty.toNat f.imm f.a l) f.c.toNat)))))
    ∧ (Ready (.qnt f) s e →
      ∃ t w, exec (.qnt f) s = .next t ∧ OnlyRegs s t e ∧ DestIs s t e f.d w ∧ ∀ l,
        ((opWord e 9 f.imm f.b l).extractLsb' 0 8 = 255 →
          w l = if f.ty = 3 then 0x80 else if f.ty = 4 then 0x20 else 0)
        ∧ (∀ sc, sc = (opWord e 9 f.imm f.b l).extractLsb' 0 8 → sc ≠ 255 →
          w l = BitVec.ofNat 32 (roundTo f.ty.toNat (modeOf e) (ovtInForce s e)
            (numScale (127 - (sc.toNat : Int)) (ieeeVal 0 (opWord e 0 f.imm f.a l).toNat)))))

/-- 08 R224; 18 R428: `pack` rounds A and B into containers 0 and 1 of a 16-bit type, or into containers 2h and 2h + 1 of an
8-bit type or T6, whose other containers keep their bits and their poison. -/
def Sys2Proof.Claims.PackKeepsTheOtherHalf : Prop :=
  ∀ (s : State) (e : Env) (f : FmtA), Ready (.pack f) s e →
    ∃ t r w halves, exec (.pack f) s = .next t ∧ OnlyRegs s t e ∧ VDestPart s t e f.d halves w
      ∧ halves = (if elemBits f.ty.toNat = 16 then 3 else if f.c = 0 then 1 else 2)
      ∧ regsOf t e.key = some r ∧ r = { stepped s e with g := r.g, gpoison := r.gpoison, wroteG := r.wroteG }
      ∧ (∀ n, gAt r n = if operandOf f.d = .greg n then w 0 else gAt e.c.r n)
      ∧ (∀ n, agetD r.gpoison 0 n = if operandOf f.d = .greg n then agetD e.c.r.gpoison 0 n &&& ~~~halves
          else agetD e.c.r.gpoison 0 n)
      ∧ ∀ l j, j < nc f.ty.toNat → ∀ src, src = (if f.ty.toNat ≤ 4 then 0 else if fmtSigned f.ty.toNat then 9 else 10) →
        (j = 2 * f.c.toNat → el (elemBits f.ty.toNat) j (w l) = BitVec.ofNat _
          (roundTo f.ty.toNat (modeOf e) (ovtInForce s e) (numVal src (opWord e src f.imm f.a l).toNat)))
        ∧ (j = 2 * f.c.toNat + 1 → el (elemBits f.ty.toNat) j (w l) = BitVec.ofNat _
          (roundTo f.ty.toNat (modeOf e) (ovtInForce s e) (numVal src (opWord e src f.imm f.b l).toNat)))
        ∧ (j ≠ 2 * f.c.toNat → j ≠ 2 * f.c.toNat + 1 →
          el (elemBits f.ty.toNat) j (w l) = el (elemBits f.ty.toNat) j (oldWord e f.d l))

/-- 08 R222 to R226: the conversions and `pack`.
Where the spec is silent the model's choice stands: log entry 28. -/
def Obligations.conversions : Prop :=
  Sys2Proof.Claims.Conversions ∧ Sys2Proof.Claims.PackKeepsTheOtherHalf

/-! ## Special functions (08 R227 to R230) -/

/-- The number of a special function (08 Table 8-11). -/
def Sys2Proof.Claims.functionOf : Instr → Option (FmtA × Nat)
  | .rcp f => some (f, 0)
  | .rsq f => some (f, 1)
  | .sqrt f => some (f, 2)
  | .exp2 f => some (f, 3)
  | .log2 f => some (f, 4)
  | .sin f => some (f, 5)
  | .cos f => some (f, 6)
  | .tanh f => some (f, 7)
  | _ => none

/-- 08 R227, R228: each special function acts on every container of A after ABSA and NEGA, with SAT; `rcp` and `sqrt` in
every format, and every function in BF16 and FP16, round its exact value once, in the mode or in RNE; a NaN gives the
canonical NaN. -/
def Sys2Proof.Claims.SpecialFunctions : Prop :=
  ∀ (s : State) (e : Env) (i : Instr) (f : FmtA) (fn : Nat), functionOf i = some (f, fn) → Ready i s e →
    ∃ (t : State) (w : Nat → Word) (y : Nat → Nat → Nat), exec i s = .next t ∧ OnlyRegs s t e ∧ DestIs s t e f.d w
      ∧ ∀ l j, j < nc f.ty.toNat →
        el (elemBits f.ty.toNat) j (w l) = BitVec.ofNat _ (if satOf e f.sat then sat01 f.ty.toNat (y l j) else y l j)
        ∧ (floatA e f l j = .nan → y l j = nanBits f.ty.toNat)
        ∧ (fn = 0 ∨ fn = 2 →
          y l j = roundTo f.ty.toNat (modeOf e) (ovtInForce s e) (specialVal fn (floatA e f l j)))
        ∧ (fn ≠ 0 → fn ≠ 2 → f.ty ≠ 0 →
          y l j = roundTo f.ty.toNat 0 (ovtInForce s e) (specialVal fn (floatA e f l j)))
        ∧ (f.ty = 0 → fn = 1 ∨ fn = 3 ∨ fn = 4 ∨ fn = 7 →
          y l j = faithful fn (ovtInForce s e) (specialVal fn (floatA e f l j)))
        ∧ y l j = specialFn fn f.ty.toNat (modeOf e) (ovtInForce s e) (floatA e f l j)

/-- 08 R227, R228, Table 8-12: the results of the special operands, and what "faithful" leaves: the encoding next to the
exact value on the side of zero, the one after it, or an overflow. -/
def Sys2Proof.Claims.SpecialOperands : Prop :=
  (∀ (neg : Bool) (x : Int),
    specialVal 0 (.inf neg) = .fin neg 0 0 ∧ specialVal 0 (.fin neg 0 x) = .inf neg
    ∧ specialVal 1 (.inf true) = .nan ∧ specialVal 1 (.inf false) = .fin false 0 0
    ∧ specialVal 1 (.fin neg 0 x) = .inf neg
    ∧ specialVal 2 (.inf true) = .nan ∧ specialVal 2 (.inf false) = .inf false
    ∧ specialVal 2 (.fin neg 0 x) = .fin neg 0 0
    ∧ specialVal 3 (.inf true) = .fin false 0 0 ∧ specialVal 3 (.inf false) = .inf false
    ∧ roundTo 0 0 0 (specialVal 3 (.fin neg 0 x)) = 0x3F800000
    ∧ specialVal 4 (.inf true) = .nan ∧ specialVal 4 (.inf false) = .inf false
    ∧ specialVal 4 (.fin neg 0 x) = .inf true
    ∧ specialVal 5 (.inf neg) = .nan ∧ specialVal 5 (.fin neg 0 x) = .fin neg 0 0
    ∧ specialVal 6 (.inf neg) = .nan ∧ specialVal 6 (.fin neg 0 x) = .fin false 1 0
    ∧ specialVal 7 (.inf neg) = .fin neg 1 0 ∧ specialVal 7 (.fin neg 0 x) = .fin neg 0 0)
  ∧ (∀ (m : Nat) (x : Int), 0 < m →
    specialVal 1 (.fin true m x) = .nan ∧ specialVal 2 (.fin true m x) = .nan ∧ specialVal 4 (.fin true m x) = .nan)
  ∧ (∀ (fn : Nat) (ovt : Word) (neg : Bool) (m : Nat) (x : Int),
    ∃ lo, lo = roundTo 0 1 ovt (.fin false m x)
      ∧ (faithful fn ovt (.fin neg m x) = (if neg then signBit 0 else 0) + lo
        ∨ faithful fn ovt (.fin neg m x) = (if neg then signBit 0 else 0) + (lo + 1)
        ∨ (infBits 0 ≤ lo + 1 ∧ faithful fn ovt (.fin neg m x) = overflow ovt 0 neg)))

/-- 08 Table 8-11: what the numbers that are rounded have to do with the functions. A coarse number v stands to `rcp` of a as
v · a stands to 1, to `sqrt` of a as v · v to a, to `rsq` of a as v · v · a to 1; `exp2` of an integer k is 2^k, one more in
the argument doubles the result, and `log2` of 2^k is k; `tanh` is odd (08 R229); a turn more or less changes no `sin` or
`cos` (08 R230). -/
def Sys2Proof.Claims.FunctionValues : Prop :=
  (∀ (m : Nat) (x : Int), 0 < m → ∀ (a : Sys2Proof.Machine.Num), a = .fin false m x →
    ∀ (mv : Nat) (xv : Int) (v : Sys2Proof.Machine.Num), 0 < mv → mv < 2 ^ 33 → v = .fin false mv xv →
      numCmp v (specialVal 0 a) = numCmp (numMul v a) (.fin false 1 0)
      ∧ numCmp v (specialVal 1 a) = numCmp (numMul (numMul v v) a) (.fin false 1 0)
      ∧ numCmp v (specialVal 2 a) = numCmp (numMul v v) a)
  ∧ (∀ (neg : Bool) (m : Nat) (x : Int), 0 < m → specialVal 0 (.fin neg m x) =
      (if neg then numNeg (specialVal 0 (.fin false m x)) else specialVal 0 (.fin false m x)))
  ∧ (∀ (neg : Bool) (k : Nat), k < 4096 →
      specialVal 3 (.fin neg k 0) = .fin false 1 (if neg then -(k : Int) else k))
  ∧ (∀ (m d : Nat), m + 2 ^ d < 2 ^ (d + 12) →
      specialVal 3 (.fin false (m + 2 ^ d) (-(d : Int))) = numScale 1 (specialVal 3 (.fin false m (-(d : Int)))))
  ∧ (∀ (l : Nat) (x : Int), specialVal 4 (.fin false (2 ^ l) x) = numOfInt (l + x))
  ∧ (∀ (neg : Bool) (m : Nat) (x : Int), specialVal 7 (.fin (!neg) m x) = numNeg (specialVal 7 (.fin neg m x)))
  ∧ (∀ (fn m d : Nat), fn = 5 ∨ fn = 6 → 0 < m →
      specialVal fn (.fin false (m + 2 ^ d) (-(d : Int))) = specialVal fn (.fin false m (-(d : Int))))

/-- Two results stand in this order, unless one is no number. -/
def Sys2Proof.Claims.NotAbove (f a b : Nat) : Prop :=
  ieeeVal f a ≠ .nan → ieeeVal f b ≠ .nan → numCmp (ieeeVal f a) (ieeeVal f b) ≠ .gt

/-- 08 R229: in every format `exp2`, `log2` and `tanh` rise with their operand and `rsq` falls; `tanh` is never beyond 1; an
overflow that the table makes a NaN stands in no order. -/
def Sys2Proof.Claims.FunctionsAreMonotonic : Prop :=
  ∀ (f : Nat) (mode : Nat) (ovt : Word) (x y : Nat) (a b : Sys2Proof.Machine.Num), f ≤ 2 →
    x < 2 ^ elemBits f → y < 2 ^ elemBits f → a = ieeeVal f x → b = ieeeVal f y → a ≠ .nan → b ≠ .nan →
    numCmp a b ≠ .gt →
    NotAbove f (specialFn 3 f mode ovt a) (specialFn 3 f mode ovt b)
    ∧ (numCmp (.fin false 0 0) a ≠ .gt → NotAbove f (specialFn 4 f mode ovt a) (specialFn 4 f mode ovt b))
    ∧ NotAbove f (specialFn 7 f mode ovt a) (specialFn 7 f mode ovt b)
    ∧ (numCmp (.fin false 0 0) a = .lt → NotAbove f (specialFn 1 f mode ovt b) (specialFn 1 f mode ovt a))
    ∧ numCmp (numAbs (ieeeVal f (specialFn 7 f mode ovt a))) (.fin false 1 0) ≠ .gt

/-- 08 R230, Table 8-11: an FP32 `sin` or `cos` result lies within 2^-22 of the exact value; at a multiple j / 4 the
result is exact in every format; `sin` is odd, `cos` even, and a zero result is +0. -/
def Sys2Proof.Claims.TurnsAreBounded : Prop :=
  ∀ (fn mode : Nat) (ovt : Word), fn = 5 ∨ fn = 6 →
    (∀ (x : Nat) (neg : Bool) (m : Nat) (xe : Int), x < 2 ^ 32 → ieeeVal 0 x = .fin neg m xe →
      ∃ (no nx : Bool) (mo mx : Nat) (eo ex : Int), ieeeVal 0 (specialFn fn 0 mode ovt (.fin neg m xe)) = .fin no mo eo
        ∧ specialVal fn (.fin neg m xe) = .fin nx mx ex
        ∧ ∀ c : Int, c ≤ eo → c ≤ ex → c ≤ -22 →
          (signedMant no (mo * 2 ^ (eo - c).toNat) - signedMant nx (mx * 2 ^ (ex - c).toNat)).natAbs ≤ 2 ^ (-22 - c).toNat)
    ∧ (∀ (f j : Nat) (neg : Bool), f ≤ 2 → 0 < j →
      ∀ q, q = (j + (if fn = 6 then 1 else 0)) % 4 →
        specialFn fn f mode ovt (.fin neg j (-2)) =
          if q % 2 = 0 then 0
          else roundTo f 0 0 (.fin (decide (q = 3) != (decide (fn = 5) && neg)) 1 0))
    ∧ (∀ (f x : Nat) (neg : Bool) (m : Nat) (xe : Int), f ≤ 2 → x < 2 ^ elemBits f → ieeeVal f x = .fin neg m xe → 0 < m →
      ∀ y, y = specialFn fn f mode ovt (.fin neg m xe) →
        (fn = 6 → specialFn fn f mode ovt (.fin (!neg) m xe) = y)
        ∧ (fn = 5 → y % signBit f ≠ 0 →
          specialFn fn f mode ovt (.fin (!neg) m xe) = (y + signBit f) % (2 * signBit f)))

/-- 08 R227 to R230: the special functions, their special operands, what they have to do with the functions' values, their
order and the bounds of `sin` and `cos`.
Where the spec is silent the model's choice stands: log entry 12. -/
def Obligations.special_functions : Prop :=
  Sys2Proof.Claims.SpecialFunctions ∧ Sys2Proof.Claims.SpecialOperands ∧ Sys2Proof.Claims.FunctionValues
  ∧ Sys2Proof.Claims.FunctionsAreMonotonic ∧ Sys2Proof.Claims.TurnsAreBounded

/-! ## Exchanges between lanes (08 R231 to R238) -/

/-- The lane that a lane exchange reads, for receiving lane L (08 R232, R234). -/
def Sys2Proof.Claims.sourceLane (e : Env) (l : Nat) : Instr → Option (FmtA × Int)
  | .shfl f => some (f, e.g.first + (opWord e 10 f.imm f.b l).toNat % e.g.width)
  | .shup f => some (f, l - (opWord e 10 f.imm f.b l).toNat)
  | .shdn f => some (f, l + (opWord e 10 f.imm f.b l).toNat)
  | .xbp f => some (f, 8 * (l / 8) + ((opWord e 10 f.imm f.b l).extractLsb' (3 * (l % 8)) 3).toNat)
  | _ => none

/-- 08 R231, R232, R234: `shfl`, `shup`, `shdn` and `xbp` give lane L the register of the source lane, or operand C where
that lane is none of the group's or has exited. -/
def Sys2Proof.Claims.LaneMoves : Prop :=
  ∀ (s : State) (e : Env) (i : Instr) (f : FmtA), (sourceLane e 0 i).map (·.1) = some f → Ready i s e →
    ∃ (t : State) (w : Nat → Word), exec i s = .next t ∧ OnlyRegs s t e ∧ DestIs s t e f.d w
      ∧ ∀ l, l < 64 → ∃ src, sourceLane e l i = some (f, src)
        ∧ (∀ k : Nat, src = k → e.g.first ≤ k → k < e.g.first + e.g.width → e.fr.live.getLsbD k = true →
          w l = vSeen e f.a.toNat k)
        ∧ ((src < e.g.first ∨ e.g.first + e.g.width ≤ src ∨ e.fr.live.getLsbD src.toNat = false) →
          w l = opWord e 9 f.imm f.c l)

/-- 08 R231: the word that an exchange sees of a lane: the present one of a lane that the context holds; of a lane that the
sibling arm holds, the word as it stood when that arm's region opened, which is the present one where the region has not
written it. -/
def Sys2Proof.Claims.SiblingLanesShowCommittedWords : Prop :=
  ∀ (e : Env) (n lane : Nat),
    ((∀ c, e.sib = some c → c.live.getLsbD lane = false) → vSeen e n lane = vAt e.fr n lane)
    ∧ (∀ c, e.sib = some c → (∀ r, c.region = some r → aget r.vold (64 * n + lane) = none) →
      vSeen e n lane = vAt e.fr n lane)
    ∧ (∀ c r w, e.sib = some c → c.live.getLsbD lane = true → c.region = some r →
      aget r.vold (64 * n + lane) = some w → vSeen e n lane = w)

/-- 08 R233, R234: `qswp` and `qbc` give lane L the register of a lane of its quad; `xbld` builds the pattern word. -/
def Sys2Proof.Claims.QuadsAndPatterns : Prop :=
  ∀ (s : State) (e : Env) (f : FmtA),
    (Ready (.qswp f) s e →
      ∃ t, exec (.qswp f) s = .next t ∧ OnlyRegs s t e
        ∧ DestIs s t e f.d (fun l => vSeen e f.a.toNat (l ^^^ (f.b.toNat - 448))))
    ∧ (Ready (.qbc f) s e →
      ∃ t, exec (.qbc f) s = .next t ∧ OnlyRegs s t e
        ∧ DestIs s t e f.d (fun l => vSeen e f.a.toNat (4 * (l / 4) + (f.b.toNat - 448))))
    ∧ (Ready (.xbld f) s e →
      ∃ t w, exec (.xbld f) s = .next t ∧ OnlyRegs s t e ∧ DestIs s t e f.d w
        ∧ ∀ l, (w l).extractLsb' 24 8 = 0 ∧ ∀ k a, k < 8 → a = (opWord e 9 f.imm f.a l).toNat % 8 →
          ((w l).extractLsb' (3 * k) 3).toNat
            = if f.c = 0 then (k + a) % 8 else if f.c = 1 then k ^^^ a else if f.c = 2 then a else 7 - k)

/-- 08 R231 to R234: values move between lanes, and between the lanes of quads and patterns.
Where the spec is silent the model's choice stands: log entry 76 for the poison that an exchange consumes. -/
def Obligations.lane_moves : Prop :=
  Sys2Proof.Claims.LaneMoves ∧ Sys2Proof.Claims.SiblingLanesShowCommittedWords ∧ Sys2Proof.Claims.QuadsAndPatterns

/-- 08 R235, R236: `vote` writes 1 or 0 into every executing lane, `ballot` all 64 bits of mask D, from the executing
lanes whose A is not zero; also where a `pblk` leaves no lane. -/
def Sys2Proof.Claims.VotesAndBallots : Prop :=
  ∀ (s : State) (e : Env) (f : FmtA) (b : LaneMask),
    (∀ l, l < 64 → b.getLsbD l = (e.exec.getLsbD l && decide (opWord e 9 f.imm f.a l ≠ 0))) →
    (Ready (.vote f) s e →
      ∃ t w, exec (.vote f) s = .next t ∧ OnlyRegs s t e ∧ DestIs s t e f.d (fun _ => if w then 1 else 0)
        ∧ (f.c = 0 → (w = true ↔ b ≠ 0)) ∧ (f.c = 1 → (w = true ↔ b = e.exec))
        ∧ (f.c = 2 → (w = true ↔ ∀ k l, k < 64 → l < 64 → e.exec.getLsbD k = true → e.exec.getLsbD l = true →
          opWord e 9 f.imm f.a k = opWord e 9 f.imm f.a l)))
    ∧ (Ready (.ballot f) s e →
      ∃ t r, exec (.ballot f) s = .next t ∧ RegsAre s t e r
        ∧ r = { stepped s e with masks := r.masks, wroteM := r.wroteM }
        ∧ maskOf r (kOf f.d) = b ∧ ∀ j, j ≠ kOf f.d → maskOf r j = maskOf e.c.r j)

/-- 08 R237, R238: `lred` combines each container of A over the executing lanes in ascending order and writes the result into
each of them; `lscan` writes into each the combination over the executing lanes up to it, or below it, the identity where
there is none. An integer `add` is the sum modulo 2^n of the lanes; `and`, `or` and `xor` combine their bits. -/
def Sys2Proof.Claims.ReductionsAndScans : Prop :=
  ∀ (s : State) (e : Env) (i : Instr) (f : FmtA), (i = .lred f ∨ i = .lscan f) → Ready i s e →
    ∃ (t : State) (w : Nat → Word), exec i s = .next t ∧ OnlyRegs s t e ∧ DestIs s t e f.d w
      ∧ ∀ l j, l < 64 → j < nc f.ty.toNat → e.exec.getLsbD l = true →
        ∀ ls, ls = (lanesOf e.exec).filter (fun k =>
            if i = .lred f then true else if f.c.toNat < 8 then k ≤ l else k < l) →
        el (elemBits f.ty.toNat) j (w l) = BitVec.ofNat _ ((reduceLanes e f j ls).getD (identity f))
        ∧ ∀ xs, xs = ls.map (fun k => el (elemBits f.ty.toNat) j (opWord e f.ty.toNat f.imm f.a k)) →
          fmtInt f.ty.toNat = true →
          (f.c.toNat % 8 = 0 → satOf e f.sat = false → el (elemBits f.ty.toNat) j (w l) = xs.foldl (· + ·) 0)
          ∧ (f.c.toNat % 8 = 3 → el (elemBits f.ty.toNat) j (w l) = xs.foldl (· &&& ·) (BitVec.allOnes _))
          ∧ (f.c.toNat % 8 = 4 → el (elemBits f.ty.toNat) j (w l) = xs.foldl (· ||| ·) 0)
          ∧ (f.c.toNat % 8 = 5 → el (elemBits f.ty.toNat) j (w l) = xs.foldl (· ^^^ ·) 0)

/-- 08 R235 to R237: votes, ballots, reductions and scans.
Where the spec is silent the model's choice stands: log entries 24 and 74. -/
def Obligations.votes_and_reductions : Prop :=
  Sys2Proof.Claims.VotesAndBallots ∧ Sys2Proof.Claims.ReductionsAndScans

/-! ## Loads and stores by address (09 R253 to R265; 16 R397 to R404) -/

/-- Every executing lane's address is aligned and translates to `x`, its page allows the access, and what is read there is
whole and not poisoned (09 R262, Table 9-7). -/
def Sys2Proof.Claims.CanRead (s : State) (e : Env) (a : Access) (size : Nat) (addr : Nat → Word64) (x : Nat → Xlat) :
    Prop :=
  ∀ l, l < 64 → e.exec.getLsbD l = true →
    (addr l).toNat % size = 0 ∧ translate s (eCore e) (eVi e) (addr l) = .ok (x l)
    ∧ pageRefuses (viOf s (eVi e)).desc a (x l) = false ∧ (readXlat (seen s e) (x l) size).isSome = true
    ∧ ((∀ n ∈ linesRead (seen s e) (x l) size, isPoisoned s n = false)
      ∨ forwarded (ownBytes s e) (x l).pa size = true)

/-- Every executing lane's address is aligned and translates to `x`, and its page allows the access. -/
def Sys2Proof.Claims.CanWrite (s : State) (e : Env) (a : Access) (size : Nat) (addr : Nat → Word64) (x : Nat → Xlat) :
    Prop :=
  ∀ l, l < 64 → e.exec.getLsbD l = true →
    (addr l).toNat % size = 0 ∧ translate s (eCore e) (eVi e) (addr l) = .ok (x l)
    ∧ pageRefuses (viOf s (eVi e)).desc a (x l) = false

/-- 09 R253 to R257, R264; 16 R397: `ld` and `ldg` place into D of each executing lane the bytes at its address, extended,
as the context's own pending stores leave them; the lines read join the read set of the region; no byte changes. A lane
whose bytes all come from those stores needs no clean line (log entry 20); the value is bound at issue and the LD count
stays as it is (log entry 40). -/
def Sys2Proof.Claims.LoadsReadMemory : Prop :=
  ∀ (s : State) (e : Env) (i : Instr) (f : FmtM) (x : Nat → Xlat) (s1 : State) (e1 : Env) (lines : List Nat)
    (fl : Nat → Fill),
    (i = .ld f ∨ i = .ldg f) → Ready i s e → e1 = actEnv i s e → s1 = actState i s e →
    CanRead s1 e1 .load (sizeOf_ f.ty.toNat) (addrM e f) x →
    lines = distinct ((lanesOf e.exec).flatMap (fun l => linesRead (seen s1 e1) (x l) (sizeOf_ f.ty.toNat))) →
    fl = xlatFill s (eVi e) f.hint.toNat ((lanesOf e.exec).map x) → loadWaits s1 e1 fl lines = false →
    RoomFor s (eDie e) fl lines → L1Room s (eCore e) lines →
    ∃ (t : State) (w : Nat → Word) (c : Ctx) (r : Region), exec i s = .next t ∧ OnlyRegsAndCaches s t e
      ∧ DestIs s t e f.d w
      ∧ (∀ l, l < 64 → e.exec.getLsbD l = true → ∃ bytes,
        readXlat (seen s1 e1) (x l) (sizeOf_ f.ty.toNat) = some bytes ∧ w l = extendLoad f.ty.toNat (leNat bytes))
      ∧ aget t.ctxs e.key = some c ∧ c = { e.c with r := c.r, region := c.region } ∧ c.region = some r
      ∧ (r.nonspec = false → ∀ n ∈ lines, r.reads.contains n = true)

/-- 09 R264, R286; 15 R375: what a context's loads see is what its die sees with its own pending stores over it, the youngest
byte of each address; a die sees memory, and where it keeps a line whose write-back a tolerance has dropped, the values
written. -/
def Sys2Proof.Claims.LoadsSeeOwnStores : Prop :=
  ∀ (s : State) (e : Env) (ens : List (List Host.Cell)) (pa : Nat),
    (∀ marks : List Host.Cell → List LineMark, pending e.c = ens.map (fun cells => .mem cells (marks cells)) →
      readByte (seen s e) pa = lastByte ens.flatten pa (readByte (dieSees s (eDie e)) pa))
    ∧ (∀ die, s.keptBy.contains (l2Key (lineOf pa) die) = false → readByte (dieSees s die) pa = readByte s pa)
    ∧ (∀ die, arising s.exact = true → s.keptBy.contains (l2Key (lineOf pa) die) = true →
      readByte (dieSees s die) pa = exactByte s pa)
    ∧ ∀ (pte : Word64) (level n : Nat), pteCmpr pte = false →
      readXlat (seen s e) { pa := pa, pte := pte, level := level, path := [] } n = some (readBytes (seen s e) pa n)

/-- 09 R257, R264: loads read memory, and the stores of their own context first. -/
def Obligations.loads_read_memory : Prop :=
  Sys2Proof.Claims.LoadsReadMemory ∧ Sys2Proof.Claims.LoadsSeeOwnStores

/-- 09 R258, R264; 07 R200; 16 R398: `st` and `stg` in a speculative region put one entry with the bytes of every executing
lane, in lane order, into the store buffer and claim its lines, with the class of their pages (04 R96) and the tolerance of
the tolerant ones (09 R286); no byte of memory changes before the region commits. -/
def Sys2Proof.Claims.StoresWaitForCommit : Prop :=
  ∀ (s : State) (e : Env) (i : Instr) (f : FmtM) (x : Nat → Xlat) (s1 : State) (e1 : Env) (cells : List Host.Cell)
    (fl : Nat → Fill),
    (i = .st f ∨ i = .stg f) → Ready i s e → e1 = actEnv i s e → s1 = actState i s e →
    CanWrite s1 e1 .store (sizeOf_ f.ty.toNat) (addrM e f) x → e.exec ≠ 0 → isNonspec e1 = false →
    cells = cellsOf (lanesOf e.exec) (fun l => (x l).pa) f.ty.toNat (sizeOf_ f.ty.toNat)
      (opWord e f.ty.toNat 0 f.d) →
    fl = xlatFill s (eVi e) f.hint.toNat ((lanesOf e.exec).map x) → storeWaits s1 e1 fl (cellLines cells) = false →
    RoomFor s (eDie e) fl (cellLines cells) → NoHolder s e.key (cellLines cells) →
    ∃ (t : State) (c : Ctx) (r r0 : Region) (marks : List LineMark), exec i s = .next t ∧ OnlyRegsAndClaims s t e
      ∧ SameV s t ∧ aget t.ctxs e.key = some c
      ∧ c = { e.c with r := stepped s e, region := some r, nSt := e.c.nSt + 1 }
      ∧ e1.c.region = some r0 ∧ r.items = r0.items ++ [.store (.mem cells marks)] ∧ r.nSt = r0.nSt + 1
      ∧ (∀ n ∈ cellLines cells, r.writes.contains n = true)
      ∧ (∀ n, (∃ l, e.exec.getLsbD l = true ∧ l < 64 ∧ pteTol (x l).pte = true ∧ n = lineOf (x l).pa)
          ↔ ∃ m ∈ marks, m.line = n ∧ m.tol.isSome = true)
      ∧ ∀ n p, (∃ l, e.exec.getLsbD l = true ∧ l < 64 ∧ n = lineOf (x l).pa ∧ p = ptePclass (x l).pte)
          ↔ ∃ m ∈ marks, m.line = n ∧ m.pclass = p

/-- 16 R404; 09 R258: in a non-speculative region `st` and `stg` are performed at once: each byte of memory holds what the
last executing lane stored there, every other byte what it held. -/
def Sys2Proof.Claims.NonspeculativeStoresPerform : Prop :=
  ∀ (s : State) (e : Env) (i : Instr) (f : FmtM) (x : Nat → Xlat) (s1 : State) (e1 : Env) (cells : List Host.Cell)
    (fl : Nat → Fill),
    (i = .st f ∨ i = .stg f) → Ready i s e → e1 = actEnv i s e → s1 = actState i s e →
    CanWrite s1 e1 .store (sizeOf_ f.ty.toNat) (addrM e f) x → e.exec ≠ 0 → isNonspec e1 = true →
    cells = cellsOf (lanesOf e.exec) (fun l => (x l).pa) f.ty.toNat (sizeOf_ f.ty.toNat)
      (opWord e f.ty.toNat 0 f.d) →
    fl = xlatFill s (eVi e) f.hint.toNat ((lanesOf e.exec).map x) → storeWaits s1 e1 fl (cellLines cells) = false →
    RoomFor s (eDie e) fl (cellLines cells) → NoHolder s e.key (cellLines cells) →
    ∃ t, exec i s = .next t ∧ OnlyRegsAndMemory s t e ∧ SameV s t ∧ regsOf t e.key = some (stepped s e)
      ∧ ∀ a, exactByte t a = lastByte cells a (exactByte s a)
        ∧ ((∀ d, d < 8 → s.keptBy.contains (l2Key (lineOf a) d) = false) →
          readByte t a = lastByte cells a (readByte s a))

/-- 09 R258; 16 R398, R404: stores wait for commit, and are performed at once in a non-speculative region. -/
def Obligations.stores_wait_for_commit : Prop :=
  Sys2Proof.Claims.StoresWaitForCommit ∧ Sys2Proof.Claims.NonspeculativeStoresPerform

/-- The cells that a scratchpad store of the executing lanes writes, in ascending lane order. -/
def Sys2Proof.Claims.spCells (e : Env) (f : FmtM) : List Host.Cell :=
  cellsOf (lanesOf e.exec) (fun l => (addrM e f l).toNat) f.ty.toNat (sizeOf_ f.ty.toNat) (opWord e f.ty.toNat 0 f.d)

/-- 09 R259, R260; 16 R399: `ldsp` reads and `stsp` stores scratchpad bytes of the cohort below SPBYTES; a load sees the
stores of its own context, its granules join the read set, and it waits for committed stores of another context to them; a
store waits in the store buffer until commit. No byte of memory is touched. -/
def Sys2Proof.Claims.ScratchpadAccesses : Prop :=
  ∀ (s : State) (e : Env) (f : FmtM),
    (∀ l, l < 64 → e.exec.getLsbD l = true →
      (addrM e f l).toNat + sizeOf_ f.ty.toNat ≤ pkSpBytes e.la.pkt
      ∧ (addrM e f l).toNat % sizeOf_ f.ty.toNat = 0) →
    (Ready (.ldsp f) s e →
      (∀ l, l < 64 → e.exec.getLsbD l = true →
        scratchLock s [e.key] (eTag e) (addrM e f l).toNat (sizeOf_ f.ty.toNat) = false) →
      ∃ (t : State) (w : Nat → Word) (c : Ctx) (r : Region), exec (.ldsp f) s = .next t ∧ OnlyRegs s t e
        ∧ DestIs s t e f.d w ∧ aget t.ctxs e.key = some c ∧ c.region = some r
        ∧ (∀ l, l < 64 → e.exec.getLsbD l = true →
          (r.nonspec = false → r.granules.contains ((addrM e f l).toNat / 128) = true)
          ∧ ∀ ens : List (List Host.Cell), pending e.c = ens.map (fun cells => .scratch cells) →
            w l = extendLoad f.ty.toNat (leNat ((List.range (sizeOf_ f.ty.toNat)).map (fun k =>
              lastByte ens.flatten ((addrM e f l).toNat + k) (agetD e.co.sp 0 ((addrM e f l).toNat + k)))))))
    ∧ (Ready (.ldsp f) s e → ∀ l, l < 64 → e.exec.getLsbD l = true →
      scratchLock s [e.key] (eTag e) (addrM e f l).toNat (sizeOf_ f.ty.toNat) = true →
      ∃ t, exec (.ldsp f) s = .next t ∧ OnlyRegs s t e ∧ SameV s t
        ∧ regsOf t e.key = some { e.c.r with ovt := ovtInForce s e })
    ∧ (Ready (.stsp f) s e → e.exec ≠ 0 → isNonspec (actEnv (.stsp f) s e) = false →
      ∃ (t : State) (c : Ctx) (r r0 : Region), exec (.stsp f) s = .next t ∧ OnlyRegsAndCaches s t e ∧ SameV s t
        ∧ aget t.ctxs e.key = some c ∧ c = { e.c with r := stepped s e, region := some r, nSt := e.c.nSt + 1 }
        ∧ (actEnv (.stsp f) s e).c.region = some r0 ∧ r.items = r0.items ++ [.store (.scratch (spCells e f))])

/-- 16 R399, R404; 09 R258, R259: in a non-speculative region `stsp` writes at once, unless committed stores of others to
its bytes are not yet performed: each byte of the cohort's scratchpad holds what the last executing lane stored there,
every other byte what it held. -/
def Sys2Proof.Claims.NonspeculativeScratchStores : Prop :=
  ∀ (s : State) (e : Env) (f : FmtM), Ready (.stsp f) s e → e.exec ≠ 0 →
    isNonspec (actEnv (.stsp f) s e) = true →
    (∀ l, l < 64 → e.exec.getLsbD l = true →
      (addrM e f l).toNat + sizeOf_ f.ty.toNat ≤ pkSpBytes e.la.pkt
      ∧ (addrM e f l).toNat % sizeOf_ f.ty.toNat = 0) →
    cellsLocked s [e.key] (eTag e) (spCells e f) = false →
    ∃ t co, exec (.stsp f) s = .next t ∧ regsOf t e.key = some (stepped s e)
      ∧ t = { s with ctxs := t.ctxs, frames := t.frames, groups := t.groups, cohorts := t.cohorts, agenda := t.agenda }
      ∧ aget t.cohorts (eTag e) = some co ∧ co = { e.co with sp := co.sp }
      ∧ (∀ a, agetD co.sp 0 a = lastByte (spCells e f) a (agetD e.co.sp 0 a))
      ∧ ∀ k, k ≠ eTag e → aget t.cohorts k = aget s.cohorts k

/-- 09 R259, R262, Table 9-7: a scratchpad access past SPBYTES traps SCRATCH_RANGE in its lowest such lane, a misaligned one
inside it MISALIGNED. -/
def Sys2Proof.Claims.ScratchpadTraps : Prop :=
  ∀ (s : State) (e : Env) (f : FmtM) (i : Instr) (l : Nat), (i = .ldsp f ∨ i = .stsp f) → Ready i s e →
    l < 64 → e.exec.getLsbD l = true →
    ((∀ k, k < l → e.exec.getLsbD k = true → (addrM e f k).toNat + sizeOf_ f.ty.toNat ≤ pkSpBytes e.la.pkt) →
      pkSpBytes e.la.pkt < (addrM e f l).toNat + sizeOf_ f.ty.toNat →
      ∃ t, exec i s = .next t ∧ Traps s t e (accessTrap 0x08 l 9 0 (addrM e f l) e.c.r.pc))
    ∧ ((∀ k, k < 64 → e.exec.getLsbD k = true → (addrM e f k).toNat + sizeOf_ f.ty.toNat ≤ pkSpBytes e.la.pkt) →
      (∀ k, k < l → e.exec.getLsbD k = true → (addrM e f k).toNat % sizeOf_ f.ty.toNat = 0) →
      (addrM e f l).toNat % sizeOf_ f.ty.toNat ≠ 0 →
      ∃ t, exec i s = .next t ∧ Traps s t e (accessTrap 0x0B l 9 0 (addrM e f l) e.c.r.pc))

/-- 09 R261: `prf` traps never; it may bring lines into the caches, and changes no register, no byte and no read set. -/
def Sys2Proof.Claims.PrefetchChangesNoValue : Prop :=
  ∀ (s : State) (e : Env) (f : FmtM) (s1 : State) (e1 : Env) (xs : List Xlat), Ready (.prf f) s e →
    e1 = actEnv (.prf f) s e → s1 = actState (.prf f) s e → xs = prfXlats f e1 s1 →
    RoomFor s (eDie e) (prfFill f e1 s1 xs) (distinct (xs.map (fun x => lineOf x.pa))) →
    L1Room s (eCore e) (distinct (xs.map (fun x => lineOf x.pa))) →
    ∃ t c, exec (.prf f) s = .next t ∧ OnlyRegsAndCaches s t e ∧ SameV s t ∧ aget t.ctxs e.key = some c
      ∧ c = { e1.c with r := stepped s e }

/-- 09 R259 to R262: scratchpad accesses with their traps, and prefetches. -/
def Obligations.scratchpad_and_prefetch : Prop :=
  Sys2Proof.Claims.ScratchpadAccesses ∧ Sys2Proof.Claims.NonspeculativeScratchStores ∧ Sys2Proof.Claims.ScratchpadTraps
  ∧ Sys2Proof.Claims.PrefetchChangesNoValue

/-- 09 R262, Table 9-7; 16 R390, R399: the trap of an access is that of the lowest lane at the first position that fails:
alignment, then translation, then permission, then, once the lines need not be waited for, poison. A compressed page whose
block tag is not one of Table 9-10 forbids the read (09 R285); a load whose bytes all come from the context's own stores
meets no poison (log entry 20). -/
def Obligations.access_trap_order : Prop :=
  ∀ (s : State) (e : Env) (i : Instr) (f : FmtM) (acc : Access) (kind l : Nat) (s1 : State) (e1 : Env) (x : Nat → Xlat),
    ((i = .ld f ∨ i = .ldg f) ∧ acc = .load ∧ kind = 1) ∨ ((i = .st f ∨ i = .stg f) ∧ acc = .store ∧ kind = 2) →
    Ready i s e → e1 = actEnv i s e → s1 = actState i s e → l < 64 → e.exec.getLsbD l = true →
    ∀ (ok1 ok2 ok3 ok4 : Nat → Prop),
    (∀ k, ok1 k ↔ (addrM e f k).toNat % sizeOf_ f.ty.toNat = 0) →
    (∀ k, ok2 k ↔ translate s1 (eCore e) (eVi e) (addrM e f k) = .ok (x k)) →
    (∀ k, ok3 k ↔ pageRefuses (viOf s (eVi e)).desc acc (x k) = false
      ∧ (kind = 1 → (readXlat (seen s1 e1) (x k) (sizeOf_ f.ty.toNat)).isSome = true)) →
    (∀ k, ok4 k ↔ (∀ n ∈ linesRead (seen s1 e1) (x k) (sizeOf_ f.ty.toNat), isPoisoned s n = false)
      ∨ forwarded (ownBytes s1 e1) (x k).pa (sizeOf_ f.ty.toNat) = true) →
    ((∀ k, k < l → e.exec.getLsbD k = true → ok1 k) → ¬ ok1 l →
      ∃ t, exec i s = .next t ∧ Traps s t e (accessTrap 0x0B l kind 0 (addrM e f l) e.c.r.pc))
    ∧ ((∀ k, k < 64 → e.exec.getLsbD k = true → ok1 k) →
      (∀ k, k < l → e.exec.getLsbD k = true → ok2 k) →
      ∀ level, translate s1 (eCore e) (eVi e) (addrM e f l) = .error level →
      ∃ t, exec i s = .next t ∧ Traps s t e (accessTrap 0x09 l kind level (addrM e f l) e.c.r.pc))
    ∧ ((∀ k, k < 64 → e.exec.getLsbD k = true → ok1 k ∧ ok2 k) →
      (∀ k, k < l → e.exec.getLsbD k = true → ok3 k) → ¬ ok3 l →
      ∃ t, exec i s = .next t ∧ Traps s t e (accessTrap 0x0A l kind 0 (addrM e f l) e.c.r.pc))
    ∧ (kind = 1 → (∀ k, k < 64 → e.exec.getLsbD k = true → ok1 k ∧ ok2 k ∧ ok3 k) →
      (∀ k, k < l → e.exec.getLsbD k = true → ok4 k) → ¬ ok4 l →
      loadWaits s1 e1 (xlatFill s (eVi e) f.hint.toNat ((lanesOf e.exec).map x))
        (distinct ((lanesOf e.exec).flatMap (fun k => linesRead (seen s1 e1) (x k) (sizeOf_ f.ty.toNat)))) = false →
      ∃ t, exec i s = .next t ∧ Traps s t e (accessTrap 0x0D l kind 0 (addrM e f l) e.c.r.pc))

/-! ## Atomics, reduction stores, handles (09 R266 to R273) -/

/-- The word that an atomic leaves in memory (09 Table 9-9): lane, old value m. -/
def Sys2Proof.Claims.atomicNew (e : Env) (l : Nat) (m : Word) : Instr → Option (FmtM × Word)
  | .aadd f => some (f, m + vAt e.fr f.d.toNat l)
  | .amin f => some (f, if intOf (f.ty = 9) m ≤ intOf (f.ty = 9) (vAt e.fr f.d.toNat l) then m else vAt e.fr f.d.toNat l)
  | .amax f => some (f, if intOf (f.ty = 9) (vAt e.fr f.d.toNat l) ≤ intOf (f.ty = 9) m then m else vAt e.fr f.d.toNat l)
  | .aand f => some (f, m &&& vAt e.fr f.d.toNat l)
  | .aor f => some (f, m ||| vAt e.fr f.d.toNat l)
  | .axor f => some (f, m ^^^ vAt e.fr f.d.toNat l)
  | .axchg f => some (f, vAt e.fr f.d.toNat l)
  | .acas f => some (f, if m = vAt e.fr f.d.toNat l then vAt e.fr (f.d.toNat + 1) l else m)
  | .afadd f => some (f, BitVec.ofNat 32 (roundTo 0 0 e.c.r.ovt
      (numAdd false (ieeeVal 0 m.toNat) (ieeeVal 0 (vAt e.fr f.d.toNat l).toNat))))
  | _ => none

/-- The word at an address of a memory given byte by byte. -/
def Sys2Proof.Claims.wordAt (m : Nat → Byte) (a : Nat) : Word := m (a + 3) ++ m (a + 2) ++ m (a + 1) ++ m a

/-- Lanes in order, each replacing the word at its address by `new lane old` and keeping the old one: the memory and the old
word of each lane (09 R267). -/
def Sys2Proof.Claims.serially (new : Nat → Word → Word) (pa : Nat → Nat) :
    List Nat → (Nat → Byte) → (Nat → Byte) × (Nat → Word)
  | [], m => (m, fun _ => 0)
  | l :: r, m =>
    let old := wordAt m (pa l)
    let w := new l old
    let q := serially new pa r
      (fun a => if pa l ≤ a ∧ a < pa l + 4 then w.extractLsb' (8 * (a - pa l)) 8 else m a)
    (q.1, fun k => if k = l then old else q.2 k)

/-- The context goes to the next slot and changes nothing else of itself: a region boundary, at which it takes its copy of
the overflow table for the region that opens there (03 R79; 07 R197). -/
def Sys2Proof.Claims.moved (s : State) (e : Env) : CtxRegs :=
  { e.c.r with
    pc := nextSlot e.c.r.pc, pblk := pblkNext e.c.r.pblk, xwords := e.c.r.xwords.tail, ovt := (viOf s (eVi e)).ovt }

/-- 09 R266 to R268, Table 9-9; 15 R375: an atomic reads and writes the latest word at each executing lane's address
indivisibly, lane after lane in ascending order; D receives the old word; every other byte and register stays. -/
def Sys2Proof.Claims.AtomicsRunLaneByLane : Prop :=
  ∀ (s : State) (e : Env) (i : Instr) (f : FmtM) (x : Nat → Xlat) (s1 : State) (e1 : Env) (lines : List Nat)
    (fl : Nat → Fill) (new : Nat → Word → Word),
    (∀ l m, atomicNew e l m i = some (f, new l m)) → Ready i s e → e1 = actEnv i s e → s1 = actState i s e →
    CanRead s1 e1 .atomic 4 (addrM e f) x → lines = distinct ((lanesOf e.exec).map (fun l => lineOf (x l).pa)) →
    fl = xlatFill s (eVi e) f.hint.toNat ((lanesOf e.exec).map x) → storeWaits s1 e1 fl lines = false →
    RoomFor s (eDie e) fl lines → NoHolder s e.key lines →
    ∃ t, exec i s = .next t ∧ OnlyRegsAndMemory s t e
      ∧ (∀ a, exactByte t a = (serially new (fun l => (x l).pa) (lanesOf e.exec) (exactByte s)).1 a
        ∧ ((∀ l, l < 64 → e.exec.getLsbD l = true → a < (x l).pa ∨ (x l).pa + 4 ≤ a) →
          (∀ d, d < 8 → s.keptBy.contains (l2Key (lineOf a) d) = false) → readByte t a = readByte s a))
      ∧ VDestIs s t e f.d (serially new (fun l => (x l).pa) (lanesOf e.exec) (exactByte s)).2
      ∧ aget t.ctxs e.key = some { e.c with r := moved s e, ibuf := none }

/-- 09 R269 to R271: `redst` hands the word of each executing lane to the home of its address and goes on; the home adds
the words to the latest values one after another, each sum rounded to FP32 under RNE; a lane's add changes no other byte. -/
def Sys2Proof.Claims.ReductionStoresAddAtHome : Prop :=
  (∀ (s : State) (e : Env) (f : FmtM) (x : Nat → Xlat),
    Ready (.redst f) s e → CanWrite (actState (.redst f) s e) e .redst 4 (addrM e f) x → e.exec ≠ 0 →
    ∃ t op, exec (.redst f) s = .next t
      ∧ t = { s with ctxs := t.ctxs, redsts := t.redsts, agenda := s.agenda ++ [.redstHomeAdd s.nextId],
                     nextId := s.nextId + 1, tlb := t.tlb }
      ∧ (∀ k, k ≠ e.key → aget t.ctxs k = aget s.ctxs k)
      ∧ aget t.ctxs e.key = some { e.c with r := moved s e, ibuf := none, nSt := e.c.nSt + 1 }
      ∧ (∀ k, aget t.redsts k = if k = s.nextId then some op else aget s.redsts k)
      ∧ op.owners = [e.key] ∧ op.tag = e.fr.tag ∧ op.ovt = e.c.r.ovt
      ∧ op.adds.map (fun p => (p.1, p.2.1, p.2.2.map (fun m => (m.line, m.pclass)))) = (lanesOf e.exec).map (fun l =>
        ((x l).pa, opWord e 0 0 f.d l, [(lineOf (x l).pa, ptePclass (x l).pte)])))
  ∧ (∀ (s : State) (n : Nat) (op : RedOp) (pa : Nat) (w : Word) (marks : List LineMark)
      (rest : List (Nat × Word × List LineMark)),
    aget s.redsts n = some op → op.adds = (pa, w, marks) :: rest → pa % 4 = 0 →
    addWaits s (viOfTag s op.tag) (lineOf pa) marks = false →
    RoomFor s (homeOf (lineOf pa)) (markFill s (viOfTag s op.tag) marks) [lineOf pa] →
    ∃ t, exec (.redstHomeAdd n) s = .next t
      ∧ (∀ a, exactByte t a = if pa ≤ a ∧ a < pa + 4 then
          (BitVec.ofNat 32 (roundTo 0 0 op.ovt
            (numAdd false (ieeeVal 0 (wordAt (exactByte s) pa).toNat) (ieeeVal 0 w.toNat)))).extractLsb' (8 * (a - pa)) 8
        else exactByte s a)
      ∧ (∀ a, (a < pa ∨ pa + 4 ≤ a) → (∀ d, d < 8 → s.keptBy.contains (l2Key (lineOf a) d) = false) →
        readByte t a = readByte s a)
      ∧ (rest ≠ [] → aget t.redsts n = some { op with adds := rest } ∧ t.agenda.contains (.redstHomeAdd n) = true)
      ∧ (rest = [] → aget t.redsts n = none))

/-- 09 R266 to R271: atomics, reduction stores and their adds.
Where the spec is silent the model's choice stands: log entry 64. -/
def Obligations.atomics_and_reduction_stores : Prop :=
  Sys2Proof.Claims.AtomicsRunLaneByLane ∧ Sys2Proof.Claims.ReductionStoresAddAtHome

/-- Element accesses of lanes that stand inside the view and are placed: `bk l k` is the band's key and index, `pl l k` the
translated line, the element in it and the version (09 R274, R279, R280). -/
def Sys2Proof.Claims.Placed (s : State) (e : Env) (f : FmtT) (h : BitVec 1024) (acc : Access) (kind : Nat)
    (p : Nat → Nat → Int × Int × Int) (bk : Nat → Nat → Nat × Nat) (pl : Nat → Nat → Xlat × Nat × Word) : Prop :=
  ∀ l k, l < 64 → e.exec.getLsbD l = true → k < 2 ^ f.cnt.toNat →
    inView h (p l k) = true
    ∧ ∃ va, spotOf s (eCore e) (eVi e) h acc kind (recOrigin h 0 + (p l k).1.toNat)
        (recOrigin h 1 + (p l k).2.1.toNat) (recOrigin h 2 + (p l k).2.2.toNat)
      = .place (bk l k).1 (bk l k).2 (pl l k).1 va (pl l k).2.1 (pl l k).2.2
      ∧ bandBusy s (bk l k).1 = false ∧ isStale s (bk l k).1 (pl l k).2.2 = false

/-- View coordinates of element k of a run in a lane: along dimension 0 from (c0, c1, c2) (09 R274). -/
def Sys2Proof.Claims.runAt (e : Env) (f : FmtT) (l k : Nat) : Int × Int × Int :=
  (coord0 e f l + k, coord1 e f l, coord2 e f l)
/-- The same with dimensions 0 and 1 exchanged (09 R278). -/
def Sys2Proof.Claims.runTurned (e : Env) (f : FmtT) (l k : Nat) : Int × Int × Int :=
  (coord1 e f l, coord0 e f l + k, coord2 e f l)

/-- Registers D, D + 1, … hold 2^CNT elements `val lane k` in containers of format c, zeros above them; every other v word
is as it was (09 R274). -/
def Sys2Proof.Claims.RunIs (s t : State) (e : Env) (f : FmtT) (c : Nat) (val : Nat → Nat → Nat) : Prop :=
  ∀ n lane, lane < 64 →
    (e.exec.getLsbD lane = true ∧ (runRegs f).contains n = true →
      vPoison t e.key n lane = 0
      ∧ ∀ j, j < nc c → (el (elemBits c) j (vReg t e.key n lane)) =
        BitVec.ofNat _ (if (n - f.d.toNat) * nc c + j < 2 ^ f.cnt.toNat then val lane ((n - f.d.toNat) * nc c + j) else 0))
    ∧ (¬ (e.exec.getLsbD lane = true ∧ (runRegs f).contains n = true) →
      vReg t e.key n lane = vReg s e.key n lane ∧ vPoison t e.key n lane = vPoison s e.key n lane)

/-- 09 R272, R273; 16 R397: `thnd` reads the 128-byte layout record at the address of its lowest executing lane into handle
register hK; the lines read join the read set; no other register and no byte changes. -/
def Sys2Proof.Claims.HandlesAreLoaded : Prop :=
  ∀ (s : State) (e : Env) (f : FmtM) (s1 : State) (e1 : Env) (a : Word64) (x : Xlat) (bytes : List Byte) (lines : List Nat)
    (fl : Nat → Fill),
    Ready (.thnd f) s e → e1 = actEnv (.thnd f) s e → s1 = actState (.thnd f) s e → e.exec ≠ 0 →
    a = addrM e f ((lanesOf e.exec).headD 0) → a.toNat % 128 = 0 → translate s1 (eCore e) (eVi e) a = .ok x →
    readXlat (seen s1 e1) x 128 = some bytes → pageRefuses (viOf s (eVi e)).desc .thnd x = false →
    lines = linesRead (seen s1 e1) x 128 →
    (∀ n ∈ lines, isPoisoned s n = false) ∨ forwarded (ownBytes s1 e1) x.pa 128 = true →
    fl = xlatFill s (eVi e) f.hint.toNat [x] → loadWaits s1 e1 fl lines = false →
    recMalformed (BitVec.ofNat 1024 (leNat bytes)) = false → RoomFor s (eDie e) fl lines → L1Room s (eCore e) lines →
    ∃ t r rg, exec (.thnd f) s = .next t ∧ OnlyRegsAndCaches s t e ∧ SameV s t ∧ regsOf t e.key = some r
      ∧ (aget t.ctxs e.key).bind (·.region) = some rg ∧ (rg.nonspec = false → ∀ n ∈ lines, rg.reads.contains n = true)
      ∧ r = { stepped s e with handles := r.handles, wroteG := r.wroteG }
      ∧ ∀ k, hAt r k = if k = kOf f.d then some (BitVec.ofNat 1024 (leNat bytes)) else hAt e.c.r k

/-- What an element load needs of a line: clean, or the element comes whole from the context's own stores (09 R264, R265; log
entry 20). -/
def Sys2Proof.Claims.CleanElem (s : State) (e : Env) (h : BitVec 1024) (p : Xlat × Nat × Word) : Prop :=
  isPoisoned s (lineOf p.1.pa) = false ∨ elemForwarded (ownBytes s e) (ownElems e) h p.1.pa p.2.1 = true

/-- 09 R264, R274, R275, R277, R280; 16 R397: `tld` gives each executing lane the 2^CNT elements of the view from its
coordinates, `tlds` the scale bytes of 2^CNT blocks, as the context's own pending stores leave them; the lines read join the
read set; no byte changes. -/
def Sys2Proof.Claims.CoordinateLoads : Prop :=
  (∀ (s : State) (e : Env) (f : FmtT) (h : BitVec 1024) (s1 : State) (e1 : Env) (bk : Nat → Nat → Nat × Nat)
      (pl : Nat → Nat → Xlat × Nat × Word) (lines : List Nat) (fl : Nat → Fill),
    Ready (.tld f) s e → e1 = actEnv (.tld f) s e → s1 = actState (.tld f) s e → e.exec ≠ 0 →
    hAt e.c.r f.h.toNat = some h → recFormat h = f.ty.toNat →
    Placed s1 e1 f h .tensorLoad 5 (runAt e f) bk pl → (∀ p ∈ e.c.carried, isStale s p.1 p.2 = false) →
    lines = distinct ((lanesOf e.exec).flatMap (fun l =>
      (List.range (2 ^ f.cnt.toNat)).map (fun k => lineOf (pl l k).1.pa))) →
    (∀ l k, l < 64 → e.exec.getLsbD l = true → k < 2 ^ f.cnt.toNat → CleanElem s1 e1 h (pl l k)) →
    fl = xlatFill s (eVi e) 0 ((lanesOf e.exec).flatMap (fun l =>
      (List.range (2 ^ f.cnt.toNat)).map (fun k => (pl l k).1))) →
    loadWaits s1 e1 fl lines = false → RoomFor s (eDie e) fl lines → L1Room s (eCore e) lines →
    ∃ t r, exec (.tld f) s = .next t ∧ OnlyRegsAndCaches s t e ∧ regsOf t e.key = some (stepped s e)
      ∧ RunIs s t e f f.ty.toNat (fun l k => readElem (seen s1 e1) f.ty.toNat (pl l k).1.pa (pl l k).2.1)
      ∧ (aget t.ctxs e.key).bind (·.region) = some r ∧ (r.nonspec = false → ∀ n ∈ lines, r.reads.contains n = true))
  ∧ (∀ (s : State) (e : Env) (f : FmtT) (h : BitVec 1024) (s1 : State) (e1 : Env) (x : Nat → Nat → Xlat)
      (lines : List Nat) (fl : Nat → Fill),
    Ready (.tlds f) s e → e1 = actEnv (.tlds f) s e → s1 = actState (.tlds f) s e → e.exec ≠ 0 →
    hAt e.c.r f.h.toNat = some h → f.ty = 3 ∨ f.ty = 4 → recFormat h = f.ty.toNat → recScales h = true →
    (∀ l k, l < 64 → e.exec.getLsbD l = true → k < 2 ^ f.cnt.toNat →
      blockInView e f h l k = true ∧ translate s1 (eCore e) (eVi e) (blockVa e f h l k) = .ok (x l k)
      ∧ pageRefuses (viOf s (eVi e)).desc .scale (x l k) = false ∧ pteCmpr (x l k).pte = false
      ∧ (isPoisoned s (lineOf (x l k).pa) = false ∨ forwarded (ownBytes s1 e1) (x l k).pa 1 = true)) →
    lines = distinct ((lanesOf e.exec).flatMap (fun l =>
      (List.range (2 ^ f.cnt.toNat)).map (fun k => lineOf (x l k).pa))) →
    fl = xlatFill s (eVi e) 0 ((lanesOf e.exec).flatMap (fun l => (List.range (2 ^ f.cnt.toNat)).map (x l))) →
    loadWaits s1 e1 fl lines = false → RoomFor s (eDie e) fl lines → L1Room s (eCore e) lines →
    ∃ t r, exec (.tlds f) s = .next t ∧ OnlyRegsAndCaches s t e ∧ regsOf t e.key = some (stepped s e)
      ∧ RunIs s t e f 6 (fun l k => (readByte (seen s1 e1) (x l k).pa).toNat)
      ∧ (aget t.ctxs e.key).bind (·.region) = some r ∧ (r.nonspec = false → ∀ n ∈ lines, r.reads.contains n = true))

/-- 09 R264, R279: a coordinate load sees an element that its own context has stored and not yet performed, where the store
was translated to; a T6 element is six bits of its line (02 R40). -/
def Sys2Proof.Claims.LoadsSeeOwnElements : Prop :=
  ∀ (s : State) (e : Env) (x : ElemStore) (f : Nat),
    pending e.c = [.coord [x]] → x.part < 2 → f = recFormat x.hrec → (f = 4 → 6 * x.ix + 6 ≤ 1024) →
    readElem (seen s e) f x.pa x.ix = x.value % (if f = 4 then 64 else 256 ^ (elemBits f / 8))
    ∧ ∀ pa, (∀ k, k < 128 → pa ≠ x.pa + k) → readByte (seen s e) pa = readByte (dieSees s (eDie e)) pa

/-- 09 R264, R272 to R277: `thnd`, `tld` and `tlds`.
Where the spec is silent the model's choice stands: log entry 75. -/
def Obligations.handles_and_coordinate_loads : Prop :=
  Sys2Proof.Claims.HandlesAreLoaded ∧ Sys2Proof.Claims.CoordinateLoads ∧ Sys2Proof.Claims.LoadsSeeOwnElements

/-- Elements that a coordinate store puts into the store buffer, lane by lane, each with the place to which it was translated
(09 R276, R279). -/
def Sys2Proof.Claims.runStores (e : Env) (f : FmtT) (h : BitVec 1024) (part : Nat) (p : Nat → Nat → Int × Int × Int)
    (bk : Nat → Nat → Nat × Nat) (pl : Nat → Nat → Xlat × Nat × Word) : List ElemStore :=
  (lanesOf e.exec).flatMap (fun l => (List.range (2 ^ f.cnt.toNat)).map (fun k =>
    { part := part, hrec := h, x := recOrigin h 0 + (p l k).1.toNat, y := recOrigin h 1 + (p l k).2.1.toNat,
      z := recOrigin h 2 + (p l k).2.2.toNat, key := (bk l k).1, band := (bk l k).2, pa := (pl l k).1.pa, ix := (pl l k).2.1,
      mark := elemMark h (pl l k).1, ver := (pl l k).2.2,
      value := (el (elemBits f.ty.toNat) (k % nc f.ty.toNat) (vAt e.fr (f.d.toNat + k / nc f.ty.toNat) l)).toNat
        % (if f.ty = 4 then 64 else 2 ^ 32) }))

/-- Translated lines of placed elements. -/
def Sys2Proof.Claims.runXlats (e : Env) (f : FmtT) (pl : Nat → Nat → Xlat × Nat × Word) : List Xlat :=
  (lanesOf e.exec).flatMap (fun l => (List.range (2 ^ f.cnt.toNat)).map (fun k => (pl l k).1))

/-- 09 R276, R278, R279; 07 R200; 16 R398: `tst` and `stsh` in a speculative region put one entry with the element of every
executing lane into the store buffer, `stsh` a transposed one besides, and claim the lines; no byte changes before commit. -/
def Obligations.coordinate_stores_wait_for_commit : Prop :=
  ∀ (s : State) (e : Env) (i : Instr) (f : FmtT) (h : BitVec 1024) (s1 : State) (e1 : Env)
    (bk bk' : Nat → Nat → Nat × Nat) (pl pl' : Nat → Nat → Xlat × Nat × Word) (lines : List Nat) (elems : List ElemStore) (xs : List Xlat)
    (fl : Nat → Fill),
    (i = .tst f ∧ elems = runStores e f h 0 (runAt e f) bk pl ∧ xs = runXlats e f pl
      ∨ ∃ h', i = .stsh f ∧ hAt e.c.r (f.h.toNat + 1) = some h' ∧ recFormat h' = recFormat h ∧ recNdim h' = recNdim h
        ∧ Placed s1 e1 f h' .tensorStore 6 (runTurned e f) bk' pl'
        ∧ elems = runStores e f h 0 (runAt e f) bk pl ++ runStores e f h' 1 (runTurned e f) bk' pl'
        ∧ xs = runXlats e f pl ++ runXlats e f pl') →
    lines = distinct (xs.map (fun x => lineOf x.pa)) → fl = xlatFill s (eVi e) 0 xs →
    Ready i s e → e1 = actEnv i s e → s1 = actState i s e → e.exec ≠ 0 → isNonspec e1 = false →
    hAt e.c.r f.h.toNat = some h → recFormat h = f.ty.toNat → Placed s1 e1 f h .tensorStore 6 (runAt e f) bk pl →
    storeWaits s1 e1 fl lines = false → RoomFor s (eDie e) fl lines → NoHolder s e.key lines →
    ∃ t c r r0, exec i s = .next t ∧ OnlyRegsAndClaims s t e ∧ SameV s t ∧ aget t.ctxs e.key = some c
      ∧ c = { e.c with r := stepped s e, region := some r, nTl := e.c.nTl + 1, carried := [] }
      ∧ e1.c.region = some r0 ∧ r.items = r0.items ++ [.store (.coord elems)] ∧ r.nTl = r0.nTl + 1
      ∧ ∀ n ∈ lines, r.writes.contains n = true

/-! ## Waiting and barriers (07 R171, R172; 10 R304 to R310) -/

/-- `t` is `s` but for the executing context. -/
def Sys2Proof.Claims.OnlyCtx (s t : State) (key : Nat) : Prop :=
  t = { s with ctxs := t.ctxs } ∧ ∀ k, k ≠ key → aget t.ctxs k = aget s.ctxs k

/-- 07 R171, R172: `wait` ends its region when its ST or CP limit is below what the region still holds; else it goes on
once every count is at or below its limit, a limit at or above its class maximum imposing no wait; else it stays where it
is. A `wait` that has ended its region goes on outside any, and the next region opens at the slot after it.
Where the spec is silent the model's choice stands: log entry 40. -/
def Obligations.wait_until_counts_fall : Prop :=
  ∀ (s : State) (e : Env) (f : FmtA) (met ends : Bool), Ready (.wait f) s e →
    (met = true ↔ (e.c.nLd ≤ (f.imm.extractLsb' 0 8).toNat ∨ 64 ≤ (f.imm.extractLsb' 0 8).toNat)
      ∧ (e.c.nSt ≤ (f.imm.extractLsb' 8 8).toNat ∨ 64 ≤ (f.imm.extractLsb' 8 8).toNat)
      ∧ (e.c.nCp ≤ (f.imm.extractLsb' 16 8).toNat ∨ 16 ≤ (f.imm.extractLsb' 16 8).toNat)
      ∧ (e.c.nTl ≤ (f.imm.extractLsb' 24 8).toNat ∨ 32 ≤ (f.imm.extractLsb' 24 8).toNat)) →
    (ends = true ↔ ∃ r, e.c.region = some r
      ∧ ((f.imm.extractLsb' 8 8).toNat < r.nSt ∨ (f.imm.extractLsb' 16 8).toNat < r.nCp)) →
    ∃ t, exec (.wait f) s = .next t
      ∧ (ends = false → met = true → outside s = false → e.c.status = .running → RegsAre s t e (stepped s e))
      ∧ (ends = false → met = true → outside s = true → OnlyCtx s t e.key
        ∧ aget t.ctxs e.key = some { e.c with r := moved s e, status := .running, ibuf := none })
      ∧ (ends = true → t.agenda.contains (.regionCommit e.key) = true ∧ t = { s with ctxs := t.ctxs, agenda := t.agenda }
        ∧ (∀ k, k ≠ e.key → aget t.ctxs k = aget s.ctxs k)
        ∧ ∃ r, e.c.region = some r
          ∧ aget t.ctxs e.key = some { e.c with region := some { r with ended := true }, status := .barEnd })
      ∧ (ends = false → met = false → OnlyCtx s t e.key ∧ ∃ c, aget t.ctxs e.key = some c
        ∧ c = { e.c with r := c.r, region := c.region }
        ∧ c.r = { e.c.r with ovt := if outside s then e.c.r.ovt else ovtInForce s e })

/-- One more held operation stands at the end of the region; the class counts rise by `cp`. -/
def Sys2Proof.Claims.Holds (s t : State) (i : Instr) (e : Env) (h : Held) (cp : Nat) : Prop :=
  t = { s with ctxs := t.ctxs, groups := t.groups } ∧ (∀ k, k ≠ e.key → aget t.ctxs k = aget s.ctxs k)
  ∧ ∃ r r0, (actEnv i s e).c.region = some r0
    ∧ aget t.ctxs e.key = some { e.c with r := stepped s e, region := some r, nCp := e.c.nCp + cp }
    ∧ r = { r0 with items := r0.items ++ [.held h], nCp := r0.nCp + cp }

/-- 10 R305 to R307: `nbinit` and `nbarv` hold their operation until the region commits; one on a barrier that the launch
does not have traps BARRIER_MISUSE.
Where the spec is silent the model's choice stands: log entry 73. -/
def Obligations.barrier_operations_are_held : Prop :=
  ∀ (s : State) (e : Env) (f : FmtA),
    (Ready (.nbinit f) s e → kOf f.d < 16 →
      (kOf f.d < pkNbar e.la.pkt → ∃ t before, exec (.nbinit f) s = .next t ∧ t.groups = s.groups
        ∧ Holds s t (.nbinit f) e (.barInit (kOf f.d) (opWord e 9 f.imm f.a 0).toNat (opWord e 9 f.imm f.b 0).toNat before) 0
        ∧ before.regs = (actEnv (.nbinit f) s e).c.r)
      ∧ (pkNbar e.la.pkt ≤ kOf f.d → ∃ t, exec (.nbinit f) s = .next t
        ∧ Traps s t e { plainTrap 0x13 e.c.r.pc with code := BitVec.ofNat 32 (kOf f.d), sub := 1 }))
    ∧ (∀ k, Ready (.nbarv f) s e → k = (if f.c = 1 then 16 else kOf f.a) → (f.c = 1 ∨ kOf f.a < 16) →
      ((if k = 16 then pkCluster e.la.pkt = true else k < pkNbar e.la.pkt) →
        ∃ t before, exec (.nbarv f) s = .next t ∧ t.groups = s.groups
          ∧ Holds s t (.nbarv f) e (.barArrive k before) 0 ∧ before.regs = (actEnv (.nbarv f) s e).c.r)
      ∧ (¬ (if k = 16 then pkCluster e.la.pkt = true else k < pkNbar e.la.pkt) →
        ∃ t, exec (.nbarv f) s = .next t
          ∧ Traps s t e { plainTrap 0x13 e.c.r.pc with code := BitVec.ofNat 32 k, sub := 2 }))

/-- A job acts on the context's own cohort: a multicast does where the cohort is one of its destinations (10 R311). -/
def Sys2Proof.Claims.ActsHere (e : Env) (j : Job) : Prop :=
  j.multi = false ∨ ∃ p, (p, coreOf e.key, e.fr.tag % 2 ^ 32) ∈ j.dests

/-- The wait of a context on barrier k is over: it goes to the next slot and has no arrival pending on k. -/
def Sys2Proof.Claims.WaitOver (s t : State) (e : Env) (k : Nat) : Prop :=
  OnlyCtx s t e.key ∧ ∃ c, aget t.ctxs e.key = some c
    ∧ c = { e.c with r := c.r, region := c.region, status := .running, woken := false, ibuf := c.ibuf }
    ∧ c.r = { moved s e with ovt := c.r.ovt, pend := e.c.r.pend &&& ~~~(1#17 <<< k) }

/-- 10 R304 to R307: `nbwt` waits until its barrier has left the phase of the pending arrival, else the present phase, and
goes on when it has, also when the barrier has come back to that phase since the wait began; `nbsync` holds an arrival, ends
its region, and then waits like `nbwt`. A wait ends the region that holds a copy or a DZ job which signals the barrier (11
R333; log entry 47). -/
def Sys2Proof.Claims.BarrierWaits : Prop :=
  ∀ (s : State) (e : Env) (i : Instr) (f : FmtA) (k : Nat) (b : Barrier) (p : Bool),
    (i = .nbwt f ∨ i = .nbsync f) → Ready i s e → k = (if f.c = 1 then 16 else kOf f.a) → k < 17 →
    (if k = 16 then pkCluster e.la.pkt = true else k < pkNbar e.la.pkt) →
    b = barOf s e.fr.tag k → b.init = true → b.misuse = false →
    p = (match e.c.status with
      | .waitBar j q => if j = k then q else if e.c.r.pend.getLsbD k then e.c.r.arrph.getLsbD k else b.phase
      | _ => if e.c.r.pend.getLsbD k then e.c.r.arrph.getLsbD k else b.phase) →
    (i = .nbsync f → e.c.status = .running →
      ∃ t before r, exec i s = .next t ∧ (aget t.ctxs e.key).map (·.status) = some .barEnd
        ∧ (aget t.ctxs e.key).bind (·.region) = some r ∧ r.ended = true
        ∧ r.items = regionItems e.c ++ [.held (.barArrive k before)]
        ∧ t.agenda.contains (.regionCommit e.key) = true)
    ∧ ((i = .nbwt f ∧ (heldOf (regionItems e.c)).all (fun h => match h with
          | .barInit .. => false | .barArrive .. => false | _ => true) = true
        ∨ i = .nbsync f ∧ e.c.status ≠ .running) →
      (b.phase ≠ p ∨ e.c.woken = true ∧ e.c.status = .waitBar k p → ∃ t, exec i s = .next t ∧ WaitOver s t e k)
      ∧ (b.phase = p → ¬ (e.c.woken = true ∧ e.c.status = .waitBar k p) →
        ∃ t c, exec i s = .next t ∧ aget t.ctxs e.key = some c ∧ c.status = .waitBar k p ∧ c.r.pc = e.c.r.pc
          ∧ ((∃ j, .job j ∈ heldOf (regionItems e.c) ∧ ActsHere e j ∧ j.bar = some k) →
            ∃ r, c.region = some r ∧ r.ended = true ∧ t.agenda.contains (.regionCommit e.key) = true)
          ∧ (¬ (∃ j, .job j ∈ heldOf (regionItems e.c) ∧ ActsHere e j ∧ j.bar = some k) →
            c.region = (actEnv i s e).c.region ∧ t.agenda = s.agenda)))

/-- 10 R304, R306, R308: a barrier completes when both counts are reached: the phase flips, the counts return to 0; arrivals
and bytes beyond what is expected are misuse. -/
def Sys2Proof.Claims.BarrierPhases : Prop :=
  ∀ (b : Barrier), b.init = true → b.misuse = false →
    (b.cm < b.em →
      barArrive b = some (if b.cm + 1 = b.em ∧ b.cb = b.eb then { b with phase := !b.phase, cm := 0, cb := 0 }
        else { b with cm := b.cm + 1 }))
    ∧ (b.cm = b.em → barArrive b = none)
    ∧ (∀ n, barCount b n = if b.eb < b.cb + n then { b with misuse := true }
        else if b.cm = b.em ∧ b.cb + n = b.eb then { b with phase := !b.phase, cm := 0, cb := 0 }
        else { b with cb := b.cb + n })
    ∧ (∀ em eb, barInit b em eb = if b.cm = 0 ∧ b.cb = 0 ∧ em ≤ 4095 ∧ eb < 2 ^ 24 ∧ ¬ (em = 0 ∧ eb = 0)
        then some { b with em := em, eb := eb, cm := 0, cb := 0 } else none)

/-- 10 R304, R306: when a barrier's phase flips, every context that waits for that is released, and no other. -/
def Sys2Proof.Claims.CompletionReleasesWaits : Prop :=
  ∀ (s : State) (tag k key : Nat) (b : Barrier) (c : Ctx) (p : Bool), aget s.ctxs key = some c →
    p = (barOf s tag k).phase → tagOf s key = tag →
    (b.phase ≠ p → c.status = .waitBar k p → aget (putBar s tag k b).ctxs key = some { c with woken := true })
    ∧ (b.phase = p ∨ (c.status ≠ .waitBar k p ∧ c.paused ≠ some (k, p)) → aget (putBar s tag k b).ctxs key = some c)

/-- 10 R304, R306, R307: barrier waits, how an arrival ends a phase, and whom that releases.
Where the spec is silent the model's choice stands: log entries 47 and 48. -/
def Obligations.barrier_waits : Prop :=
  Sys2Proof.Claims.BarrierWaits ∧ Sys2Proof.Claims.BarrierPhases ∧ Sys2Proof.Claims.CompletionReleasesWaits

/-- A held job writes some of `n` scratchpad bytes from `a` of its own cohort: its payload or its completion word (10 R289 to
R296, R311, R316); a multicast does where the cohort is one of its destinations. -/
def Sys2Proof.Claims.WritesHere (e : Env) (j : Job) (a n : Nat) : Prop :=
  ActsHere e j
  ∧ ((∃ len, (j.kind = .linIn ∧ len = j.len ∨ j.kind = .dzSp ∧ len = j.len
        ∨ j.kind = .boxIn ∧ len = j.rows * j.cols * (elemBits (recFormat j.hrec) / 8)
        ∨ j.kind = .accOutSp ∧ len = j.rows * (if j.cvt = 0 then 256 else 128))
      ∧ j.so < a + n ∧ a < j.so + len)
    ∨ ∃ w, j.cw = some w ∧ w.1 < a + n ∧ a < w.1 + 4)

/-- 10 R310; 16 R399: `waddr` goes on once the scratchpad word at its address has reached the value of D: as unsigned
numbers, or for the other type as a difference modulo 2^32 below 2^31; the granule joins the read set. Until then, and
while a committed store of another context to the word is not performed, it stays where it is and keeps every register; a
region that holds a copy or a DZ job that writes the word ends first (log entry 47). The word is that of the scratchpad
with the context's own pending stores over it; one past SPBYTES or not aligned traps. -/
def Obligations.completion_words_are_awaited : Prop :=
  ∀ (s : State) (e : Env) (f : FmtM) (a : Nat) (w : Word) (ens : List (List Host.Cell)) (reached locked own : Bool),
    Ready (.waddr f) s e → a = (addrM e f 0).toNat →
    pending e.c = ens.map (fun cells => .scratch cells) →
    w = BitVec.ofNat 32 (leNat ((List.range 4).map (fun k => lastByte ens.flatten (a + k) (agetD e.co.sp 0 (a + k))))) →
    (reached = true ↔
      if f.ty = 10 then (opWord e 9 0 f.d 0).toNat ≤ w.toNat else (w - opWord e 9 0 f.d 0).toNat < 2 ^ 31) →
    locked = scratchLock s [e.key] (eTag e) a 4 → (own = true ↔ ∃ j, .job j ∈ heldOf (regionItems e.c) ∧ WritesHere e j a 4) →
    (pkSpBytes e.la.pkt < a + 4 →
      ∃ t, exec (.waddr f) s = .next t ∧ Traps s t e (accessTrap 0x08 0 9 0 (addrM e f 0) e.c.r.pc))
    ∧ (a + 4 ≤ pkSpBytes e.la.pkt → a % 4 ≠ 0 →
      ∃ t, exec (.waddr f) s = .next t ∧ Traps s t e (accessTrap 0x0B 0 9 0 (addrM e f 0) e.c.r.pc))
    ∧ (a + 4 ≤ pkSpBytes e.la.pkt → a % 4 = 0 → locked = false → reached = true →
      ∃ t, exec (.waddr f) s = .next t ∧ RegsAre s t e (stepped s e)
        ∧ ∀ r, (aget t.ctxs e.key).bind (·.region) = some r → r.nonspec = false → r.granules.contains (a / 128) = true)
    ∧ (a + 4 ≤ pkSpBytes e.la.pkt → a % 4 = 0 → (locked = true ∨ reached = false ∧ own = false) →
      ∃ t, exec (.waddr f) s = .next t ∧ RegsAre s t e { e.c.r with ovt := ovtInForce s e }
        ∧ t.agenda = s.agenda ∧ (aget t.ctxs e.key).bind (·.region) = (actEnv (.waddr f) s e).c.region)
    ∧ (a + 4 ≤ pkSpBytes e.la.pkt → a % 4 = 0 → locked = false → reached = false → own = true →
      ∃ t r, exec (.waddr f) s = .next t ∧ t.agenda.contains (.regionCommit e.key) = true
        ∧ t = { s with ctxs := t.ctxs, agenda := t.agenda } ∧ (∀ k, k ≠ e.key → aget t.ctxs k = aget s.ctxs k)
        ∧ e.c.region = some r ∧ aget t.ctxs e.key = some { e.c with region := some { r with ended := true } })

/-! ## Copies and DZ jobs at issue (10 R289 to R303, R311, R316) -/

/-- The checks that every copy makes, and that of its completion word (10 Table 10-4). -/
def Sys2Proof.Claims.CopyAllowed (e : Env) (f : FmtE) : Prop :=
  pkProdEn e.la.pkt = true ∧ e.g.prod = true ∧ (f.baren = true → f.nb.toNat < pkNbar e.la.pkt)
  ∧ (f.cwen = true → (gAt e.c.r (f.cwreg.toNat - 256)).toNat % 4 = 0
    ∧ (gAt e.c.r (f.cwreg.toNat - 256)).toNat + 4 ≤ pkSpBytes e.la.pkt)

/-- The operands that every job takes along at issue. -/
def Sys2Proof.Claims.JobOf (j : Job) (e : Env) (f : FmtE) (kind : JobKind) : Prop :=
  j.kind = kind ∧ j.owners = [e.key] ∧ j.group = e.c.group ∧ j.tag = e.fr.tag ∧ j.vi = e.la.vi ∧ j.pc = e.c.r.pc
  ∧ j.core = coreOf e.key ∧ j.bar = (if f.baren then some f.nb.toNat else none)
  ∧ j.cw = (if f.cwen then some ((gAt e.c.r (f.cwreg.toNat - 256)).toNat, gAt e.c.r (f.cwreg.toNat - 255)) else none)
  ∧ j.inflight = [] ∧ j.stale = [] ∧ j.uncounted = [] ∧ j.owned = [] ∧ j.dz = none ∧ j.setSlot = none

/-- A linear copy's operands are as 10 Table 10-4 asks. -/
def Sys2Proof.Claims.LinearOk (e : Env) (f : FmtE) (so len : Nat) (a : Word64) : Prop :=
  f.var = 0 ∧ so = (opWord e 9 0 f.s0 0).toNat ∧ a = opPair e f.s1 0
  ∧ len = (if isNone f.s2 then eLen f else (opWord e 9 0 f.s2 0).toNat)
  ∧ so % 16 = 0 ∧ a.toNat % 16 = 0 ∧ len % 16 = 0 ∧ so + len ≤ pkSpBytes e.la.pkt

/-- A box copy's operands are as 10 Table 10-4 asks: record, corner, extents. -/
def Sys2Proof.Claims.BoxOk (e : Env) (f : FmtE) (so : Nat) (h : BitVec 1024) (c : Nat → Nat) (cols rows w : Nat) : Prop :=
  f.var ≠ 0 ∧ so = (opWord e 9 0 f.s0 0).toNat ∧ hAt e.c.r (kOf f.s1) = some h
  ∧ ¬ (recFormat h = 4 ∧ recScales h = true)
  ∧ (∀ k, k < 3 → (c k : Int) = (gAt e.c.r (f.s2.toNat - 256 + k)).toInt)
  ∧ cols = (f.ext.extractLsb' 0 12).toNat + 1 ∧ rows = (f.ext.extractLsb' 12 12).toNat + 1
  ∧ w = elemBits (recFormat h) / 8 ∧ c 0 + cols ≤ recDim h 0 ∧ c 1 + rows ≤ recDim h 1 ∧ c 2 < recDim h 2
  ∧ so % 16 = 0 ∧ cols * w % 16 = 0 ∧ so + rows * cols * w ≤ pkSpBytes e.la.pkt

/-- 10 R289 to R295, R311: in the producer group `cpy`, `cpyo` and `cpym` hold a job with every operand read at issue and
count one copy; nothing moves before the region commits. -/
def Sys2Proof.Claims.CopiesAreHeld : Prop :=
  ∀ (s : State) (e : Env) (i : Instr) (f : FmtE) (lin box : JobKind) (multi : Bool),
    (i = .cpy f ∧ lin = .linIn ∧ box = .boxIn ∧ multi = false ∨ i = .cpyo f ∧ lin = .linOut ∧ box = .boxOut ∧ multi = false
      ∨ i = .cpym f ∧ lin = .linIn ∧ box = .boxIn ∧ multi = true ∧ pkCluster e.la.pkt = true) →
    Ready i s e → CopyAllowed e f →
    (∀ so len a, LinearOk e f so len a →
      ∃ t j, exec i s = .next t ∧ t.groups = s.groups ∧ Holds s t i e (.job j) 1 ∧ JobOf j e f lin
        ∧ j.so = so ∧ j.addr = a ∧ j.len = len ∧ j.left = List.range (len / 16) ∧ j.multi = multi
        ∧ j.dests = (if multi then (List.range 4).filterMap (fun k =>
            if f.dmask.getLsbD k then (e.co.sibs[k]?).map (fun p => (k, p.1, p.2)) else none) else []))
    ∧ (∀ so h c cols rows w, BoxOk e f so h c cols rows w →
      ∃ t j, exec i s = .next t ∧ t.groups = s.groups ∧ Holds s t i e (.job j) 1 ∧ JobOf j e f box
        ∧ j.so = so ∧ j.hrec = h ∧ j.c0 = c 0 ∧ j.c1 = c 1 ∧ j.c2 = c 2 ∧ j.cols = cols ∧ j.rows = rows
        ∧ j.left = List.range (rows * cols) ∧ j.multi = multi)

/-- 10 R290, Table 10-4: a copy by a group that is not the producer traps PRODUCER_RIGHTS, and holds nothing. -/
def Sys2Proof.Claims.CopiesNeedTheProducerRight : Prop :=
  ∀ (s : State) (e : Env) (i : Instr) (f : FmtE),
    (i = .cpy f ∨ i = .cpyo f ∨ i = .cpym f ∨ i = .cpyacc f ∨ i = .cpyacs f ∨ i = .dzjob f) → Ready i s e →
    (pkProdEn e.la.pkt = false ∨ e.g.prod = false) →
    ∃ t, exec i s = .next t ∧ Traps s t e (plainTrap 0x04 e.c.r.pc)

/-- 10 R289 to R295, R311: copies are held, and need the producer right. -/
def Obligations.copies_are_held : Prop :=
  Sys2Proof.Claims.CopiesAreHeld ∧ Sys2Proof.Claims.CopiesNeedTheProducerRight

/-- 10 R302, R303, R316; 07 R173: accumulator copies and DZ jobs are held with their operands; SETEN marks the dependency
slot busy. -/
def Obligations.accumulator_copies_and_dz_jobs_are_held : Prop :=
  ∀ (s : State) (e : Env) (f : FmtE), pkProdEn e.la.pkt = true → e.g.prod = true →
    (∀ i scratch k, (i = .cpyacc f ∧ scratch = false ∧ k = (if f.var = 0 then .accOutMem else .accInMem)
        ∨ i = .cpyacs f ∧ scratch = true ∧ k = (if f.var = 0 then .accOutSp else .accInSp)) →
      Ready i s e →
      (f.ext.getLsbD 11 = true → e.g.slots.getLsbD (f.ext.extractLsb' 8 3).toNat = false) →
      ∀ row rows cvt so a, row = (opWord e 9 0 f.s0 0).toNat → rows = (f.ext.extractLsb' 12 11).toNat + 1 →
        cvt = (f.ext.extractLsb' 23 2).toNat → row + rows ≤ 64 * pkAcct e.la.pkt →
        (if scratch then so = (opWord e 9 0 f.s1 0).toNat ∧ a = 0 ∧ so + rows * (if cvt = 0 then 256 else 128) ≤ pkSpBytes e.la.pkt
          else so = 0 ∧ a = opPair e f.s1 0 ∧ a.toNat % 16 = 0) →
        ∃ t j, exec i s = .next t ∧ Holds s t i e (.job j) 1 ∧ j.kind = k ∧ j.owners = [e.key] ∧ j.group = e.c.group ∧ j.tag = e.fr.tag
          ∧ j.accRow = row ∧ j.rows = rows ∧ j.cvt = cvt ∧ j.so = so ∧ j.addr = a ∧ j.left = List.range rows
          ∧ j.setSlot = (if f.ext.getLsbD 11 then some (f.ext.extractLsb' 8 3).toNat else none)
          ∧ ∀ n, aget t.groups n = if n = e.c.group ∧ f.ext.getLsbD 11 = true
            then (aget s.groups n).map (fun g => { g with slots := g.slots ||| (1#8 <<< (f.ext.extractLsb' 8 3).toNat) })
            else aget s.groups n)
    ∧ (Ready (.dzjob f) s e → CopyAllowed e f → ∀ so len a, so = (opWord e 9 0 f.s0 0).toNat → a = opPair e f.s1 0 →
      len = (if isNone f.s2 then eLen f else (opWord e 9 0 f.s2 0).toNat) % 2 ^ 24 → a.toNat % 64 = 0 →
      (f.var = 0 → so + len ≤ pkSpBytes e.la.pkt) →
      ∃ t j, exec (.dzjob f) s = .next t ∧ t.groups = s.groups ∧ Holds s t (.dzjob f) e (.job j) 1
        ∧ JobOf j e f (if f.var = 0 then .dzSp else .dzMem) ∧ j.so = so ∧ j.addr = a ∧ j.len = len)

/-! ## The matrix engine (11 R317 to R340) -/

/-- The group is whole and as wide as the engine asks, its rows are the cohort's, and its set slot is free (11 Table
11-5). -/
def Sys2Proof.Claims.MatrixOk (e : Env) (f : FmtX) (rows : Nat) : Prop :=
  e.g.width = 64 ∧ e.c.r.m0 = BitVec.allOnes 64 ∧ f.accrow.toNat + rows ≤ 64 * pkAcct e.la.pkt
  ∧ (f.seten = true → e.g.slots.getLsbD f.setslot.toNat = false)

/-- No register of a list is poisoned in a lane, and each exists. -/
def Sys2Proof.Claims.CleanRegs (e : Env) (regs : List Nat) : Prop :=
  ∀ n ∈ regs, n < pkVregs e.la.pkt ∧ ∀ l, l < 64 → vPoisonAt e.fr n l = 0

/-- An accumulator write is held: its kind, rows, format, sign, overflow table and slot, which is marked busy. -/
def Sys2Proof.Claims.HoldsAcc (s t : State) (i : Instr) (e : Env) (f : FmtX) (kind : AccKind) (a : AccOp) : Prop :=
  Holds s t i e (.acc a) 0 ∧ a.kind = kind ∧ a.owners = [e.key] ∧ a.tag = e.fr.tag ∧ a.row = f.accrow.toNat
  ∧ a.shape = f.shape.toNat ∧ a.fmt = e.c.r.fmt ∧ a.neg = f.neg ∧ a.ovt = ovtInForce s e
  ∧ a.setSlot = (if f.seten then some f.setslot.toNat else none)
  ∧ ∀ n, aget t.groups n = if n = e.c.group ∧ f.seten = true
    then (aget s.groups n).map (fun g => { g with slots := g.slots ||| (1#8 <<< f.setslot.toNat) }) else aget s.groups n

/-- The words of registers, lane by lane. -/
def Sys2Proof.Claims.wordsOf (e : Env) (regs : List Nat) : List (List Word) :=
  (List.range 64).map (fun l => regs.map (fun n => vAt e.fr n l))

/-- 11 R319 to R325, R329, R331, R332: `mma`, `mmaz`, `accz` and `accwr` are held with the registers that they read at issue;
`accrd` gives eight registers the words and the poison of eight accumulator rows. -/
def Sys2Proof.Claims.MatrixOperationsIssue : Prop :=
  ∀ (s : State) (e : Env) (f : FmtX),
    (∀ i kind, (i = .mma f ∧ kind = .mma ∨ i = .mmaz f ∧ kind = .mmaz) → Ready i s e → MatrixOk e f 64 →
      fmtFits f.shape.toNat e.c.r.fmt = true → CleanRegs e (productRegs f e.c.r.fmt) →
      ∃ t a, exec i s = .next t ∧ HoldsAcc s t i e f kind a
        ∧ a.a = wordsOf e (fragList f.abase.toNat f.shape.toNat) ∧ a.b = wordsOf e (fragList f.bbase.toNat f.shape.toNat)
        ∧ a.as_ = (if f.shape ≠ 2 ∧ e.c.r.fmt.getLsbD 12 = true
          then wordsOf e (fragList (f.abase.toNat + fragRegs f.shape.toNat) f.shape.toNat) else [])
        ∧ a.bs = (if f.shape ≠ 2 ∧ e.c.r.fmt.getLsbD 13 = true
          then wordsOf e (fragList (f.bbase.toNat + fragRegs f.shape.toNat) f.shape.toNat) else []))
    ∧ (Ready (.accz f) s e → MatrixOk e f 64 →
      ∃ t a, exec (.accz f) s = .next t ∧ HoldsAcc s t (.accz f) e f .accz a)
    ∧ (Ready (.accwr f) s e → MatrixOk e f 8 → CleanRegs e (eightRegs f.bbase.toNat) →
      ∃ t a, exec (.accwr f) s = .next t ∧ HoldsAcc s t (.accwr f) e f .accwr a
        ∧ a.a = wordsOf e (eightRegs f.bbase.toNat))
    ∧ (Ready (.accrd f) s e → MatrixOk e f 8 → ownRows e.c f.accrow.toNat = false →
      rowsPending s e f.accrow.toNat = false →
      ∃ t, exec (.accrd f) s = .next t ∧ OnlyRegs s t e ∧ regsOf t e.key = some (stepped s e)
        ∧ ∀ n l, l < 64 →
          (f.abase.toNat ≤ n ∧ n < f.abase.toNat + 8 →
            vReg t e.key n l = agetD e.co.acc 0 ((f.accrow.toNat + (n - f.abase.toNat)) * 64 + l)
            ∧ vPoison t e.key n l
              = if agetD e.co.accPoison false ((f.accrow.toNat + (n - f.abase.toNat)) * 64 + l) then 3 else 0)
          ∧ (¬ (f.abase.toNat ≤ n ∧ n < f.abase.toNat + 8) →
            vReg t e.key n l = vReg s e.key n l ∧ vPoison t e.key n l = vPoison s e.key n l))

/-- 11 R325 to R331, R339, R340: a released accumulator write completes whole: `mma` adds the rounded segment sum to each
word, `mmaz` replaces the word by it, `accz` clears, `accwr` copies; all but `mma` clear poison; the slot is free again; no
other word of any accumulator changes. -/
def Sys2Proof.Claims.AccumulatorWritesComplete : Prop :=
  ∀ (s : State) (fk : Nat) (a : AccOp) (rest : List AccOp) (co : Cohort),
    aget s.accQ fk = some (a :: rest) → aget s.cohorts a.tag = some co →
    ∃ t co', exec (.matrixInstructionCompletion fk) s = .next t
      ∧ t = { s with accQ := t.accQ, cohorts := t.cohorts, groups := t.groups }
      ∧ agetD t.accQ [] fk = rest ∧ aget t.cohorts a.tag = some co'
      ∧ (∀ k, k ≠ a.tag → aget t.cohorts k = aget s.cohorts k)
      ∧ co' = { co with acc := co'.acc, accPoison := co'.accPoison }
      ∧ (∀ m n, m < (if a.kind = .accwr then 8 else 64) → n < 64 →
        ∀ old sum, old = agetD co.acc 0 ((a.row + m) * 64 + n) → sum = BitVec.ofNat 32 (roundTo 0 0 a.ovt (segsum a m n)) →
        agetD co'.acc 0 ((a.row + m) * 64 + n) = (match a.kind with
          | .mma => BitVec.ofNat 32 (roundTo 0 0 a.ovt (numAdd false (ieeeVal 0 old.toNat) (ieeeVal 0 sum.toNat)))
          | .mmaz => sum
          | .accz => 0
          | .accwr => (a.a.getD n []).getD m 0)
        ∧ (a.kind ≠ .mma → agetD co'.accPoison false ((a.row + m) * 64 + n) = false))
      ∧ (∀ k, k / 64 < a.row ∨ a.row + (if a.kind = .accwr then 8 else 64) ≤ k / 64 →
        agetD co'.acc 0 k = agetD co.acc 0 k ∧ agetD co'.accPoison false k = agetD co.accPoison false k)
      ∧ (∀ k c g, a.owners.head? = some k → aget s.ctxs k = some c → aget s.groups c.group = some g →
        aget t.groups c.group = some { g with
          slots := (match a.setSlot with | some n => g.slots &&& ~~~(1#8 <<< n) | none => g.slots) })

/-- 11 R325 to R334: matrix instructions at issue, and the completion of an accumulator write. -/
def Obligations.matrix_operations : Prop :=
  Sys2Proof.Claims.MatrixOperationsIssue ∧ Sys2Proof.Claims.AccumulatorWritesComplete

/-! ## Control flow (07 R179 to R196, R204) -/

/-- Control goes to `r.pc`: the target bit of the slot there is still to be checked, no line is held, no prefix state
remains (06 R133; 07 R178). -/
def Sys2Proof.Claims.Jumps (s t : State) (e : Env) (r : CtxRegs) : Prop :=
  OnlyCtx s t e.key ∧ ∃ c, aget t.ctxs e.key = some c ∧ c.region.isSome = true
    ∧ c = { e.c with r := { r with ovt := ovtInForce s e, pblk := none, xwords := [] }, region := c.region, ibuf := none,
                     arrived := true }

/-- The target of a slot: lines from its own line, then the slot in that line (06 R142). -/
def Sys2Proof.Claims.target (pc : Word64) (off : BitVec 32) (slot : BitVec 3) : Word64 :=
  BitVec.ofInt 64 (((pc.toNat / 64 * 64 : Nat) : Int) + 64 * off.toInt + slot.toNat)

/-- 07 R179 to R181, Table 7-5: `bra` transfers when its condition holds of the active lanes and the mask, else it goes to
the next slot. -/
def Sys2Proof.Claims.Branches : Prop :=
  ∀ (s : State) (e : Env) (f : FmtB) (m : LaneMask) (taken : Bool), Ready (.bra f) s e →
    m = maskOf e.c.r f.mask.toNat →
    (taken = true ↔ f.cond = 0
      ∨ (f.cond = 1 ∧ ∃ l, l < 64 ∧ e.c.r.m0.getLsbD l = true ∧ m.getLsbD l = true)
      ∨ (f.cond = 2 ∧ ∀ l, l < 64 → e.c.r.m0.getLsbD l = true → m.getLsbD l = true)
      ∨ (f.cond = 3 ∧ ∀ l, l < 64 → e.c.r.m0.getLsbD l = true → m.getLsbD l = false)
      ∨ (f.cond = 4 ∧ ∃ l, l < 64 ∧ e.c.r.m0.getLsbD l = true ∧ m.getLsbD l = false)) →
    ∃ t, exec (.bra f) s = .next t
      ∧ (taken = true → Jumps s t e { e.c.r with pc := target e.c.r.pc f.toff f.tslot })
      ∧ (taken = false → RegsAre s t e (stepped s e))

/-- 07 R183, R184: `call` and `calli` push one link for each live lane and transfer, `ret` pops the entry and transfers to
the link of the active lanes; the return stack holds 32 entries, and traps name its misuse. -/
def Sys2Proof.Claims.CallsAndReturns : Prop :=
  ∀ (s : State) (e : Env) (f : FmtB) (link : Amap Word64),
    link = (lanesOf e.c.live).map (fun l => (l, nextSlot e.c.r.pc)) →
    (Ready (.call f) s e → e.c.r.rstack.length < 32 → ∃ t, exec (.call f) s = .next t
      ∧ Jumps s t e { e.c.r with pc := target e.c.r.pc f.toff f.tslot, rstack := link :: e.c.r.rstack })
    ∧ (∀ pc, Ready (.calli f) s e → pc = opPair e (f.joff.setWidth 9) 0 →
      (pc.toNat % 64 < 5 → e.c.r.rstack.length < 32 → ∃ t, exec (.calli f) s = .next t
        ∧ Jumps s t e { e.c.r with pc := pc, rstack := link :: e.c.r.rstack })
      ∧ (5 ≤ pc.toNat % 64 → ∃ t, exec (.calli f) s = .next t ∧ Traps s t e (plainTrap 0x02 e.c.r.pc)))
    ∧ (∀ i, (i = .call f ∨ (i = .calli f ∧ (opPair e (f.joff.setWidth 9) 0).toNat % 64 < 5)) → Ready i s e →
      32 ≤ e.c.r.rstack.length → ∃ t, exec i s = .next t ∧ Traps s t e (plainTrap 0x07 e.c.r.pc))
    ∧ (Ready (.ret f) s e →
      (e.c.r.rstack = [] → ∃ t, exec (.ret f) s = .next t ∧ Traps s t e (plainTrap 0x05 e.c.r.pc))
      ∧ (∀ top rest pc, e.c.r.rstack = top :: rest → e.c.r.m0 ≠ 0 →
        (∀ d, e.c.r.dstack.head? = some d → d.depth ≠ rest.length + 1) →
        (e.c.arm = .whole ∨ ∀ sp, e.g.split = some sp → sp.depth ≠ rest.length + 1) →
        (∀ l, l < 64 → e.c.r.m0.getLsbD l = true → agetD top 0 l = pc) →
        ∃ t, exec (.ret f) s = .next t ∧ Jumps s t e { e.c.r with pc := pc, rstack := rest })
      ∧ (∀ top rest, e.c.r.rstack = top :: rest →
        ((∃ d, e.c.r.dstack.head? = some d ∧ d.depth = rest.length + 1)
          ∨ (e.c.arm ≠ .whole ∧ ∃ sp, e.g.split = some sp ∧ sp.depth = rest.length + 1)) →
        ∃ t, exec (.ret f) s = .next t ∧ Traps s t e (plainTrap 0x06 e.c.r.pc))
      ∧ (∀ top rest k l, e.c.r.rstack = top :: rest → k < 64 → l < 64 → e.c.r.m0.getLsbD k = true →
        e.c.r.m0.getLsbD l = true → agetD top 0 k ≠ agetD top 0 l →
        ∃ t, exec (.ret f) s = .next t ∧ Traps s t e (plainTrap 0x06 e.c.r.pc)))

/-- 07 R179 to R184: uniform branches, calls and returns. -/
def Obligations.branches_and_calls : Prop :=
  Sys2Proof.Claims.Branches ∧ Sys2Proof.Claims.CallsAndReturns

/-- A context of a fresh arm or group: as `c` says, at its own commit point, with the next generation of its slot, its
copy of the overflow table, nothing under way and nothing noted as written (03 R79; 07 R188, Table 7-6; 18 R418). -/
def Sys2Proof.Claims.Born (s t : State) (key : Nat) (c : Ctx) : Prop :=
  ∃ d, aget t.ctxs key = some d
    ∧ d = { c with
        r := { c.r with
          wroteG := [], wroteM := [], randRuns := 0, seedReset := false, ovt := (viOf s (viOfCtx s key)).ovt }
        region := none, status := .running, fault := none, gen := agetD s.gens 0 key + 1, same := 0, win := 0,
        winOpen := false, drain := [], ibuf := none, recSlot := none, paused := none, carried := [], handed := none }

/-- 07 R182, R188, R189: `brm` with one empty side only branches or goes on; in an arm it pushes a divergence entry and
takes the taken lanes; in a whole group it makes two arms, each with its lanes and its PC, and the split record. -/
def Sys2Proof.Claims.DivergentBranches : Prop :=
  ∀ (s : State) (e : Env) (f : FmtB) (tk ft : LaneMask), Ready (.brm f) s e →
    tk = e.c.r.m0 &&& maskOf e.c.r f.mask.toNat → ft = e.c.r.m0 &&& ~~~(maskOf e.c.r f.mask.toNat) →
    (ft = 0 → ∃ t, exec (.brm f) s = .next t ∧ Jumps s t e { e.c.r with pc := target e.c.r.pc f.toff f.tslot })
    ∧ (ft ≠ 0 → tk = 0 → ∃ t, exec (.brm f) s = .next t ∧ RegsAre s t e (stepped s e))
    ∧ (ft ≠ 0 → tk ≠ 0 → e.c.arm ≠ .whole → e.c.r.dstack.length < 16 → ∃ t, exec (.brm f) s = .next t
      ∧ Jumps s t e { e.c.r with
          pc := target e.c.r.pc f.toff f.tslot, m0 := tk,
          dstack := { jpc := target e.c.r.pc f.joff f.jslot, depth := e.c.r.rstack.length, mask := e.c.r.m0,
                      epc := nextSlot e.c.r.pc, emask := ft, fmt := e.c.r.fmt, elsePhase := false } :: e.c.r.dstack })
    ∧ (ft ≠ 0 → tk ≠ 0 → e.c.arm ≠ .whole → 16 ≤ e.c.r.dstack.length → ∃ t, exec (.brm f) s = .next t
      ∧ Traps s t e (plainTrap 0x07 e.c.r.pc))
    ∧ (ft ≠ 0 → tk ≠ 0 → e.c.arm = .whole → e.key % 65536 + 65536 * (2 * (e.g.first / 8)) = e.key →
      ∃ t fk g, exec (.brm f) s = .next t ∧ fk = e.key + 65536
        ∧ Born s t e.key { e.c with
            r := { e.c.r with m0 := tk, pc := target e.c.r.pc f.toff f.tslot, pblk := none, xwords := [] },
            arm := .taken, live := tk, arrived := true }
        ∧ Born s t fk { e.c with
            r := { e.c.r with m0 := ft, pc := nextSlot e.c.r.pc, pblk := none, xwords := [] },
            arm := .fall, live := ft, arrived := false }
        ∧ aget t.groups e.c.group = some g ∧ (∃ sp : SplitRec, g = { e.g with split := some sp }
          ∧ sp = { jpc := target e.c.r.pc f.joff f.jslot, depth := e.c.r.rstack.length, fmt := e.c.r.fmt,
                   mask := e.c.live, lanesT := tk, lanesF := ft })
        ∧ (∀ k, k ≠ e.key → k ≠ fk → aget t.ctxs k = aget s.ctxs k) ∧ t.frames = s.frames
        ∧ ∀ pa, readByte t pa = readByte s pa)

/-- The context is an arm that arrives at the join of its split (07 R190). -/
def Sys2Proof.Claims.Arrives (e : Env) (sp : SplitRec) : Prop :=
  e.g.split = some sp ∧ e.c.arm ≠ .whole ∧ e.c.r.dstack = [] ∧ sp.jpc = e.c.r.pc ∧ sp.depth = e.c.r.rstack.length

/-- 07 R190, R191, Table 7-6: a `join` that matches nothing goes on; one that matches the top divergence entry turns to the
else side, or pops the entry and restores its lanes and format; an arm that arrives parks until its sibling has, a sibling
that is about to halt not among them (07 R187); the second to arrive makes them one group again after the join. -/
def Sys2Proof.Claims.Joins : Prop :=
  ∀ (s : State) (e : Env) (f : FmtB), Ready (.join f) s e →
    ((∀ d, e.c.r.dstack.head? = some d → d.jpc = e.c.r.pc → d.depth ≠ e.c.r.rstack.length) →
      (∀ sp, ¬ Arrives e sp) → ∃ t, exec (.join f) s = .next t ∧ RegsAre s t e (stepped s e))
    ∧ (∀ d rest, e.c.r.dstack = d :: rest → d.jpc = e.c.r.pc → d.depth = e.c.r.rstack.length →
      ∃ t c, exec (.join f) s = .next t ∧ OnlyCtx s t e.key ∧ aget t.ctxs e.key = some c
        ∧ c = { e.c with r := c.r, region := c.region, ibuf := none, arrived := false }
        ∧ (d.elsePhase = false → d.emask &&& e.c.live ≠ 0 → c.r = { e.c.r with
            ovt := ovtInForce s e, pc := d.epc, m0 := d.emask &&& e.c.live, fmt := d.fmt, pblk := none, xwords := [],
            dstack := { d with elsePhase := true } :: rest })
        ∧ (d.elsePhase = true ∨ d.emask &&& e.c.live = 0 → c.r = { e.c.r with
            ovt := ovtInForce s e, pc := nextSlot d.jpc, m0 := d.mask &&& e.c.live, fmt := d.fmt, pblk := none,
            xwords := [], dstack := rest }))
    ∧ (∀ sp, Arrives e sp → ∀ k sib, siblingOf s e.key e.c.group = some (k, sib) →
      (sib.status ≠ .parkedJoin ∨ sib.fault ≠ none → ∃ t, exec (.join f) s = .next t ∧ OnlyCtx s t e.key
        ∧ aget t.ctxs e.key = some { e.c with status := .parkedJoin, ibuf := none })
      ∧ (sib.status = .parkedJoin → sib.fault = none → e.c.arm = .fall → sib.arm = .taken → e.key % 65536 + 65536 * (2 * (e.g.first / 8)) = k →
        e.key = k + 65536 → ∃ t c g, exec (.join f) s = .next t ∧ aget t.ctxs e.key = none ∧ aget t.ctxs k = some c
          ∧ c.arm = .whole ∧ c.status = .running ∧ c.live = sib.live ||| e.c.live ∧ c.region = none
          ∧ c.r.pc = nextSlot sp.jpc ∧ c.r.m0 = sib.live ||| e.c.live ∧ c.r.fmt = sp.fmt ∧ c.r.dstack = []
          ∧ (∀ n, gAt c.r n = if e.c.r.wroteG.contains (256 + n) && decide (n < 128) then gAt e.c.r n else gAt sib.r n)
          ∧ (∀ m l, 1 ≤ m → m < 16 → l < 64 →
            (sp.lanesT.getLsbD l = true → sp.lanesF.getLsbD l = false →
              (maskOf c.r m).getLsbD l = (maskOf sib.r m).getLsbD l)
            ∧ (sp.lanesF.getLsbD l = true → sp.lanesT.getLsbD l = false →
              (maskOf c.r m).getLsbD l = (maskOf e.c.r m).getLsbD l))
          ∧ aget t.groups e.c.group = some g ∧ g = { e.g with split := none } ∧ t.frames = s.frames))

/-- 07 R186 to R191: `brm` and `join`.
Where the spec is silent the model's choice stands: log entries 43 and 44. -/
def Obligations.divergence_and_joins : Prop :=
  Sys2Proof.Claims.DivergentBranches ∧ Sys2Proof.Claims.Joins

/-- 07 R186, R197, R204, R205, R193 to R196: `rgn` only opens a new region at the next slot; `trap` and `brk` halt the
context with their code, its PC at the slot after; `wset` of the present width is a boundary, of a smaller width it makes
a group of each part that has a live lane, of a greater one it parks while a group of its window has not come; in an arm,
a nest or a subroutine it traps.
Where the spec is silent the model's choice stands: log entries 43 and 45. -/
def Sys2Proof.Claims.BoundariesHaltsAndWidths : Prop :=
  ∀ (s : State) (e : Env) (f : FmtB),
    (Ready (.rgn f) s e → ∃ t, exec (.rgn f) s = .next t ∧ OnlyCtx s t e.key
      ∧ aget t.ctxs e.key = some { e.c with r := moved s e, ibuf := none })
    ∧ (∀ i cause, (i = .trap f ∧ cause = 0x12 ∨ i = .brk f ∧ cause = 0x11) → Ready i s e →
      ∃ t, exec i s = .next t
        ∧ Traps s t e { plainTrap cause e.c.r.pc with code := f.toff, pc := nextSlot e.c.r.pc })
    ∧ (∀ w, Ready (.wset f) s e → w = 8 * 2 ^ f.cond.toNat →
      ((e.c.arm ≠ .whole ∨ e.c.r.dstack ≠ [] ∨ e.c.r.rstack ≠ []) →
        ∃ t, exec (.wset f) s = .next t ∧ Traps s t e (plainTrap 0x03 e.c.r.pc))
      ∧ (e.c.arm = .whole → e.c.r.dstack = [] → e.c.r.rstack = [] →
        e.c.nLd = 0 → e.c.nSt = 0 → e.c.nCp = 0 → e.c.nTl = 0 → e.g.slots = 0 →
        (w = e.g.width → ∃ t, exec (.wset f) s = .next t ∧ OnlyCtx s t e.key
          ∧ aget t.ctxs e.key = some { e.c with r := moved s e, ibuf := none })
        ∧ (w < e.g.width → ∀ n, n < e.g.width / w → ∀ a live, a = e.g.first + n * w →
          live = e.fr.live &&& laneWindow a w → live ≠ 0 → e.g.first % 8 = 0 →
          ∃ t c g, exec (.wset f) s = .next t
            ∧ aget t.ctxs (coreOf e.key + 512 * e.fr.phys + 65536 * (2 * (a / 8))) = some c
            ∧ aget t.groups c.group = some g
            ∧ c.live = live ∧ c.arm = .whole ∧ c.status = .running ∧ c.region = none ∧ c.r.m0 = live
            ∧ c.r.pc = nextSlot e.c.r.pc ∧ c.r.g = e.c.r.g ∧ c.r.masks = e.c.r.masks ∧ c.r.fmt = e.c.r.fmt
            ∧ g.width = w ∧ g.first = a ∧ g.slots = 0 ∧ g.split = none
            ∧ g.gid = BitVec.ofNat 32 (0x00010000 + 64 * e.fr.no + a) ∧ t.frames = s.frames)
        ∧ (e.g.width < w → (∀ p ∈ s.ctxs, frameKeyOf p.1 = frameKeyOf e.key → p.2.status = .parkedWset w →
            p.2.r.pc = e.c.r.pc ∧ firstOf s p.2 / w = e.g.first / w) →
          (∀ p ∈ s.ctxs, frameKeyOf p.1 = frameKeyOf e.key → ∀ v, p.2.status = .parkedWset v → v = w) →
          (∃ p ∈ s.ctxs, p.1 ≠ e.key ∧ frameKeyOf p.1 = frameKeyOf e.key ∧ firstOf s p.2 / w = e.g.first / w
            ∧ p.2.status ≠ .parkedWset w) →
          ∃ t, exec (.wset f) s = .next t ∧ OnlyCtx s t e.key
            ∧ aget t.ctxs e.key = some { e.c with status := .parkedWset w, ibuf := none })))

/-- 07 R195, R196: the `wset` at which the last group of a window arrives makes the window one group of the new width after
the `wset`: its lanes are the window's live ones, each bit of a mask register comes from the group that held the lane, and
the g registers, the format register and the seed from the group with the lowest live lane (log entry 45). -/
def Sys2Proof.Claims.WindowsFuse : Prop :=
  ∀ (s : State) (e : Env) (f : FmtB) (w start : Nat) (win : List (Nat × Ctx)) (q : Nat × Ctx), Ready (.wset f) s e →
    w = 8 * 2 ^ f.cond.toNat → e.g.width < w → start = e.g.first / w * w →
    win = windowCtxs s (frameKeyOf e.key) e.g.first w → arising s.ctxs = true →
    e.c.arm = .whole → e.c.r.dstack = [] → e.c.r.rstack = [] →
    e.c.nLd = 0 → e.c.nSt = 0 → e.c.nCp = 0 → e.c.nTl = 0 → e.g.slots = 0 →
    (∀ p ∈ s.ctxs, frameKeyOf p.1 = frameKeyOf e.key → ∀ v, p.2.status = .parkedWset v → v = w) →
    (∀ p ∈ win, p.1 ≠ e.key → p.2.status = .parkedWset w ∧ p.2.r.pc = e.c.r.pc ∧ p.2.fault = none) →
    (∀ p ∈ win, ∀ p' ∈ win, p.1 ≠ p'.1 → groupLanes s p.2 &&& groupLanes s p'.2 = 0) →
    (∀ p ∈ s.ctxs, p.2.group < s.nextId) →
    q ∈ win → (∀ p ∈ win, p.1 ≠ q.1 → (lanesOf q.2.live).headD 64 < (lanesOf p.2.live).headD 64) →
    ∃ t c g, exec (.wset f) s = .next t
      ∧ aget t.ctxs (e.fr.core + 512 * e.fr.phys + 65536 * (2 * (start / 8))) = some c
      ∧ aget t.groups c.group = some g
      ∧ c.live = e.fr.live &&& laneWindow start w ∧ c.r.m0 = c.live ∧ c.arm = .whole ∧ c.status = .running
      ∧ c.region = none ∧ c.r.pc = nextSlot e.c.r.pc ∧ c.r.g = q.2.r.g ∧ c.r.fmt = q.2.r.fmt ∧ c.r.seed = q.2.r.seed
      ∧ (∀ p ∈ win, ∀ k l, 1 ≤ k → k < 16 → l < 64 → (groupLanes s p.2).getLsbD l = true →
        (maskOf c.r k).getLsbD l = (maskOf p.2.r k).getLsbD l)
      ∧ g.width = w ∧ g.first = start ∧ g.slots = 0 ∧ g.split = none
      ∧ g.gid = BitVec.ofNat 32 (0x00010000 + 64 * e.fr.no + start) ∧ t.frames = s.frames

/-- 07 R186, R193 to R197, R204, R205: boundaries, halts, and changes of width. -/
def Obligations.boundaries_halts_and_widths : Prop :=
  Sys2Proof.Claims.BoundariesHaltsAndWidths ∧ Sys2Proof.Claims.WindowsFuse

/-- 07 R185, R192; 10 R291: `exit` ends the active lanes: a whole group with none left is gone and its cohort may end;
copies and fabric operations under way hold back that end; lanes that are left at the top divergence entry go on at its
else side. -/
def Obligations.lanes_exit : Prop :=
  ∀ (s : State) (e : Env) (f : FmtB), Ready (.exit f) s e →
    (e.c.arm = .whole → e.c.r.dstack = [] → e.c.r.m0 = e.c.live →
      (e.c.nCp ≠ 0 ∨ ∃ p ∈ s.fabs, p.2.failed = false ∧ p.2.owners.contains e.key = true) →
      ∃ t, exec (.exit f) s = .next t ∧ OnlyCtx s t e.key ∧ aget t.ctxs e.key = some e.c)
    ∧ (e.c.arm = .whole → e.c.r.dstack = [] → e.c.r.m0 = e.c.live →
      e.c.nCp = 0 → (∀ p ∈ s.fabs, p.2.failed = true ∨ p.2.owners.contains e.key = false) →
      (∀ p ∈ s.ctxs, frameKeyOf p.1 = frameKeyOf e.key → ∀ w, p.2.status ≠ .parkedWset w) →
      ∃ t fr, exec (.exit f) s = .next t ∧ aget t.ctxs e.key = none ∧ aget t.groups e.c.group = none
        ∧ aget t.frames (frameKeyOf e.key) = some fr ∧ fr = { e.fr with live := e.fr.live &&& ~~~e.c.r.m0 }
        ∧ t.agenda.contains (.cohortEnd e.fr.tag) = true
        ∧ (∀ k, k ≠ e.key → aget t.ctxs k = aget s.ctxs k)
        ∧ ∀ pa, readByte t pa = readByte s pa)
    ∧ (∀ d rest left, e.c.r.dstack = d :: rest → d.elsePhase = false → left = e.c.live &&& ~~~e.c.r.m0 →
      d.emask &&& left ≠ 0 →
      ∃ t c fr, exec (.exit f) s = .next t ∧ aget t.ctxs e.key = some c ∧ c.live = left ∧ c.r.m0 = d.emask &&& left
        ∧ c.r.pc = d.epc ∧ c.r.fmt = d.fmt ∧ c.r.dstack.length = rest.length + 1 ∧ c.arm = e.c.arm
        ∧ aget t.frames (frameKeyOf e.key) = some fr ∧ fr = { e.fr with live := e.fr.live &&& ~~~e.c.r.m0 }
        ∧ (∀ k, k ≠ e.key → aget t.ctxs k = aget s.ctxs k)
        ∧ ∀ pa, readByte t pa = readByte s pa)

/-! ## Layout instructions (13 R356 to R360) -/

/-- The band of each executing lane lies in the view, its region record is translated to `x`, its page allows the access,
and the record's line is clean (13 R358). -/
def Sys2Proof.Claims.RecordsOk (s1 : State) (e : Env) (f : FmtT) (h : BitVec 1024) (acc : Access) (x : Nat → Xlat) : Prop :=
  ∀ l, l < 64 → e.exec.getLsbD l = true →
    inView h (runAt e f l 0) = true
    ∧ translate s1 (eCore e) (eVi e) (recordVa h (bandIndex h (recOrigin h 0 + (coord0 e f l).toNat)
        (recOrigin h 1 + (coord1 e f l).toNat) (recOrigin h 2 + (coord2 e f l).toNat))) = .ok (x l)
    ∧ pageRefuses (viOf s1 (eVi e)).desc acc (x l) = false ∧ isPoisoned s1 (lineOf (x l).pa) = false

/-- 13 R356 to R360: `lyrd` gives each executing lane words 0 and 1 of its band's record once no older operation of its
context is left, the band does not move and no decision is due; `lypin`, `lyunp` and `lyadv` put their operations into the
store buffer, one a lane in order, and change no band before the region commits.
Where the spec is silent the model's choice stands: log entry 38. -/
def Obligations.layout_instructions : Prop :=
  ∀ (s : State) (e : Env) (i : Instr) (f : FmtT) (h : BitVec 1024) (x : Nat → Xlat) (s1 : State) (e1 : Env)
    (fl : Nat → Fill),
    Ready i s e → e1 = actEnv i s e → s1 = actState i s e → e.exec ≠ 0 → hAt e.c.r f.h.toNat = some h →
    fl = xlatFill s (eVi e) 0 ((lanesOf e.exec).map x) →
    (∀ lines, i = .lyrd f → RecordsOk s1 e f h .record x →
      lines = distinct ((distinct ((lanesOf e.exec).map (fun l => (x l).pa / 64))).map (fun k => lineOf (64 * k))) →
      (∀ en ∈ storesOf (regionItems e.c), ∀ ops, en ≠ .layout ops) →
      (∀ l, l < 64 → e.exec.getLsbD l = true → layoutPending (bandAt s1 ((x l).pa / 64)) e.key = false
        ∧ bandBusy s1 ((x l).pa / 64) = false) →
      loadWaits s1 e1 fl lines = false → RoomFor s (eDie e) fl lines → L1Room s (eCore e) lines →
      ∃ t r, exec i s = .next t ∧ OnlyRegsAndCaches s t e ∧ regsOf t e.key = some (stepped s e)
        ∧ (aget t.ctxs e.key).bind (·.region) = some r ∧ (r.nonspec = false → ∀ n ∈ lines, r.reads.contains n = true)
        ∧ ∀ n l, l < 64 →
          (e.exec.getLsbD l = true → (n = f.d.toNat + 1 → vReg t e.key n l = readWord s ((x l).pa / 64 * 64 + 4))
            ∧ (n = f.d.toNat → ∀ w, w = readWord s ((x l).pa / 64 * 64) →
              vReg t e.key n l = if w.extractLsb' 4 2 = 1#2 then w &&& ~~~0x30#32 else w))
          ∧ (¬ (e.exec.getLsbD l = true ∧ (n = f.d.toNat ∨ n = f.d.toNat + 1)) → vReg t e.key n l = vReg s e.key n l))
    ∧ (∀ kind, (i = .lypin f ∧ kind = 0 ∨ i = .lyunp f ∧ kind = 1 ∨ i = .lyadv f ∧ kind = 2) →
      RecordsOk s1 e f h .recordPin x → isNonspec e1 = false →
      (∀ l, l < 64 → e.exec.getLsbD l = true → orderLegal h (bandAt s1 ((x l).pa / 64)).order = true
        ∧ (kind = 1 ∨ (kind = 0 ∧ (opWord e 9 0 f.d l).getLsbD 4 = true)
          ∨ orderLegal h ((opWord e 9 0 f.d l).extractLsb' 0 4) = true)) →
      ∃ t c r r0 ops, exec i s = .next t ∧ OnlyRegsAndCaches s t e ∧ SameV s t ∧ aget t.ctxs e.key = some c
        ∧ c = { e.c with r := stepped s e, region := some r } ∧ e1.c.region = some r0
        ∧ r = { r0 with items := r0.items ++ [.store (.layout ops)] }
        ∧ ops.map (fun o => (o.kind, o.band, o.x, o.ctxs, o.vi))
          = (lanesOf e.exec).map (fun l => (kind, (x l).pa / 64, opWord e 9 0 f.d l, [e.key], eVi e)))

/-! ## Privileged instructions (18 R433 to R437) -/

/-- 18 R434, R435, R437; 03 R79: `ovtld` gives the VI a new overflow table, unless reserved bits are set; `tlbinv` drops the
translations of its address space that it names and keeps the context where it is until the invalidation completes; `ambw`
writes one event of code 0x80 to the Amber record. -/
def Sys2Proof.Claims.PrivilegedInstructions : Prop :=
  ∀ (s : State) (e : Env) (f : FmtA),
    (Ready (.ovtld f) s e → (opWord e 9 f.imm f.a 0).extractLsb' 22 10 = 0#10 →
      ∃ t, exec (.ovtld f) s = .next t ∧ t = { s with ctxs := t.ctxs, vis := t.vis }
        ∧ (∀ k, k ≠ e.key → aget t.ctxs k = aget s.ctxs k)
        ∧ aget t.ctxs e.key = some { e.c with r := { moved s e with ovt := opWord e 9 f.imm f.a 0 }, ibuf := none }
        ∧ ∀ v, viOf t v = if v = eVi e then { viOf s v with ovt := opWord e 9 f.imm f.a 0 } else viOf s v)
    ∧ (Ready (.ovtld f) s e → (opWord e 9 f.imm f.a 0).extractLsb' 22 10 ≠ 0#10 →
      ∃ t, exec (.ovtld f) s = .next t ∧ Traps s t e (plainTrap 0x01 e.c.r.pc))
    ∧ (Ready (.tlbinv f) s e → (∀ p ∈ s.tlbInvs, p.2.ctx ≠ some e.key) →
      ∃ t, exec (.tlbinv f) s = .next t ∧ aget t.ctxs e.key = some e.c
        ∧ (∀ x, x ∈ t.tlb ↔ x ∈ s.tlb ∧ ¬ (x.asid = descAsid (viOf s (eVi e)).desc
          ∧ (f.c = 1 → x.page = pageOf x.level (opPair e f.a 0))))
        ∧ t.agenda.contains (.tlbInvalidationComplete s.nextId) = true
        ∧ (aget t.tlbInvs s.nextId).bind (·.ctx) = some e.key
        ∧ ∀ pa, readByte t pa = readByte s pa)
    ∧ (Ready (.ambw f) s e → ∃ t ev, exec (.ambw f) s = .next t
        ∧ t = { s with ctxs := t.ctxs, amber := (ev :: s.amber).take 4096, amberSeq := s.amberSeq + 1 }
        ∧ (∀ k, k ≠ e.key → aget t.ctxs k = aget s.ctxs k)
        ∧ aget t.ctxs e.key = some { e.c with r := moved s e, ibuf := none }
        ∧ ev.code = 0x80 ∧ ev.seq = s.amberSeq ∧ ev.time = s.time ∧ ev.die = eDie e ∧ ev.unit = eCore e
        ∧ ev.arg0 = (opWord e 9 f.imm f.a 0).setWidth 64 ∧ ev.arg1 = (opWord e 9 f.imm f.b 0).setWidth 64
        ∧ ev.arg2 = (ctxidOf e.key e.c).setWidth 64 ∧ ev.arg3 = e.c.r.pc)

/-- 18 R436; 16 R396: `cmnt` fills a line with the word of D, 32 times, and clears its poison; no other byte changes. -/
def Sys2Proof.Claims.CmntFillsALine : Prop :=
  ∀ (s : State) (e : Env) (f : FmtM) (x : Xlat) (s1 : State) (line : Nat) (fl : Nat → Fill),
    Ready (.cmnt f) s e → s1 = actState (.cmnt f) s e → (addrM e f 0).toNat % 128 = 0 →
    translate s1 (eCore e) (eVi e) (addrM e f 0) = .ok x → pageRefuses (viOf s (eVi e)).desc .cmnt x = false →
    line = lineOf x.pa → lineMoving s1 line = false → fl = xlatFill s (eVi e) 0 [x] →
    storeWaits s1 e fl [line] = false → RoomFor s (eDie e) fl [line] → NoHolder s e.key [line] →
    pteLyrec x.pte = false → bandHeld s (2 * line) = false → bandHeld s (2 * line + 1) = false →
    ∃ t, exec (.cmnt f) s = .next t ∧ OnlyRegsAndMemory s t e ∧ SameV s t
      ∧ aget t.ctxs e.key = some { e.c with r := moved s e, ibuf := none } ∧ isPoisoned t line = false
      ∧ (∀ n, n ≠ line → isPoisoned t n = isPoisoned s n)
      ∧ ∀ a, readByte t a = if lineOf a = line then (opWord e 9 0 f.d 0).extractLsb' (8 * (a % 4)) 8 else readByte s a

/-- 18 R434 to R437; 03 R79: the privileged instructions.
Where the spec is silent the model's choice stands: log entry 77 for the table that `ovtld` changes, 46 for `tlbinv`, 36 for
`cmnt` into a record. -/
def Obligations.privileged_instructions : Prop :=
  Sys2Proof.Claims.PrivilegedInstructions ∧ Sys2Proof.Claims.CmntFillsALine

/-! ## Junction and fabric (20 R451 to R455, R466, R467) -/

/-- 20 R466: `jnlaunch`, `jnrst` and its forms hold one operation on the card at their address; a VI without RESHARD traps
PROTECTION, an address that is not a multiple of 256 traps MISALIGNED. -/
def Sys2Proof.Claims.JunctionOperationsAreHeld : Prop :=
  ∀ (s : State) (e : Env) (i : Instr) (f : FmtE) (op : Nat) (a : Word64),
    (i = .jnlaunch f ∧ op = 0 ∨ i = .jnrst f ∧ op = 1 ∨ i = .jnrstStop f ∧ op = 2 ∨ i = .jnrstClose f ∧ op = 3) →
    Ready i s e → a = opPair e f.s1 0 →
    ((viOf s (eVi e)).reshard = true → a.toNat % 256 = 0 →
      ∃ t, exec i s = .next t ∧ t.groups = s.groups
        ∧ Holds s t i e (.jn { op := op, ctx := e.key, vi := eVi e, card := a }) 0)
    ∧ ((viOf s (eVi e)).reshard = true → a.toNat % 256 ≠ 0 →
      ∃ t, exec i s = .next t ∧ Traps s t e (accessTrap 0x0B 0 14 0 a e.c.r.pc))
    ∧ ((viOf s (eVi e)).reshard = false →
      ∃ t, exec i s = .next t ∧ Traps s t e (accessTrap 0x0A ((lanesOf e.exec).headD 0) 14 0 0 e.c.r.pc))

/-- 20 R467: `jnst` reads the first two words of a milestone record into a pair of g registers, as a load does. -/
def Sys2Proof.Claims.MilestonesAreRead : Prop :=
  ∀ (s : State) (e : Env) (f : FmtE) (s1 : State) (e1 : Env) (x : Xlat) (bytes : List Byte) (lines : List Nat) (g : Nat)
    (fl : Nat → Fill),
    Ready (.jnst f) s e → e1 = actEnv (.jnst f) s e → s1 = actState (.jnst f) s e → (opPair e f.s1 0).toNat % 256 = 0 →
    translate s1 (eCore e) (eVi e) (opPair e f.s1 0) = .ok x → readXlat (seen s1 e1) x 8 = some bytes →
    pageRefuses (viOf s (eVi e)).desc .load x = false → lines = linesRead (seen s1 e1) x 8 →
    (∀ n ∈ lines, isPoisoned s n = false) ∨ forwarded (ownBytes s1 e1) x.pa 8 = true → fl = xlatFill s (eVi e) 0 [x] →
    loadWaits s1 e1 fl lines = false → RoomFor s (eDie e) fl lines → L1Room s (eCore e) lines →
    g = f.s0.toNat - 256 →
    ∃ t r, exec (.jnst f) s = .next t ∧ OnlyRegsAndCaches s t e ∧ SameV s t ∧ regsOf t e.key = some r
      ∧ r = { stepped s e with g := r.g, gpoison := r.gpoison, wroteG := r.wroteG }
      ∧ ∀ n, gAt r n = if n = g + 1 then BitVec.ofNat 32 (leNat (bytes.drop 4))
          else if n = g then BitVec.ofNat 32 (leNat bytes) else gAt e.c.r n

/-- 20 R466, R467: the Junction's instructions.
Where the spec is silent the model's choice stands: log entry 31. -/
def Obligations.junction_instructions : Prop :=
  Sys2Proof.Claims.JunctionOperationsAreHeld ∧ Sys2Proof.Claims.MilestonesAreRead

/-- The node word of a fabric instruction names an enabled peer, its barrier exists, its completion word fits (20 R451). -/
def Sys2Proof.Claims.FabricAllowed (s : State) (e : Env) (f : FmtE) : Prop :=
  (opWord e 9 0 f.s2 0).extractLsb' 30 2 = 0#2
  ∧ (∃ p ∈ (viOf s (eVi e)).peers, p.1 < 16 ∧ p.2.getLsbD 31 = true
    ∧ p.2.extractLsb' 0 30 = (opWord e 9 0 f.s2 0).extractLsb' 0 30)
  ∧ (f.baren = true → f.nb.toNat < pkNbar e.la.pkt)
  ∧ (f.cwen = true → (gAt e.c.r (f.cwreg.toNat - 256)).toNat % 4 = 0
    ∧ (gAt e.c.r (f.cwreg.toNat - 256)).toNat + 4 ≤ pkSpBytes e.la.pkt)

/-- A fabric operation is released: it stands among the operations under way, the context goes on at the next slot. -/
def Sys2Proof.Claims.Released (s t : State) (e : Env) (op : Nat) (o : FabOp) : Prop :=
  t = { s with ctxs := t.ctxs, fabs := t.fabs, agenda := t.agenda, nextId := s.nextId + 1, fabOut := t.fabOut,
               ports := t.ports, unsent := t.unsent, mem := t.mem, lineKey := t.lineKey, sealed := t.sealed }
  ∧ (∀ k, k ≠ e.key → aget t.ctxs k = aget s.ctxs k)
  ∧ aget t.ctxs e.key = some { e.c with r := moved s e, ibuf := none }
  ∧ (∀ k, aget t.fabs k = if k = s.nextId then some o else aget s.fabs k)
  ∧ o.op = op ∧ o.owners = [e.key] ∧ o.tag = e.fr.tag ∧ o.vi = eVi e ∧ o.pc = e.c.r.pc ∧ o.data = []

/-- 20 R451 to R454: `fput` begins to read its local side, `fget` asks the target, `fsig` waits for its turn; each takes its
operands at issue and runs on after its instruction. -/
def Obligations.fabric_operations_are_released : Prop :=
  ∀ (s : State) (e : Env) (i : Instr) (f : FmtE) (rem : Word64), Ready i s e → FabricAllowed s e f →
    rem = opPair e f.s0 0 →
    (∀ op loc, (i = .fput f ∧ op = 0 ∨ i = .fget f ∧ op = 1) → rem.toNat % 16 = 0 → eLen f % 16 = 0 → 0 < eLen f →
      loc = (if f.var = 1 then (opWord e 9 0 f.s1 0).toNat else (opPair e f.s1 0).toNat) → loc % 16 = 0 →
      (f.var = 1 → loc + eLen f ≤ pkSpBytes e.la.pkt) →
      ∃ t o, exec i s = .next t ∧ Released s t e op o ∧ o.remote = rem ∧ o.len = eLen f ∧ o.scratch = decide (f.var = 1)
        ∧ (if f.var = 1 then o.so else o.addr.toNat) = loc ∧ o.node = opWord e 9 0 f.s2 0
        ∧ (op = 0 → t.fabOut = s.fabOut ∧ ∃ u, u < eLen f / 16 ∧ t.agenda = s.agenda ++ [.copyUnitTransfer s.nextId u])
        ∧ (op = 1 → nodeOf o.node ≠ ownNode s → t.agenda = s.agenda ∧ t.fabOut = s.fabOut ++
          [{ node := nodeOf o.node, vi := nodeVi o.node, kind := 1, tag := s.nextId, addr := rem, len := eLen f, payload := [] }])
        ∧ (op = 1 → nodeOf o.node = ownNode s → t.fabOut = s.fabOut ∧ t.agenda = s.agenda ++
          [.fabricOperationAtTarget { port := none, srcNode := ownNode s, srcVi := eVi e, dstVi := nodeVi o.node, op := 1,
                                      tag := s.nextId, addr := rem, len := eLen f, payload := [], done := [], owned := [] }]))
    ∧ (i = .fsig f → rem.toNat % 8 = 0 →
      ∃ t o, exec i s = .next t ∧ Released s t e (if f.var = 1 then 3 else 2) o ∧ o.remote = rem
        ∧ o.value = opPair e f.s1 0 ∧ o.node = opWord e 9 0 f.s2 0 ∧ t.agenda = s.agenda ++ [.fsigWrite s.nextId])

/-! ## Issue (06 R161 to R163, Table 6-18; 07 R165, R175, R176) -/

/-- 06 R149, R161, R162; 07 R176, R177: whatever the instruction, a forbidden field, an extension word that it does not take,
a place under `pblk` that it may not have, or a privileged instruction without the right traps at its own PC and does
nothing else; a context that may not issue does nothing. A slot that is no instruction traps ILLEGAL_ENCODING.
Where the spec is silent the model's choice stands: log entry 72. -/
def Obligations.issue_checks : Prop :=
  ∀ (s : State) (e : Env) (i : Instr), isEvent i = false → envOf s = some e →
    (mayIssue e = false → exec i s = .next s)
    ∧ (mayIssue e = true → addsFirst (request i s) e s = false →
      ((encodingOk i = false ∨ (e.c.r.xwords ≠ [] ∧ (request i s).word = false)) →
        ∃ t, exec i s = .next t ∧ Traps s t e (plainTrap 0x01 e.c.r.pc))
      ∧ (encodingOk i = true → e.c.r.xwords = [] → (∀ n ∈ (request i s).vregs, n < pkVregs e.la.pkt) →
        (e.c.r.pblk.isSome = true → ((request i s).gov = false ∨ (request i s).uniform = true) →
          ∃ t, exec i s = .next t ∧ Traps s t e (plainTrap 0x16 e.c.r.pc))
        ∧ (e.c.r.pblk = none → (viOf s (eVi e)).priv = false →
          (∃ f, i = .ovtld f ∨ i = .tlbinv f ∨ i = .ambw f ∨ ∃ g, i = .cmnt g) →
          ∃ t, exec i s = .next t ∧ Traps s t e (plainTrap 0x10 e.c.r.pc))))
    ∧ ∀ w, i = .notAnInstruction w → mayIssue e = true → addsFirst (request i s) e s = false →
      ∃ t, exec i s = .next t ∧ Traps s t e (plainTrap 0x01 e.c.r.pc)

/-- Poison of the register that an operand names, in a lane. -/
def Sys2Proof.Claims.operandPoison (e : Env) (sp : Spec) (l : Nat) : BitVec 2 :=
  match operandOf sp with
  | .vreg n => vPoisonAt e.fr n l
  | .greg n => agetD e.c.r.gpoison 0 n
  | _ => 0

/-- 18 R425 to R427: an instruction that would consume a poisoned half of a v or a g register traps REGFILE_UNCORRECTABLE in
the lowest lane that meets one, names the register and does nothing else; on the uniform path it consumes once, as lane 0.
That the record names A before B is the model's choice: log entry 76. -/
def Obligations.poisoned_registers_trap : Prop :=
  ∀ (s : State) (e : Env) (i : Instr) (f : FmtA) (l : Nat) (pa pb : Nat → BitVec 2),
    (i = .add f ∨ i = .sub f ∨ i = .and f ∨ i = .or f ∨ i = .xor f) → envOf s = some e → mayIssue e = true →
    addsFirst (request i s) e s = false → encodingOk i = true → e.c.r.xwords = [] → e.c.r.pblk = none →
    (∀ k ∈ (request i s).vregs, k < pkVregs e.la.pkt) →
    (match e.c.region with | some r => noRoom (request i s) e r = false | none => True) →
    (∀ c, e.sib = some c → ∀ k, k < 64 → e.exec.getLsbD k = true → c.live.getLsbD k = false) →
    pa = operandPoison e f.a → pb = operandPoison e f.b →
    (f.u = false ∧ l < 64 ∧ e.exec.getLsbD l = true
      ∧ (∀ k, k < l → e.exec.getLsbD k = true → pa k = 0 ∧ pb k = 0) ∨ f.u = true ∧ l = 0) →
    (pa l ≠ 0 → ∃ t, exec i s = .next t ∧ Traps s t e { plainTrap 0x0E e.c.r.pc with
      lane := l, code := BitVec.ofNat 32 (f.a.toNat + if (pa l).getLsbD 0 then 0 else 65536) })
    ∧ (pa l = 0 → pb l ≠ 0 → ∃ t, exec i s = .next t ∧ Traps s t e { plainTrap 0x0E e.c.r.pc with
      lane := l, code := BitVec.ofNat 32 (f.b.toNat + if (pb l).getLsbD 0 then 0 else 65536) })

/-- 16 R398, R400; 07 R201: a store that claims a line rolls back the region of every other context that holds it, in its
read set or its write set: the registers are those at region entry, the v words that the region wrote are put back, the
region and its counts are gone, and the rollback is counted.
Where the spec is silent the model's choice stands: log entry 21. -/
def Obligations.claims_roll_back_other_regions : Prop :=
  ∀ (s : State) (e : Env) (i : Instr) (f : FmtM) (x : Nat → Xlat) (s1 : State) (e1 : Env) (cells : List Host.Cell)
    (fl : Nat → Fill) (k : Nat) (c : Ctx) (r : Region),
    (i = .st f ∨ i = .stg f) → Ready i s e → e1 = actEnv i s e → s1 = actState i s e →
    CanWrite s1 e1 .store (sizeOf_ f.ty.toNat) (addrM e f) x → e.exec ≠ 0 → isNonspec e1 = false →
    cells = cellsOf (lanesOf e.exec) (fun l => (x l).pa) f.ty.toNat (sizeOf_ f.ty.toNat)
      (opWord e f.ty.toNat 0 f.d) →
    fl = xlatFill s (eVi e) f.hint.toNat ((lanesOf e.exec).map x) → storeWaits s1 e1 fl (cellLines cells) = false →
    RoomFor s (eDie e) fl (cellLines cells) → k ≠ e.key → aget s.ctxs k = some c → c.region = some r → r.nonspec = false →
    (∃ n ∈ cellLines cells, r.reads.contains n = true ∨ r.writes.contains n = true) →
    ∃ t c', exec i s = .next t ∧ aget t.ctxs k = some c' ∧ c'.r = r.entry ∧ c'.region = none ∧ c'.fault = none
      ∧ c'.nSt = c.nSt - r.nSt ∧ c'.nCp = c.nCp - r.nCp ∧ c'.nTl = c.nTl - r.nTl ∧ c'.same = c.same + 1 ∧ SameBytes s t
      ∧ ∀ j lane w, lane < 64 → arising r.vold = true → aget r.vold (64 * j + lane) = some w →
        (aget s.frames (frameKeyOf k)).isSome = true →
        (∀ p ∈ s.ctxs, p.1 ≠ k → frameKeyOf p.1 = frameKeyOf k → ∀ r', p.2.region = some r' →
          aget r'.vold (64 * j + lane) = none) →
        vReg t k j lane = w

/-! ## The machine: reset, decoding, a step -/

/-- 02 R37; 03 R78; 04 R89, R98, R106; 05 R118, R121; 23 Table 23-1: what the spec says of the module right after reset. -/
def Obligations.reset_values : Prop :=
  (∀ v, (viOf State.reset v).en = false ∧ (viOf State.reset v).gang = 0 ∧ (viOf State.reset v).desc = 0
    ∧ (viOf State.reset v).ovt = 0x00155555#32)
  ∧ State.reset.sched = { entries := [(0, 1000000)], t0 := 0 }
  ∧ (∀ i, i < 64 → agetD State.reset.slotTab 0 i =
      if i % 16 = 3 then 2#3 else if i % 16 = 7 then 1#3 else if i % 16 = 15 then 4#3
      else if i % 16 = 1 ∨ i % 16 = 5 ∨ i % 16 = 11 then 3#3 else 0#3)
  ∧ State.reset.diePtr = 0 ∧ State.reset.genCtr = 0
  ∧ State.reset.mgmt.savelo = 0 ∧ State.reset.mgmt.savehi = 0 ∧ State.reset.mgmt.savesize = 0
  ∧ (∀ d, agetD State.reset.l2gmask 0 d = 0) ∧ State.reset.ctxs = [] ∧ State.reset.launches = []

/-- The memory of the module after reset has its canonical form (model: log entry 1). -/
def Obligations.reset_memory_is_canonical : Prop :=
  State.reset.memoryWf = true ∧ ∀ pa, readByte State.reset pa = 0

/-- Every step keeps the canonical form of memory and of the modified bytes that the caches hold. -/
def Obligations.steps_keep_memory_canonical : Prop :=
  ∀ s t : State, s.memoryWf = true → step s = .next t → t.memoryWf = true

/-- 06 R127, R131, R136, R158, R161: where one context can move and nothing else is due, the step issues the instruction to
which the slot at its PC decodes, on the state in which only time has passed; it traps ILLEGAL_ENCODING on a slot that
decodes to none, and fetches the line when the context does not hold it. A due event that nothing else competes with
happens.
Where the spec is silent the model's choice stands: log entries 2 and 3. -/
def Obligations.steps_run_decoded_instructions : Prop :=
  ∀ (s s' : State) (key : Nat) (c : Ctx),
    (s.agenda = [] → movers s = [key] → aget s.ctxs key = some c → (∀ t, c.status ≠ .resuming t) →
      s' = enter (passTime s) key →
      s' = { afterTime s with cur := key, ctxs := s'.ctxs }
      ∧ (∀ k, aget s'.ctxs k = aget s.ctxs k)
      ∧ (∀ b i, c.ibuf = some b → b.1 = pcLine c.r.pc → decode (lineSlot b.2 (pcSlot c.r.pc)) = .ok i →
        step s = exec i s')
      ∧ (∀ b err, c.ibuf = some b → b.1 = pcLine c.r.pc → decode (lineSlot b.2 (pcSlot c.r.pc)) = .error err →
        ∃ t c', step s = .next t ∧ aget t.ctxs key = some c' ∧ c'.fault = some (plainTrap 0x01 c.r.pc) ∧ c'.r = c.r
          ∧ t.agenda = [.contextHalt key])
      ∧ ((∀ b, c.ibuf = some b → b.1 ≠ pcLine c.r.pc) → step s = exec (.fetchLineArrival key 0) s'))
    ∧ (∀ i, s.agenda = [i] → movers s = [] → s.powered = true →
      step s = exec i { afterTime s with agenda := [] })
    ∧ (s.agenda = [] → movers s = [] → step s = .next (afterTime s))

/-- 06 R149, R161; 07, 08 and 09 Table 9-8, 11 Table 11-7: slots that the spec writes out decode to `icmp.lt.i32 m1, v0, 16`,
`ld.i32 v3, [g4 + v1 << 2 + 64]`, `brm m2, odd, done` and `mmaz.t8 acc[0], v8, v12, set d0`; a slot whose MAJ is not listed
is no instruction, one with a reserved bit set or a forbidden field is rejected. -/
def Obligations.sample_slots_decode : Prop :=
  decode 0x00000000000174001C191901#96 = .ok (.icmp {
    ty := 9, d := 449, a := 0, b := 464, c := 2, negA := false, negB := false, absA := false, absB := false, sat := false,
    u := false, imm := 0 })
  ∧ decode 0x000000004001006080390007#96 = .ok (.ld { ty := 9, d := 3, base := 260, idx := 1, shift := 2, hint := 0, off := 64 })
  ∧ decode 0x00000001000000001B20010D#96 = .ok (.brm { cond := 0, mask := 2, tslot := 3, jslot := 3, toff := 0, joff := 1 })
  ∧ decode 0x00000000100000018080010C#96 = .ok (.mmaz {
    shape := 0, abase := 8, bbase := 12, accrow := 0, waitm := 0, setslot := 0, seten := true, neg := false })
  ∧ decode 0x0000000000000000000000FF#96 = .ok (.notAnInstruction 0xFF#96)
  ∧ decode 0x00000000400174001C191901#96 = .error .reservedField
  ∧ decode 0x00000000000000000001050D#96 = .error .forbiddenField

/-- 06 R149, R161: decoding an encoded well-formed instruction gives it back, with every operand at every value that its
encoding admits. -/
def Obligations.decoding_inverts_encoding : Prop :=
  ∀ i : Instr, i.wellFormed = true → ∃ w, encode i = some w ∧ decode w = .ok i

/-- 06 R161: a slot that decodes stands for one instruction: it is the encoding of what it decodes to, which is
well-formed, or a slot that the opcode map does not list; any other slot is rejected. -/
def Obligations.slots_have_one_meaning : Prop :=
  ∀ (w : Slot) (i : Instr), decode w = .ok i →
    encode i = some w ∧ (i.wellFormed = true ∨ i = .notAnInstruction w)

/-! ## Events: fetch, translation, the end of regions -/

/-- 06 R127 to R136; 09 R246, R250; 16 R395; 18 R420, R435: a line that arrives, with the context's own pending stores over
it, is what the context issues from next, once translation, permission, poison, parity, target bit and reserved bits pass;
a soft error in the L1 copy has the L1 give the line up, by which the regions of the core that have read it roll back, and
the line comes again from the next level; what fails traps at the PC. A completed walk may be cached. A completed
invalidation lets the context behind its `tlbinv`, or TICTL, go on.
Where the spec is silent the model's choice stands: log entry 13 for the bank that an error is counted against, 17 for what a
walk caches, 31 for the place of a poisoned line among the traps of a fetch and for LANE and ADDR of these, 46 for an invalidation that completes once drains, adds and moves are over. -/
def Obligations.fetches_and_translations : Prop :=
  ∀ s : State,
    (∀ key noise e va x f n good line s1, envOf { s with cur := key } = some e → mayIssue e = true →
      va = BitVec.ofNat 64 (pcLine e.c.r.pc) → translate s (coreOf key) (eVi e) va = .ok x →
      f = xlatFill s (eVi e) 0 [x] → n = lineOf x.pa → good = lineOfBytes (readBytes (seen s e) x.pa 64) →
      line = (if parityOk (good ^^^ noise) then good ^^^ noise else good) → s1 = tlbFill s (coreOf key) (eVi e) va x →
      (pageRefuses (viOf s (eVi e)).desc .fetch x = true →
        ∃ t c, exec (.fetchLineArrival key noise) s = .next t ∧ aget t.ctxs key = some c
          ∧ c.fault = some (accessTrap 0x0A 0 0 0 va e.c.r.pc) ∧ c.r = e.c.r ∧ t.agenda.contains (.contextHalt key) = true)
      ∧ (pageRefuses (viOf s (eVi e)).desc .fetch x = false → anyPoison s x.pa 64 = true →
        linesBusy s1 e false f [n] = false →
        ∃ t c, exec (.fetchLineArrival key noise) s = .next t ∧ aget t.ctxs key = some c
          ∧ c.fault = some (accessTrap 0x0D 0 0 0 va e.c.r.pc) ∧ c.r = e.c.r ∧ t.agenda.contains (.contextHalt key) = true)
      ∧ (pageRefuses (viOf s (eVi e)).desc .fetch x = false → anyPoison s x.pa 64 = false →
        linesBusy s1 e false f [n] = false → RoomFor s (eDie e) f [n] → L1Room s (coreOf key) [n] →
        (parityOk (good ^^^ noise) = false → ∀ k c r, aget s.ctxs k = some c → coreOf k = coreOf key → c.region = some r →
          r.nonspec = false → r.reads.contains n = true →
          ∃ t c', exec (.fetchLineArrival key noise) s = .next t ∧ aget t.ctxs k = some c' ∧ c'.r = r.entry
            ∧ c'.region = none ∧ c'.same = c.same + 1
            ∧ faultCount t (l1Bank (coreOf key) n) = faultCount s (l1Bank (coreOf key) n) + 1)
        ∧ ((parityOk (good ^^^ noise) = false → ∀ p ∈ s.ctxs, coreOf p.1 = coreOf key → ∀ r, p.2.region = some r →
            r.nonspec = false → r.reads.contains n = false) →
          ∃ t, exec (.fetchLineArrival key noise) s = .next t ∧ (∀ k, k ≠ key → aget t.ctxs k = aget s.ctxs k)
            ∧ (∀ pa, readByte t pa = readByte s pa)
            ∧ (parityOk line = true → (e.c.arrived = true → lineTgt line (pcSlot e.c.r.pc) = true) →
              line.extractLsb' 497 15 = 0 →
              aget t.ctxs key = some { e.c with ibuf := some (pcLine e.c.r.pc, line), arrived := false })
            ∧ (parityOk line = false → (aget t.ctxs key).bind (·.fault) = some (plainTrap 0x0F e.c.r.pc))
            ∧ (parityOk line = true → e.c.arrived = true → lineTgt line (pcSlot e.c.r.pc) = false →
              (aget t.ctxs key).bind (·.fault) = some (plainTrap 0x02 e.c.r.pc))
            ∧ (parityOk line = true → (e.c.arrived = true → lineTgt line (pcSlot e.c.r.pc) = true) →
              line.extractLsb' 497 15 ≠ 0 → (aget t.ctxs key).bind (·.fault) = some (plainTrap 0x01 e.c.r.pc)))))
    ∧ (∀ key noise e va lv, envOf { s with cur := key } = some e → mayIssue e = true →
      va = BitVec.ofNat 64 (pcLine e.c.r.pc) → translate s (coreOf key) (eVi e) va = .error lv →
      ∃ t c, exec (.fetchLineArrival key noise) s = .next t ∧ aget t.ctxs key = some c
        ∧ c.fault = some (accessTrap 0x09 0 0 lv va e.c.r.pc) ∧ c.r = e.c.r
        ∧ t.agenda.contains (.contextHalt key) = true)
    ∧ (∀ core vi va x, translate s core vi va = .ok x →
      ∃ t, exec (.pageWalkComplete core vi va) s = .next t ∧ t = { s with tlb := t.tlb } ∧ (∀ y ∈ s.tlb, y ∈ t.tlb)
        ∧ ∀ p ∈ x.path, { core := core, asid := descAsid (viOf s vi).desc, level := p.1, page := pageOf p.1 va, pte := p.2 }
          ∈ t.tlb)
    ∧ (∀ core vi va lv, translate s core vi va = .error lv → exec (.pageWalkComplete core vi va) s = .next s)
    ∧ (∀ n i, aget s.tlbInvs n = some i →
      (∀ p ∈ s.ctxs, asidOfCtx s p.1 = i.asid → storesOf p.2.drain = []) → s.redsts = [] →
      (∀ p ∈ s.bands, ∀ v, (∃ m, p.2.move = some m ∧ m.vi = v) ∨ (∃ m, p.2.pinWait = some m ∧ m.vi = v)
        ∨ (∃ o ∈ p.2.queue, o.vi = v) → descAsid (viOf s v).desc ≠ i.asid) →
      ∃ t, exec (.tlbInvalidationComplete n) s = .next t ∧ aget t.tlbInvs n = none
        ∧ (∀ v, i.vi = some v → (viOf t v).ticBusy = false)
        ∧ (∀ k c, i.ctx = some k → aget s.ctxs k = some c → c.status = .running → c.fault = none → c.region = none →
          aget t.ctxs k = some { c with r := { advance c.r with ovt := (viOf s (viOfCtx s k)).ovt }, ibuf := none }))
    ∧ (∀ n i, aget s.tlbInvs n = some i → (∃ p ∈ s.ctxs, asidOfCtx s p.1 = i.asid ∧ storesOf p.2.drain ≠ [])
        ∨ (∃ p ∈ s.bands, ∃ m, p.2.move = some m ∧ descAsid (viOf s m.vi).desc = i.asid) →
      exec (.tlbInvalidationComplete n) s = .next { s with agenda := s.agenda ++ [.tlbInvalidationComplete n] })

/-- 07 R199 to R202; 10 R292, R302, R306, R307; 11 R336; 13 R360; 16 R399, R403, R405; 20 R465, R466: an ended region
commits: its reads are released, its items act in program order: stores are performed, copies, DZ jobs and matrix writes
go to their engines, barriers are set up and arrived at, layout operations reach the monitors of their bands, Junction
reads its card. A barrier operation that fails takes its context back to it, and traps. A context with a trap due halts,
its PC that of the record that is to be written. A window ends with WIN = 0, and the bound of a line hold with the
rollback of the region that still holds.
Where the spec is silent the model's choice stands: log entries 22 and 34. -/
def Obligations.regions_commit_and_halt : Prop :=
  ∀ (s : State) (key : Nat) (c : Ctx), aget s.ctxs key = some c →
    (∀ r c' vi tag core, c.region = some r → r.ended = true → c.drain = [] → c.handed = none →
      (∀ q ∈ s.redsts, q.2.owners.contains key = false) → vi = viOfCtx s key → tag = tagOf s key → core = coreOf key →
      c' = { c with region := none, drain := [], same := 0, ibuf := none, win := if r.holds then 0 else c.win,
                    winOpen := if r.holds then false else c.winOpen } →
      (r.items = [] → ∃ t, exec (.regionCommit key) s = .next t ∧ t = { s with ctxs := t.ctxs, agenda := t.agenda }
        ∧ aget t.ctxs key = some c' ∧ ∀ k, k ≠ key → aget t.ctxs k = aget s.ctxs k)
      ∧ (∀ cells marks, r.items = [.store (.mem cells marks)] →
        writeWaits s key core [] (markFill s vi marks) (cellLines cells) = false →
        RoomFor s (dieOfCore core) (markFill s vi marks) (cellLines cells) →
        ∃ t, exec (.regionCommit key) s = .next t ∧ aget t.ctxs key = some { c' with nSt := c.nSt - 1 }
          ∧ ∀ pa, exactByte t pa = lastByte cells pa (exactByte s pa))
      ∧ (∀ v co, (∀ els, Item.store (.coord els) ∉ r.items) → (∀ j, Item.held (.jn j) ∉ r.items) →
        aget s.cohorts tag = some co → (∀ p ∈ s.ctxs, p.1 ≠ key → HoldsNothing p.2) →
        (∀ l ∈ cellLines (memCellsOf r.items), engineOwner s l = none ∧ holdsL2 s l (dieOfCore core) = true
          ∧ ownsL2 s l (dieOfCore core) = true) →
        releaseAll key { bar := barOf s tag, pend := c.r.pend, arrph := c.r.arrph, shared := co.cluster.isSome,
                         acc := accOwned s key } r.items = some v →
        ∃ t co' st w, exec (.regionCommit key) s = .next t ∧ aget t.cohorts tag = some co'
          ∧ aget t.ctxs key
            = some { c' with r := { c'.r with pend := v.pend, arrph := v.arrph }, nSt := c.nSt - stItems r.items,
                             status := st, woken := w }
          ∧ (st = c.status ∨ c.status = .barEnd ∧ ∃ k before p, Item.held (.barArrive k before) ∈ r.items
            ∧ before.regs.pc = c.r.pc ∧ st = .waitBar k p)
          ∧ (∀ k, k ≠ key → aget s.ctxs k = none → aget t.ctxs k = none)
          ∧ (∀ k x, k ≠ key → aget s.ctxs k = some x → aget t.ctxs k = some x ∨ aget t.ctxs k = some { x with woken := true }
            ∧ ∃ j p, x.status = .waitBar j p ∨ x.paused = some (j, p))
          ∧ (∀ pa, exactByte t pa = lastByte (memCellsOf r.items) pa (exactByte s pa))
          ∧ (∀ off, agetD co'.sp 0 off = lastByte (scratchCellsOf r.items) off (agetD co.sp 0 off))
          ∧ (∀ k, k ≤ 16 → barOf t tag k = v.bar k)
          ∧ (∀ i j, (jobsIn r.items)[i]? = some j → aget t.jobs (s.nextId + i) = some j)
          ∧ agetD t.accQ [] (frameKeyOf key) = agetD s.accQ [] (frameKeyOf key) ++ accOpsOf r.items
          ∧ ∀ b, (bandAt t b).queue = (bandAt s b).queue ++ (layoutOpsOf r.items).filter (fun op => op.band = b))
      ∧ (∀ el lines, r.items = [.store (.coord [el])] → el.part = 0 ∨ el.part = 1 → bandBusy s el.key = false →
        isStale s el.key el.ver = false → lines = cellLines (elemCells s (recFormat el.hrec) el.pa el.ix el.value) →
        writeWaits s key core [] (markFill s vi [el.mark]) lines = false →
        RoomFor s (dieOfCore core) (markFill s vi [el.mark]) lines →
        ∃ t, exec (.regionCommit key) s = .next t ∧ aget t.ctxs key = some { c' with nTl := c.nTl - 1 }
          ∧ ∀ pa, exactByte t pa = lastByte (elemCells (dieSees s (dieOfCore core)) (recFormat el.hrec) el.pa el.ix el.value) pa
            (exactByte s pa))
      ∧ (∀ j g card bytes lines s1, r.items = [.held (.jn j)] → j.ctx = key → s1 = setCtx s key c' →
        g = ({ core := 36 * dieOfCore core, vi := j.vi, agent := agentJn, mine := [key] } : Eng) → (viOf s j.vi).en = true →
        engRead s1 g .load j.card 256 = .ok (bytes, lines) → card = BitVec.ofNat 2048 (leNat bytes) →
        (tcMs card).toNat % 256 = 0 → engBlocked s1 g (engFill s1 g j.card 256) lines false = false →
        placesWait s1 g (tcMs card) 256 = none →
        ∃ t, exec (.regionCommit key) s = .next t ∧ aget t.ctxs key = some c'
          ∧ (∀ old, old = xferAt s j.vi (tcMs card) → j.op = 0 →
            (∀ p, old = some p → p.2.st ≠ 1 ∧ p.2.st ≠ 2) →
            ∃ x, aget t.xfers s.nextId = some x ∧ x.vi = j.vi ∧ x.card = card ∧ x.st = 1 ∧ x.restarts = 0
              ∧ t.agenda.contains (.junctionPlanComplete s.nextId) = true)
          ∧ (∀ n x, xferAt s j.vi (tcMs card) = some (n, x) → j.op = 0 → x.st = 1 ∨ x.st = 2 → t.xfers = s.xfers)
          ∧ (∀ n x, xferAt s j.vi (tcMs card) = some (n, x) → aget s.xfers n = some x → j.op = 2 → x.st = 2 →
            ∃ y, aget t.xfers n = some y ∧ (y.st = 4 ∧ y.cause = 8 ∨ y.st = 5 ∧ y.cause = 7 ∧ y.noRec = true))
          ∧ (∀ n x, xferAt s j.vi (tcMs card) = some (n, x) → aget s.xfers n = some x → j.op = 3 →
            ∃ y, aget t.xfers n = some y ∧ y.st = 0)
          ∧ ∀ n x, xferAt s j.vi (tcMs card) = some (n, x) → j.op = 1 → x.st = 3 ∨ x.st = 4 ∨ x.st = 5 →
            ∃ y, aget t.xfers s.nextId = some y ∧ y.vi = j.vi ∧ y.card = card ∧ y.st = 1 ∧ y.restarts = x.restarts + 1
              ∧ y.marked = x.marked ∧ t.agenda.contains (.junctionPlanComplete s.nextId) = true)
      ∧ (∀ h k sub before rest, r.items = .held h :: rest → storesReady s key r = true → k < 16 →
        (∃ em eb, h = .barInit k em eb before ∧ sub = 1) ∨ (h = .barArrive k before ∧ sub = 2 ∧ accOwned s key = false) →
        releaseOne key { bar := barOf s tag, pend := c.r.pend, arrph := c.r.arrph, shared := false, acc := false } h = none →
        ∃ t c2, exec (.regionCommit key) s = .next t ∧ aget t.ctxs key = some c2 ∧ c2.region = none ∧ c2.drain = []
          ∧ c2.r = { before.regs with pend := c.r.pend, arrph := c.r.arrph }
          ∧ c2.fault = some { plainTrap 0x13 before.regs.pc with code := BitVec.ofNat 32 k, sub := sub }
          ∧ t.agenda.contains (.contextHalt key) = true ∧ ∀ pa, exactByte t pa = exactByte s pa))
    ∧ (∀ info, c.fault = some info → c.region = none → c.drain = [] → c.status = .running → stopped s key = false →
      ∃ t, exec (.contextHalt key) s = .next t
        ∧ aget t.ctxs key = some { c with fault := none, status := .halted info, r := { c.r with pc := info.pc },
                                          ibuf := none, arrived := false, recSlot := none, paused := none, carried := [] }
        ∧ (∀ k, k ≠ key → aget t.ctxs k = aget s.ctxs k) ∧ (∀ pa, readByte t pa = readByte s pa)
        ∧ ∀ e, envOf { s with cur := key } = some e →
          ∃ n rec, aget t.recs n = some rec ∧ rec.vi = eVi e ∧ rec.ctxid = ctxidOf key c ∧ rec.second = false
            ∧ t.agenda.contains (.trapRecordWrite n) = true)
    ∧ (∃ t, exec (.rollbackWindowExpiry key) s = .next t ∧ t = { s with ctxs := t.ctxs }
      ∧ aget t.ctxs key = some { c with win := 0, winOpen := false } ∧ ∀ k, k ≠ key → aget t.ctxs k = aget s.ctxs k)
    ∧ (∀ r, c.region = some r → r.holds = true → r.nonspec = false →
      ∃ t c', exec (.lineHoldExpiry key) s = .next t ∧ aget t.ctxs key = some c' ∧ c'.r = r.entry ∧ c'.region = none
        ∧ c'.same = c.same + 1 ∧ c'.win = 0 ∧ c'.nSt = c.nSt - r.nSt ∧ c'.nCp = c.nCp - r.nCp ∧ c'.nTl = c.nTl - r.nTl
        ∧ (∀ k, k ≠ key → aget t.ctxs k = aget s.ctxs k) ∧ ∀ pa, readByte t pa = readByte s pa)

/-- 09 R279 to R281; 16 R395; 18 R411 to R416: a committed coordinate store that waited for its band is performed where it
was translated to; a stale translation is read again and rolls an uncommitted region back, and a poisoned record is left
to the access that comes again; a trap record is written into the slot that the VI's ring has reached, the owner is told,
and the ring goes on, or the loss is reported.
Where the spec is silent the model's choice stands: log entries 32, 33 and 52. -/
def Obligations.home_accesses_and_trap_records : Prop :=
  ∀ s : State,
    (∀ key c el vi core lines, aget s.ctxs key = some c → c.drain = [.store (.coord [el])] → el.part = 0 ∨ el.part = 1 →
      vi = viOfCtx s key → core = storeCore key c → bandBusy s el.key = false → isStale s el.key el.ver = false →
      lines = cellLines (elemCells s (recFormat el.hrec) el.pa el.ix el.value) →
      writeWaits s key core [el.key] (markFill s vi [el.mark]) lines = false →
      RoomFor s (dieOfCore core) (markFill s vi [el.mark]) lines →
      ∃ t, exec (.coordinateAccessAtHome key) s = .next t
        ∧ aget t.ctxs key = some { c with drain := [], nTl := c.nTl - 1, handed := none }
        ∧ ∀ pa, exactByte t pa = lastByte (elemCells (dieSees s (dieOfCore core)) (recFormat el.hrec) el.pa el.ix el.value) pa
          (exactByte s pa))
    ∧ (∀ key c r core, aget s.ctxs key = some c → c.drain = [] → c.region = some r → r.nonspec = false →
      core = storeCore key c → (staleOf s core ≠ [] ∨ ∃ p ∈ c.carried, isStale s p.1 p.2 = true) →
      ∃ t c', exec (.staleRejection key) s = .next t ∧ aget t.ctxs key = some c' ∧ c'.r = r.entry ∧ c'.region = none
        ∧ c'.same = c.same + 1 ∧ c'.carried = []
        ∧ ∀ b ∈ staleOf s core, aget t.boc (bocKey b core) = if isPoisoned s (lineOf (64 * b)) = true then none
          else some ((readRecord s b).extractLsb' 0 4, (readRecord s b).extractLsb' 32 32))
    ∧ (∀ n rec v g at_ f, aget s.recs n = some rec → storesLeft s rec = false → v = viOf s rec.vi → g = inbEng rec.vi →
      at_ = descTrapBase v.desc + BitVec.ofNat 64 (256 * v.trapNext) → f = engFill s g at_ 256 →
      (∀ places lines, engPlaces s g .hostWrite at_ 256 = .ok places →
        lines = placeLines places → slotTaken s places = false → engBlocked s g f lines true = false →
        RoomFor s (engDie g) f lines →
        ∃ t, exec (.trapRecordWrite n) s = .next t ∧ aget t.recs n = none
          ∧ (viOf t rec.vi).trapNext = (v.trapNext + 1) % 1024
          ∧ t.outbox = s.outbox ++ [{ node := descOwner v.desc,
                                      bits := trapNotice rec.vi v.trapNext false (recCause rec) rec.ctxid }]
          ∧ ∀ pa, ¬ InWindow s pa → exactByte t pa
            = lastByte ((places.map (·.1)).zip (natLe 256 rec.record.toNat)) pa (exactByte s pa))
      ∧ (∀ places, engPlaces s g .hostWrite at_ 256 = .ok places → slotTaken s places = true →
        exec (.trapRecordWrite n) s = .next { s with agenda := s.agenda ++ [.trapRecordWrite n] })
      ∧ (∀ key c info, aget s.ctxs key = some c → c.status = .resuming info → rec.ctxid = ctxidOf key c →
        key ∉ movers s)
      ∧ (∀ err, engPlaces s g .hostWrite at_ 256 = .error err →
        ∃ t ev, exec (.trapRecordWrite n) s = .next t ∧ aget t.recs n = none ∧ t.amber = (ev :: s.amber).take 4096
          ∧ ev.code = 0x08 ∧ t.outbox = s.outbox ++ [{ node := descOwner v.desc,
                                                       bits := trapNotice rec.vi 0 true (recCause rec) rec.ctxid }]))

/-! ## Events: cohorts and launches -/

/-- 04 R87, R92 to R94; 18 R439 to R441: a cohort with no context and nothing outstanding ends and is freed; a launch whose
cohorts have all ended makes its completion store and is DONE; a satisfied wait event makes the head of its queue ready;
the launch of the highest level, next in turn among equals, is selected; one that waits ages.
Where the spec is silent the model's choice stands: log entry 54. -/
def Obligations.launches_are_selected_and_complete : Prop :=
  ∀ s : State,
    (∀ tag co la, aget s.cohorts tag = some co → aget s.launches co.launch = some la → la.aborted = false →
      (cohortCtxs s tag ≠ [] → exec (.cohortEnd tag) s = .next s)
      ∧ (cohortCtxs s tag = [] → (∀ p ∈ s.jobs, p.2.tag ≠ tag) → (∀ p ∈ s.redsts, p.2.tag ≠ tag) →
        (∀ p ∈ s.fabs, p.2.tag = tag → p.2.failed = true) → (∀ p ∈ s.accQ, ∀ a ∈ p.2, a.tag ≠ tag) →
        ∃ t, exec (.cohortEnd tag) s = .next t ∧ aget t.cohorts tag = none ∧ (∀ p ∈ t.frames, p.2.tag ≠ tag)
          ∧ (∀ p ∈ t.fabs, p.2.tag ≠ tag)
          ∧ (∀ k, k ≠ tag → aget t.cohorts k = aget s.cohorts k) ∧ t.ctxs = s.ctxs ∧ (∀ pa, readByte t pa = readByte s pa)
          ∧ (la.st = .running → (∀ p ∈ s.cohorts, p.1 ≠ tag → p.2.launch ≠ co.launch) →
            t.agenda.contains (.launchCompletion co.launch) = true)))
    ∧ (∀ l la done, aget s.launches l = some la → (∀ p ∈ s.cohorts, p.2.launch ≠ l) →
      done = (fun status : Nat => ({ node := descOwner (viOf s la.vi).desc,
                                     bits := doneMsg la.vi la.queue status (pkTag la.pkt) } : OutMsg)) →
      (la.aborted = true → ((viOf s la.vi).en = true ∨ closesWait s la.vi = none) →
        ∃ t, exec (.launchCompletion l) s = .next t ∧ aget t.launches l = none ∧ t.outbox = s.outbox ++ [done 1]
          ∧ ((viOf s la.vi).en = false → (∀ p ∈ s.launches, p.1 ≠ l → p.2.vi ≠ la.vi) →
            ∀ n x, aget t.xfers n = some x → x.vi = la.vi → x.st = 0))
      ∧ (la.aborted = false → la.st = .running → pkCmplEn la.pkt = false →
        ∃ t, exec (.launchCompletion l) s = .next t ∧ aget t.launches l = none ∧ t.outbox = s.outbox ++ [done 0])
      ∧ (∀ g f places lines, la.aborted = false → la.st = .running → pkCmplEn la.pkt = true → g = inbEng la.vi →
        f = engFill s g (pkCmplAddr la.pkt) 8 → engPlaces s g .copyOut (pkCmplAddr la.pkt) 8 = .ok places →
        lines = placeLines places → engBlocked s g f lines true = false → RoomFor s (engDie g) f lines →
        ∃ t, exec (.launchCompletion l) s = .next t ∧ aget t.launches l = none ∧ t.outbox = s.outbox ++ [done 0]
          ∧ ∀ pa, ¬ InWindow s pa → exactByte t pa
            = lastByte ((places.map (·.1)).zip (natLe 8 (pkCmplVal la.pkt).toNat)) pa (exactByte s pa))
      ∧ (∀ err, la.aborted = false → la.st = .running → pkCmplEn la.pkt = true →
        engPlaces s (inbEng la.vi) .copyOut (pkCmplAddr la.pkt) 8 = .error err →
        ∃ t ev, exec (.launchCompletion l) s = .next t ∧ aget t.launches l = none ∧ t.outbox = s.outbox ++ [done 2]
          ∧ t.amber = (ev :: s.amber).take 4096 ∧ ev.code = 0x0E))
    ∧ (∀ l la level turn, aget s.launches l = some la → la.st = .ready → (viOf s la.vi).gang = s.runGang →
      (∀ p ∈ s.launches, ¬ (p.2.st = .dispatching ∧ (viOf s p.2.vi).gang = s.runGang)) → s.switching = none →
      toRestore s = [] → level = (fun x : Launch => min 3 (x.prio + x.boost)) →
      turn = (fun x : Launch => (16 * x.vi + x.queue + 4096 - s.lastSel - 1) % 4096) →
      (∀ p ∈ s.launches, p ≠ (l, la) → p.2.st = .ready → (viOf s p.2.vi).gang = s.runGang →
        level p.2 < level la ∨ (level p.2 = level la ∧ turn la < turn p.2)) →
      ∃ t, exec .launchSelection s = .next t ∧ t = { s with launches := t.launches, lastSel := 16 * la.vi + la.queue,
                                                            agenda := t.agenda }
        ∧ aget t.launches l = some { la with st := .dispatching } ∧ (∀ k, k ≠ l → aget t.launches k = aget s.launches k)
        ∧ t.agenda.contains (if pkCluster la.pkt then .clusterPlacement else .cohortPlacement) = true)
    ∧ (∀ l la, aget s.launches l = some la → la.st = .ready → (viOf s la.vi).gang = s.runGang → s.switching = none →
      la.prio + la.boost < 3 →
      ∃ t, exec (.launchPriorityAging l) s = .next t ∧ aget t.launches l = some { la with boost := la.boost + 1 }
        ∧ t = { s with launches := t.launches, agenda := s.agenda ++ [.launchPriorityAging l] })
    ∧ (∀ ev l i la, (ev = .waitEventRead l i ∨ ev = .waitEventRetry l i) → aget s.launches l = some la → la.st = .queued →
      i < pkNwait la.pkt → la.satisfied.contains i = false → headOf s la.vi la.queue = some (l, la) →
      (∀ bytes lines, engRead s (inbEng la.vi) .hostRead (pkWaitAddr la.pkt i) 8 = .ok (bytes, lines) →
        engBlocked s (inbEng la.vi) (engFill s (inbEng la.vi) (pkWaitAddr la.pkt i) 8) lines false = false →
        ((pkWaitVal la.pkt i).toNat ≤ leNat bytes →
          ∃ t la', exec ev s = .next t ∧ aget t.launches l = some la' ∧ la'.satisfied = i :: la.satisfied
            ∧ ((∀ j, j < pkNwait la.pkt → j = i ∨ la.satisfied.contains j = true) → la.serial = false →
              la'.st = .ready ∧ t.agenda.contains .launchSelection = true))
        ∧ (leNat bytes < (pkWaitVal la.pkt i).toNat →
          ∃ t, exec ev s = .next t ∧ t.launches = s.launches ∧ t.agenda.contains (.waitEventRead l i) = true))
      ∧ (∀ k a, k ≠ 3 → engRead s (inbEng la.vi) .hostRead (pkWaitAddr la.pkt i) 8 = .error (k, a) →
        ∃ t, exec ev s = .next t ∧ t = { s with agenda := t.agenda } ∧ t.agenda.contains (.waitEventRetry l i) = true))

/-- The frames of a cohort with key `key` have started in their places on a core: all their lanes are live, they hold
nothing, and every group of theirs is at ENTRY with the registers of its start (02 R30, R37; 05 R121). -/
def Sys2Proof.Claims.FramesStart (t : State) (key core : Nat) (room : CoreRoom) (p : BitVec 2048) : Prop :=
  ∀ f ∈ room.frames,
    (∃ fr, aget t.frames (core + 512 * f.1) = some fr ∧ fr.tag = key ∧ fr.live = BitVec.allOnes 64 ∧ fr.v = [])
    ∧ ∀ n, n < 64 / pkWidth p →
      ∃ c, aget t.ctxs (ctxKey core f.1 (ctxIndex (n * pkWidth p) .whole)) = some c ∧ c.r.pc = pkEntry p
        ∧ c.r.m0 = laneWindow (n * pkWidth p) (pkWidth p) ∧ c.r.fmt = pkFmt p ∧ c.r.g = startG p
        ∧ c.status = .running ∧ c.region = none

/-- A cohort of launch `l` starts in its place: its key has the tag of its generation, no older cohort had it; its
scratchpad and its barriers are empty. -/
def Sys2Proof.Claims.CohortStarts (s t : State) (l ix core : Nat) (tag : Word) (room : CoreRoom) (p : BitVec 2048)
    (cluster : Option Nat) (sibs : List (Nat × Nat)) : Prop :=
  ∃ co key, key % 2 ^ 32 = tag.toNat ∧ aget s.cohorts key = none ∧ (aget s.cohorts tag.toNat = none → key = tag.toNat)
    ∧ aget t.cohorts key = some co ∧ co.launch = l ∧ co.core = core ∧ co.x + pkGx p * (co.y + pkGy p * co.z) = ix
    ∧ co.slot = room.slot ∧ co.spBase = room.spBase ∧ co.accBase = room.accBase ∧ co.sp = [] ∧ co.bars = []
    ∧ co.cluster = cluster ∧ co.sibs = sibs ∧ FramesStart t key core room p

/-- 05 R117 to R122; 02 R30, R37: the dispatcher puts the next cohort of its launch on the core that the search finds, or the
next four of a cluster: each has the next generation tag, its scratchpad and barriers are empty, its frames are all live, and
every group of it starts at ENTRY; those of a cluster know each other and share its barrier.
Where the spec is silent the model's choice stands: log entry 60. -/
def Obligations.cohorts_are_placed : Prop :=
  ∀ (s : State) (l : Nat) (la : Launch), dispatching s = some (l, la) → s.switching = none → toRestore s = [] →
    la.aborted = false → la.next < pkCohorts la.pkt → aget s.launches l = some la → arising s.launches = true →
    (∀ core room, pkCluster la.pkt = false → coreFor s la.pkt = some (core, room) →
      ∃ t la', exec .cohortPlacement s = .next t ∧ CohortStarts s t l la.next core s.genCtr room la.pkt none []
        ∧ (∀ k co, aget s.cohorts k = some co → aget t.cohorts k = some co)
        ∧ t.genCtr = s.genCtr + 1 ∧ t.diePtr = (core / 36 + 1) % 8
        ∧ aget t.launches l = some la' ∧ la'.next = la.next + 1
        ∧ (la'.st = .running ↔ pkCohorts la.pkt ≤ la.next + 1))
    ∧ (∀ first rooms, pkCluster la.pkt = true → clusterFor s la.pkt [0, 1, 2, 3] = some (first, rooms) →
      ∃ t la' key, exec .clusterPlacement s = .next t ∧ t.genCtr = s.genCtr + 4 ∧ t.diePtr = (first / 36 + 1) % 8
        ∧ aget t.launches l = some la' ∧ la'.next = la.next + 4
        ∧ (la'.st = .running ↔ pkCohorts la.pkt ≤ la.next + 4)
        ∧ (∀ k co, aget s.cohorts k = some co → aget t.cohorts k = some co)
        ∧ key % 2 ^ 32 = s.genCtr.toNat ∧ aget s.clusters key = none ∧ aget t.clusters key = some barCluster
        ∧ ∀ r ∈ rooms, CohortStarts s t l (la.next + r.1) (first + r.1) (s.genCtr + BitVec.ofNat 32 r.1) r.2 la.pkt (some key)
            ((List.range 4).map (fun i => (first + i, (s.genCtr + BitVec.ofNat 32 i).toNat))))

/-! ## Events: messages of hosts -/

/-- The message is of opcode `op` and its sender may send it: firmware is verified, its VI is enabled and owned by its
source, and no reserved field is set (04 R83, R84). -/
def Sys2Proof.Claims.FromOwner (s : State) (m : HostMsg) (op : Nat) : Prop :=
  msgOp m = op ∧ s.bootOk = true ∧ (viOf s (msgVi m)).en = true ∧ m.src = descOwner (viOf s (msgVi m)).desc ∧ rsvOk m = true

/-- A message to the owner of the message's VI. -/
def Sys2Proof.Claims.ownerGets (s : State) (m : HostMsg) (bits : BitVec 768) : OutMsg :=
  { node := descOwner (viOf s (msgVi m)).desc, bits := bits }

/-- 04 R83, R84: a message that its sender may not send is dropped and counted, whatever it asks; nothing else happens. -/
def Sys2Proof.Claims.StrangersAreDropped : Prop :=
  ∀ (s : State) (m : HostMsg) (ev : Instr),
    (ev = .launch m ∧ msgOp m = 1 ∨ ev = .resume m ∧ msgOp m = 5 ∨ ev = .abort m ∧ msgOp m = 6
      ∨ ev = .memRd m ∧ msgOp m = 10 ∨ ev = .memWr m ∧ msgOp m = 11
      ∨ ev = .droppedMessage m ∧ ¬ (msgOp m = 7 ∨ msgOp m = 8)) →
    (s.bootOk = false ∨ (viOf s (msgVi m)).en = false ∨ m.src ≠ descOwner (viOf s (msgVi m)).desc) →
    exec ev s = .next { s with msgDrop := min (s.msgDrop + 1) (2 ^ 64 - 1) }

/-- 04 R85 to R88, R94, R95; 18 R421, R422: LAUNCH is checked in order and joins its queue, or is rejected with the reason;
RESUME marks a halted context to run again; ABORT ends a launch that has not begun, or stops the contexts of one that
has; MEM_RD answers with the bytes and MEM_WR writes them. -/
def Sys2Proof.Claims.MessagesAct : Prop :=
  ∀ (s : State) (m : HostMsg),
    (FromOwner s m 1 →
      (lnRsvOk m = false ∨ (lnAddr m).toNat % 256 ≠ 0 → ∃ t, exec (.launch m) s = .next t ∧ OnlyPosts s t
        ∧ t.outbox = s.outbox ++ [ownerGets s m (launchReply m 0x21)])
      ∧ (lnRsvOk m = true → (lnAddr m).toNat % 256 = 0 → 256 ≤ (queueOf s (msgVi m) (lnQueue m)).length →
        ∃ t, exec (.launch m) s = .next t ∧ OnlyPosts s t
          ∧ t.outbox = s.outbox ++ [ownerGets s m (launchReply m 0x20)])
      ∧ (∀ g x bytes lines p, lnRsvOk m = true → (lnAddr m).toNat % 256 = 0 →
        (queueOf s (msgVi m) (lnQueue m)).length < 256 → g = inbEng (msgVi m) →
        engXlat s g .hostRead (lnAddr m) = .ok x → readXlat (dieSees s (engDie g)) x 256 = some bytes →
        lines = linesRead s x 256 → (∀ n ∈ lines, isPoisoned s n = false) →
        engBlocked s g (engFill s g (lnAddr m) 256) lines false = false → p = BitVec.ofNat 2048 (leNat bytes) →
        (∀ k, (pkRows p).findIdx? id = some k → ∃ t, exec (.launch m) s = .next t ∧ OnlyPosts s t
          ∧ t.outbox = s.outbox ++ [ownerGets s m (launchReply m (k + 1))])
        ∧ ((∀ b ∈ pkRows p, b = false) → (∀ a ∈ pkWaits p, readable s g a = true) →
          ∃ t la, exec (.launch m) s = .next t ∧ t.outbox = s.outbox ++ [ownerGets s m (launchReply m 0)]
            ∧ aget t.launches s.nextId = some la ∧ la.vi = msgVi m ∧ la.queue = lnQueue m ∧ la.seq = lnSeq m ∧ la.pkt = p
            ∧ la.serial = m.bits.getLsbD 22 ∧ la.prev = aget s.accepted (16 * msgVi m + lnQueue m) ∧ la.next = 0
            ∧ la.aborted = false
            ∧ ∀ q, aget t.accepted q = if q = 16 * msgVi m + lnQueue m then some s.nextId else aget s.accepted q)))
    ∧ (FromOwner s m 5 → ∀ k c info, ctxNamed s (msgData m) = some (k, c) → aget s.ctxs k = some c →
      c.status = .halted info → viOfCtx s k = msgVi m → stopped s k = false →
      ∃ t, exec (.resume m) s = .next t ∧ t = { s with ctxs := t.ctxs }
        ∧ aget t.ctxs k = some { c with status := .resuming info } ∧ ∀ j, j ≠ k → aget t.ctxs j = aget s.ctxs j)
    ∧ (FromOwner s m 5 → ctxNamed s (msgData m) = none → exec (.resume m) s = .next s)
    ∧ (FromOwner s m 6 → ∀ found, found = (queueOf s (msgVi m) (msgField m 16 4)).find?
        (fun p => pkTag p.2.pkt = m.bits.extractLsb' 64 64) →
      (∀ l la, found = some (l, la) → aget s.launches l = some la →
        (la.st = .queued ∨ la.st = .ready → ∃ t, exec (.abort m) s = .next t ∧ aget t.launches l = none
          ∧ t.outbox = s.outbox ++ [{ node := descOwner (viOf s la.vi).desc, bits := doneMsg la.vi la.queue 1 (pkTag la.pkt) }])
        ∧ (la.st = .dispatching ∨ la.st = .running → ∃ t, exec (.abort m) s = .next t
          ∧ aget t.launches l = some { la with aborted := true } ∧ t.agenda.contains (.launchCompletion l) = true
          ∧ ∀ k c, aget s.ctxs k = some c → (aget s.cohorts (tagOf s k)).map (·.launch) = some l →
            ∃ c', aget t.ctxs k = some c' ∧ c'.region = none ∧ c'.fault = none))
      ∧ (found = none → ∃ t, exec (.abort m) s = .next t ∧ t.launches = s.launches ∧ t.ctxs = s.ctxs
        ∧ t.outbox = s.outbox ++ [ownerGets s m (doneMsg (msgVi m) (msgField m 16 4) 1 0)]))
    ∧ (FromOwner s m 10 →
      (∀ n, memCheck s m .hostRead = .error n → ∃ t, exec (.memRd m) s = .next t ∧ OnlyPosts s t
        ∧ t.outbox = s.outbox ++ [ownerGets s m (memReply m n [])])
      ∧ (∀ g x, g = inbEng (msgVi m) → memCheck s m .hostRead = .ok x → lineMoving s (lineOf x.pa) = false →
        engBlocked s g (xlatFill s g.vi 0 [x]) [lineOf x.pa] false = false →
        ∃ t, exec (.memRd m) s = .next t ∧ t.outbox = s.outbox ++ [ownerGets s m
          (if isPoisoned s (lineOf x.pa) then memReply m 3 []
            else memReply m 0 (readBytes (dieSees s (engDie g)) x.pa (memSize m)))]))
    ∧ (FromOwner s m 11 →
      (∀ n, memCheck s m .hostWrite = .error n → ∃ t, exec (.memWr m) s = .next t ∧ OnlyPosts s t
        ∧ t.outbox = s.outbox ++ [ownerGets s m (memReply m n [])])
      ∧ (∀ g x f line, g = inbEng (msgVi m) → memCheck s m .hostWrite = .ok x → line = lineOf x.pa →
        f = xlatFill s g.vi 0 [x] → x.pa % memSize m = 0 → lineMoving s line = false →
        engBlocked s g f [line] true = false → RoomFor s (engDie g) f [line] →
        (pteLyrec x.pte = false → bandHeld s (x.pa / 64) = false →
          ∃ t, exec (.memWr m) s = .next t ∧ t.outbox = s.outbox ++ [ownerGets s m (memReply m 0 [])]
            ∧ ∀ a, ¬ InWindow s a → exactByte t a = if x.pa ≤ a ∧ a < x.pa + memSize m
              then BitVec.ofNat 8 (msgField m (256 + 8 * (a - x.pa)) 8) else exactByte s a)
        ∧ (∀ key old order version, pteLyrec x.pte = true → x.pa = 64 * key → memSize m = 8 → old = bandAt s key →
          order = m.bits.extractLsb' 256 4 → version = m.bits.extractLsb' 288 32 →
          ∃ t b, exec (.memWr m) s = .next t ∧ t.outbox = s.outbox ++ [ownerGets s m (memReply m 0 [])]
            ∧ aget t.bands key = some b ∧ b.order = order
            ∧ b.version = (if order ≠ old.order ∧ version = old.version then old.version + 1 else version)
            ∧ b.st = (if msgField m 260 2 = 1 then 0 else msgField m 260 2) ∧ b.prev = m.bits.extractLsb' 264 4
            ∧ b.flips = msgField m 262 2 ∧ b.epcnt = old.epcnt ∧ b.wincnt = old.wincnt ∧ b.advord = old.advord)))

/-- 04 R83 to R88, R94, R95; 13 R361; 18 R421, R422: what the messages of hosts do.
Where the spec is silent the model's choice stands: log entries 3, 79 and 80. -/
def Obligations.host_messages : Prop := Sys2Proof.Claims.StrangersAreDropped ∧ Sys2Proof.Claims.MessagesAct

/-! ## Events: registers -/

/-- A register message of opcode `op` that management sends to offset `off` (23 R484). -/
def Sys2Proof.Claims.FromManagement (m : HostMsg) (op off : Nat) : Prop :=
  msgOp m = op ∧ m.bits.getLsbD 28 = true ∧ m.src = Config.mgmtNode ∧ rsvOk m = true ∧ msgOff m = off

/-- A register message of opcode `op` that the owner of a VI sends to its offset `off` (18 R417). -/
def Sys2Proof.Claims.ToViRegister (s : State) (m : HostMsg) (op off : Nat) : Prop :=
  FromOwner s m op ∧ m.bits.getLsbD 28 = false ∧ msgOff m = off

/-- The sender is answered. -/
def Sys2Proof.Claims.Answered (s t : State) (m : HostMsg) (refused : Bool) (data : Word) : Prop :=
  t.outbox = s.outbox ++ [{ node := m.src, bits := regReply s m refused data }]

/-- The sender is told that its access is refused, and nothing else but the window's note of it changes. -/
def Sys2Proof.Claims.Refused (s t : State) (m : HostMsg) : Prop :=
  Answered s t m true 0 ∧ OnlyPosts { s with vis := t.vis } t
  ∧ ∀ v, viOf t v = { viOf s v with hrefused := (viOf t v).hrefused }

/-- 18 R417 to R420; 20 R446: what a VI's registers read as: the selection, its state, and through the halt window the item
of the selected context that HIDX names, or its PC. A read of an item that is not there is refused. -/
def Sys2Proof.Claims.ReadsOfVis : Prop :=
  ∀ (s : State) (m : HostMsg) (v : Vi), v = viOf s (msgVi m) →
    (∀ off r, ToViRegister s m 7 off → off ≠ 0x10C → off ≠ 0x110 → off ≠ 0x114 → viRead s (msgVi m) off = r →
      ∃ t, exec (.regWr m) s = .next t ∧ OnlyPosts s t ∧ Answered s t m r.isNone (r.getD 0))
    ∧ (ToViRegister s m 7 0x100 → ∃ t, exec (.regWr m) s = .next t ∧ OnlyPosts s t ∧ Answered s t m false v.hsel)
    ∧ (ToViRegister s m 7 0x128 → ∃ t, exec (.regWr m) s = .next t ∧ OnlyPosts s t
      ∧ Answered s t m false (if v.ticBusy then 1 else 0))
    ∧ (∀ k, k < 16 → ToViRegister s m 7 (0x140 + 4 * k) → ∃ t, exec (.regWr m) s = .next t ∧ OnlyPosts s t
      ∧ Answered s t m false (agetD v.peers 0 k))
    ∧ (ToViRegister s m 7 0x104 →
      (∀ k c, ctxNamed s v.hsel = some (k, c) → viOfCtx s k = msgVi m →
        (∃ info, c.status = .halted info ∨ c.status = .resuming info) →
        ∃ t w, exec (.regWr m) s = .next t ∧ OnlyPosts s t ∧ Answered s t m false w ∧ w.getLsbD 0 = true
          ∧ w.getLsbD 1 = isSaved s k ∧ (w.getLsbD 2 = true ↔ ∃ info, c.status = .resuming info) ∧ w.getLsbD 3 = v.hrefused
          ∧ w.extractLsb' 4 2 = (if hxValid s k v.hidx then
              (if hxKind v.hidx = 0 then vPoison s k (hxNum v.hidx) (hxLane v.hidx)
                else if hxKind v.hidx = 1 then agetD c.r.gpoison 0 (hxNum v.hidx) else 0) else 0)
          ∧ w.extractLsb' 6 26 = 0)
      ∧ (ctxNamed s v.hsel = none → ∃ t, exec (.regWr m) s = .next t ∧ OnlyPosts s t
        ∧ Answered s t m false (if v.hrefused then 8 else 0)))
    ∧ (∀ k c x w, ToViRegister s m 7 0x10C → served s (msgVi m) = some (k, c) → x = v.hidx → hxValid s k x = true →
      (hxKind x = 0 → (aget s.frames (frameKeyOf k)).isSome = true → w = vReg s k (hxNum x) (hxLane x)) →
      (hxKind x = 1 → w = gAt c.r (hxNum x)) →
      (hxKind x = 2 → w = (maskOf c.r (hxNum x)).extractLsb' (32 * hxWord x) 32) →
      (hxKind x = 4 → w = c.r.fmt) → (hxKind x = 5 → w = c.r.seed.extractLsb' (32 * hxNum x) 32) →
      hxKind x = 0 ∧ (aget s.frames (frameKeyOf k)).isSome = true ∨ hxKind x = 1 ∨ hxKind x = 2 ∨ hxKind x = 4 ∨ hxKind x = 5 →
      ∃ t, exec (.regWr m) s = .next t ∧ Answered s t m false w ∧ OnlyPosts { s with vis := t.vis } t
        ∧ viOf t (msgVi m) = { v with hrefused := false })
    ∧ (∀ k c off, (off = 0x110 ∨ off = 0x114) → ToViRegister s m 7 off → served s (msgVi m) = some (k, c) →
      ∃ t, exec (.regWr m) s = .next t ∧ Answered s t m false (c.r.pc.extractLsb' (if off = 0x110 then 0 else 32) 32)
        ∧ OnlyPosts { s with vis := t.vis } t)
    ∧ (∀ off, (off = 0x10C ∨ off = 0x110 ∨ off = 0x114) → ToViRegister s m 7 off → served s (msgVi m) = none →
      ∃ t, exec (.regWr m) s = .next t ∧ Refused s t m)

/-- 18 R417 to R420; 20 R446; 23 R484: management reads answer with the register; writes of VI registers are kept; the halt
window reaches the registers and the PC of the halted context that it selects; TICTL starts one invalidation at a time. -/
def Sys2Proof.Claims.RegistersOfVis : Prop :=
  ∀ (s : State) (m : HostMsg) (vi : Nat) (w : Word), vi = msgVi m → w = msgData m →
    (∀ off r, FromManagement m 7 off → mgmtRead s off = r →
      ∃ t, exec (.regWr m) s = .next t ∧ OnlyPosts s t ∧ Answered s t m r.isNone (r.getD 0))
    ∧ (ToViRegister s m 8 0x100 → ∃ t, exec (.regWr m) s = .next t ∧ Answered s t m false 0
      ∧ viOf t vi = { viOf s vi with hsel := w, hrefused := false } ∧ ∀ v, v ≠ vi → viOf t v = viOf s v)
    ∧ (∀ k, k < 16 → ToViRegister s m 8 (0x140 + 4 * k) →
      (w.getLsbD 30 = false → ∃ t, exec (.regWr m) s = .next t ∧ Answered s t m false 0
        ∧ (∀ j, agetD (viOf t vi).peers 0 j = if j = k then w else agetD (viOf s vi).peers 0 j)
        ∧ ∀ v, v ≠ vi → viOf t v = viOf s v)
      ∧ (w.getLsbD 30 = true → ∃ t, exec (.regWr m) s = .next t ∧ Refused s t m))
    ∧ (ToViRegister s m 8 0x10C → served s vi = none → ∃ t, exec (.hdataWrite m) s = .next t ∧ Refused s t m)
    ∧ (∀ k c x, ToViRegister s m 8 0x10C → served s vi = some (k, c) → aget s.ctxs k = some c → x = (viOf s vi).hidx →
      hxValid s k x = true →
      (hxKind x = 1 → ∃ t c', exec (.hdataWrite m) s = .next t ∧ Answered s t m false 0 ∧ aget t.ctxs k = some c'
        ∧ c' = { c with r := { c.r with g := c'.r.g, gpoison := c'.r.gpoison } }
        ∧ (∀ n, gAt c'.r n = if n = hxNum x then w else gAt c.r n) ∧ agetD c'.r.gpoison 0 (hxNum x) = 0)
      ∧ (hxKind x = 0 → c.live.getLsbD (hxLane x) = true → (aget s.frames (frameKeyOf k)).isSome = true →
        ∃ t, exec (.hdataWrite m) s = .next t ∧ Answered s t m false 0
          ∧ ∀ n lane, lane < 64 → vReg t k n lane = if n = hxNum x ∧ lane = hxLane x then w else vReg s k n lane)
      ∧ (hxKind x = 0 → c.live.getLsbD (hxLane x) = false → ∃ t, exec (.hdataWrite m) s = .next t ∧ Refused s t m))
    ∧ (∀ k c off pc, (off = 0x110 ∨ off = 0x114) → ToViRegister s m 8 off → served s vi = some (k, c) →
      aget s.ctxs k = some c →
      pc = (if off = 0x114 then w ++ c.r.pc.extractLsb' 0 32 else c.r.pc.extractLsb' 32 32 ++ w) →
      (pc.toNat % 64 < 5 → ∃ t, exec (.hpcloHpchiWrite m) s = .next t ∧ Answered s t m false 0
        ∧ aget t.ctxs k = some { c with r := { c.r with pc := pc }, paused := none, woken := false }
        ∧ ∀ j, j ≠ k → aget t.ctxs j = aget s.ctxs j)
      ∧ (5 ≤ pc.toNat % 64 → ∃ t, exec (.hpcloHpchiWrite m) s = .next t ∧ Refused s t m))
    ∧ (∀ ev, ToViRegister s m 8 0x128 → (ev = .tictlInvalidatePage m ∧ w = 1 ∨ ev = .tictlInvalidateAll m ∧ w = 2) →
      ((viOf s vi).ticBusy = true → ∃ t, exec ev s = .next t ∧ Refused s t m)
      ∧ ((viOf s vi).ticBusy = false → ∃ t, exec ev s = .next t ∧ Answered s t m false 0 ∧ (viOf t vi).ticBusy = true
        ∧ (∀ y, y ∈ t.tlb ↔ y ∈ s.tlb ∧ ¬ (y.asid = descAsid (viOf s vi).desc
          ∧ (w = 1 → y.page = pageOf y.level (viOf s vi).tiva)))
        ∧ (aget t.tlbInvs s.nextId).bind (·.vi) = some vi
        ∧ t.agenda.contains (.tlbInvalidationComplete s.nextId) = true))

/-- 04 R89, R98, R100, R105; 23 R484: management enables a VI whose way masks are all set, disables one and winds down its
work, writes descriptor words of a disabled VI, and commits a slot table and a gang schedule; what is not allowed is
refused. A pending slot table takes effect at a frame boundary. -/
def Sys2Proof.Claims.RegistersOfManagement : Prop :=
  ∀ (s : State) (m : HostMsg) (w : Word) (n : Nat) (v : Vi),
    w = msgData m → n = (s.mgmt.visel.extractLsb' 0 8).toNat → v = viOf s n →
    (FromManagement m 8 0x014 → w.getLsbD 0 = true → v.en = false →
      ((∀ p, p < 4 → descWays v.desc p ≠ 0) → (∀ p ∈ s.launches, p.2.vi ≠ n) →
        ∃ t, exec (.viEnable m) s = .next t ∧ Answered s t m false 0 ∧ (viOf t n).en = true ∧ (viOf t n).trapNext = 0
          ∧ (viOf t n).reshard = w.getLsbD 8 ∧ (viOf t n).priv = w.getLsbD 9 ∧ (viOf t n).desc = v.desc
          ∧ (viOf t n).ovt = 0x00155555#32
          ∧ ∀ k, k ≠ n → viOf t k = viOf s k)
      ∧ (∀ p, p < 4 → descWays v.desc p = 0 → ∃ t, exec (.viEnable m) s = .next t ∧ Refused s t m))
    ∧ (FromManagement m 8 0x014 → w.getLsbD 0 = false → v.en = true → (viRuns s n = true ∨ closesWait s n = none) →
      arising s.launches = true →
      ∃ t, exec (.viDisable m) s = .next t ∧ (viOf t n).en = false
        ∧ (viRuns s n = false → ∀ k x, aget t.xfers k = some x → x.vi = n → x.st = 0)
        ∧ ∀ l la, aget s.launches l = some la → la.vi = n →
          (la.st = .queued ∨ la.st = .ready → aget t.launches l = none)
          ∧ (la.st = .dispatching ∨ la.st = .running → aget t.launches l = some { la with aborted := true }))
    ∧ (∀ k, FromManagement m 8 0x01C → k = (s.mgmt.vididx.extractLsb' 0 4).toNat →
      (v.en = true → ∃ t, exec (.viddataWrite m) s = .next t ∧ Refused s t m)
      ∧ (v.en = false → (∀ p ∈ s.launches, p.2.vi ≠ n) → descBad k w = false →
        ∃ t, exec (.viddataWrite m) s = .next t ∧ Answered s t m false 0 ∧ (∀ j, j ≠ n → viOf t j = viOf s j)
          ∧ (viOf t n).desc.extractLsb' (32 * k) 32 = w &&& descMask k
          ∧ ∀ j, j < 16 → j ≠ k → (viOf t n).desc.extractLsb' (32 * j) 32 = v.desc.extractLsb' (32 * j) 32))
    ∧ (∀ code, FromManagement m 8 0x028 → w = 1 →
      code = (fun i => (agetD s.mgmt.slotShadow 0 (i / 8)).extractLsb' (3 * (i % 8)) 3) →
      ((∀ i, i < 64 → (code i).toNat ≤ 4) → 4 ≤ ((List.range 64).filter (fun i => code i = 4)).length →
        (∃ i, i < 64 ∧ code i = 0) →
        ∃ t tab, exec (.slotcmtWrite m) s = .next t ∧ Answered s t m false 0 ∧ t.slotTab = s.slotTab ∧ t.slotPend = some tab
          ∧ (∀ i, i < 64 → agetD tab 0 i = code i) ∧ t.agenda.contains .hbmFrameBoundary = true)
      ∧ ((∃ i, i < 64 ∧ 4 < (code i).toNat) ∨ ((List.range 64).filter (fun i => code i = 4)).length < 4
        ∨ (∀ i, i < 64 → code i ≠ 0) → ∃ t, exec (.slotcmtWrite m) s = .next t ∧ Refused s t m))
    ∧ (∀ tab, s.slotPend = some tab → exec .hbmFrameBoundary s = .next { s with slotTab := tab, slotPend := none })
    ∧ (∀ us, FromManagement m 8 0x044 → w = 1 →
      us = (fun k => ((agetD s.mgmt.gsShadow 0 k).extractLsb' 12 20).toNat) → 0 < s.mgmt.gscount.toNat →
      s.mgmt.gscount.toNat ≤ 16 → s.mgmt.gscount.toNat ≤ s.mgmt.savesize.toNat →
      ((∀ k, k < s.mgmt.gscount.toNat → 200 ≤ us k ∧ us k ≤ 1000000
          ∧ (agetD s.mgmt.gsShadow 0 k).extractLsb' 4 8 = 0) →
        ∃ (t : State) (sc : Schedule), exec (.gscmtWrite m) s = .next t ∧ Answered s t m false 0 ∧ t.sched = s.sched
          ∧ t.pendScheds = s.pendScheds ++ [sc] ∧ sc.t0 = s.mgmt.t0hi ++ s.mgmt.t0lo
          ∧ sc.entries = (List.range s.mgmt.gscount.toNat).map (fun k =>
            (((agetD s.mgmt.gsShadow 0 k).extractLsb' 0 4).toNat, us k)))
      ∧ (∀ k, k < s.mgmt.gscount.toNat → us k < 200 → ∃ t, exec (.gscmtWrite m) s = .next t ∧ Refused s t m))

/-- 23 Table 23-1: a plain management register keeps the fields that are written to it; a write of a read-only one changes
nothing and is not refused (log entry 81); an offset that no table gives is refused. -/
def Sys2Proof.Claims.PlainManagementWrites : Prop :=
  ∀ (s : State) (m : HostMsg) (off : Nat) (w : Word), FromManagement m 8 off → w = msgData m →
    (∀ g : Mgmt,
      (off = 0x004 ∧ g = { s.mgmt with nodeId := w &&& 0x003FFFFF#32 })
      ∨ (off = 0x010 ∧ g = { s.mgmt with visel := w &&& 0xFF#32 })
      ∨ (off = 0x018 ∧ g = { s.mgmt with vididx := w &&& 0xF#32 })
      ∨ (off = 0x020 ∧ g = { s.mgmt with slotidx := w &&& 7#32 })
      ∨ (off = 0x024 ∧ g = { s.mgmt with slotShadow := aput s.mgmt.slotShadow s.mgmt.slotidx.toNat (w &&& 0x00FFFFFF#32) })
      ∨ (off = 0x030 ∧ g = { s.mgmt with gsidx := w &&& 0xF#32 })
      ∨ (off = 0x034 ∧ g = { s.mgmt with gsShadow := aput s.mgmt.gsShadow s.mgmt.gsidx.toNat w })
      ∨ (off = 0x038 ∧ g = { s.mgmt with gscount := w })
      ∨ (off = 0x03C ∧ g = { s.mgmt with t0lo := w }) ∨ (off = 0x040 ∧ g = { s.mgmt with t0hi := w })
      ∨ (off = 0x060 ∧ g = { s.mgmt with ambsel := w &&& 0xFFFF#32 })
      ∨ (off = 0x070 ∧ g = { s.mgmt with cntsel := w &&& 0x803F01FF#32 })
      ∨ (off = 0x084 ∧ g = { s.mgmt with savelo := w }) ∨ (off = 0x088 ∧ g = { s.mgmt with savehi := w })
      ∨ (off = 0x08C ∧ g = { s.mgmt with savesize := w })
      ∨ (off = 0x090 ∧ g = { s.mgmt with portsel := w &&& 0x3F#32 })
      ∨ (off = 0x0A0 ∧ g = { s.mgmt with pwrlim := w })
      ∨ (off = 0x0A8 ∧ g = { s.mgmt with l2gsel := w &&& 7#32 })
      ∨ (off = 0x0B8 ∧ g = { s.mgmt with attidx := w &&& 0x7F#32 })
      ∨ ((off = 0x000 ∨ off = 0x008 ∨ off = 0x064 ∨ off = 0x068 ∨ off = 0x074 ∨ off = 0x07C ∨ off = 0x0A4 ∨ off = 0x0BC)
        ∧ g = s.mgmt) →
      ∃ t, exec (.regWr m) s = .next t ∧ Answered s t m false 0 ∧ t.mgmt = g ∧ OnlyPosts { s with mgmt := g } t)
    ∧ (∀ port p, off = 0x094 → port = (s.mgmt.portsel.extractLsb' 0 6).toNat → p = portOf s port →
      (p.up = true ∨ w.getLsbD 0 = true ∧ 4 ≤ (s.ports.filter (fun q => q.1 ≠ port && q.2.longHaul)).length →
        ∃ t, exec (.regWr m) s = .next t ∧ Refused s t m)
      ∧ (p.up = false → w.getLsbD 0 = false ∨ (s.ports.filter (fun q => q.1 ≠ port && q.2.longHaul)).length < 4 →
        ∃ t, exec (.regWr m) s = .next t ∧ Answered s t m false 0 ∧ (portOf t port).longHaul = w.getLsbD 0))
    ∧ (mgmtRead s off = none → ∃ t, exec (.regWr m) s = .next t ∧ Refused s t m)

/-- 04 R89, R98, R100, R105; 18 R417 to R420; 20 R446; 23 R484: what register messages do.
Where the spec is silent the model's choice stands: log entries 56, 58, 59, 77 and 81. -/
def Obligations.register_messages : Prop :=
  Sys2Proof.Claims.ReadsOfVis ∧ Sys2Proof.Claims.RegistersOfVis ∧ Sys2Proof.Claims.PlainManagementWrites
  ∧ Sys2Proof.Claims.RegistersOfManagement

/-! ## Events: gangs and time -/

/-- One event of the given code is written to the Amber record (18 R431, R432). -/
def Sys2Proof.Claims.Records (s t : State) (code : Nat) (arg0 arg1 : Nat) : Prop :=
  ∃ ev, t.amber = (ev :: s.amber).take 4096 ∧ t.amberSeq = s.amberSeq + 1 ∧ ev.seq = s.amberSeq ∧ ev.time = s.time
    ∧ ev.code = code ∧ ev.arg0 = BitVec.ofNat 64 arg0 ∧ ev.arg1 = BitVec.ofNat 64 arg1

/-- 04 R100 to R106; 18 R423: at a slice instant GANG writes take effect; where the incoming gang runs already nothing else
happens, else the cohorts of other gangs lose their uncommitted regions and are to be saved; a saved cohort keeps its
contexts, whose committed stores go to the L2 of the die that they leave, and its frames, with every dependency slot clear;
the incoming gang runs once no save and no leg of another gang is left, and its cohorts are placed again; where nothing is
switched a paused launch goes on. Each schedule that waits takes effect at the first instant of its own. An overrun and a
lost synchronisation are recorded.
Where the spec is silent the model's choice stands: log entries 34, 53, 55, 56 and 78. -/
def Obligations.gangs_take_turns : Prop :=
  ∀ s : State,
    (∀ gang at_, s.pendScheds = [] → at_ = instantAfter s.sched s.ptp → gang = (s.sched.entries.getD at_.2 (0, 0)).1 →
      ∃ t, exec .gangSliceInstant s = .next t ∧ t.ptp = at_.1 ∧ t.sched = s.sched
        ∧ (∀ v, viOf t v = { viOf s v with gang := (viOf s v).gangNew.getD (viOf s v).gang, gangNew := none })
        ∧ (gang = s.runGang → s.switching = none →
          (∀ p ∈ s.cohorts, p.2.saved = false ∧ ∃ la, aget s.launches p.2.launch = some la
            ∧ (viOf s la.vi).gangNew = none ∧ (viOf s la.vi).gang = gang) →
          t.switching = none ∧ t.cohorts = s.cohorts ∧ t.ctxs = s.ctxs
          ∧ ∀ l la, dispatching t = some (l, la) →
            t.agenda.contains (if pkCluster la.pkt then .clusterPlacement else .cohortPlacement) = true)
        ∧ (gang ≠ s.runGang → t.switching = some gang ∧ t.agenda.contains .gangSwitchRestore = true
          ∧ ∀ tag co la, aget s.cohorts tag = some co → aget s.launches co.launch = some la → co.saved = false →
            (viOf s la.vi).gangNew.getD (viOf s la.vi).gang ≠ gang →
            aget t.cohorts tag = some { co with saving := true } ∧ t.agenda.contains (.cohortSave tag) = true
            ∧ ∀ k c r f, aget s.ctxs k = some c → c.region = some r → aget s.frames (frameKeyOf k) = some f → f.tag = tag →
              ∃ c', aget t.ctxs k = some c' ∧ c'.r = r.entry ∧ c'.region = none ∧ c'.same = c.same))
    ∧ (∀ c before later_, s.pendScheds = before ++ c :: later_ → (instantAfter c s.ptp).1 ≤ (instantAfter s.sched s.ptp).1 →
      (∀ d ∈ before, (instantAfter c s.ptp).1 ≤ (instantAfter d s.ptp).1) →
      (∀ d ∈ later_, (instantAfter c s.ptp).1 < (instantAfter d s.ptp).1) →
      ∃ t, exec .gangSliceInstant s = .next t ∧ t.sched = c ∧ t.ptp = (instantAfter c s.ptp).1
        ∧ t.pendScheds = s.pendScheds.filter (fun d => (instantAfter c s.ptp).1 < (instantAfter d s.ptp).1))
    ∧ (∀ tag co, aget s.cohorts tag = some co → co.saving = true →
      (saveWaits s tag = true → exec (.cohortSave tag) s = .next { s with agenda := s.agenda ++ [.cohortSave tag] })
      ∧ (saveWaits s tag = false → arising s.ctxs = true → arising s.frames = true →
        (∀ p ∈ s.frames, p.2.tag = tag → p.1 < 2 ^ 20) → (∀ p ∈ s.ctxs, tagOf s p.1 = tag → p.1 < 2 ^ 20) →
        ∃ t, exec (.cohortSave tag) s = .next t ∧ aget t.cohorts tag = some { co with saved := true, saving := false }
          ∧ (∀ pa, readByte t pa = readByte s pa)
          ∧ (∀ fk f, aget s.frames fk = some f → f.tag = tag → aget s.frames (savedKey tag fk) = none →
            aget t.frames (savedKey tag fk) = some f)
          ∧ ∀ k c f, aget s.ctxs k = some c → aget s.frames (frameKeyOf k) = some f → f.tag = tag →
            aget s.ctxs (savedKey tag k) = none →
            aget t.ctxs (savedKey tag k)
              = some { c with ibuf := none, handed := if c.drain.isEmpty then none else some (storeCore k c) }
            ∧ ∀ gk g, aget s.groups gk = some g → g.frame = frameKeyOf k →
              aget t.groups gk = some { g with frame := savedKey tag g.frame, slots := 0 }))
    ∧ (∀ g, s.switching = some g → ((∃ p ∈ s.cohorts, p.2.saving = true) ∨ legsLeft s g = true) →
      exec .gangSwitchRestore s = .next { s with agenda := s.agenda ++ [.gangSwitchRestore] })
    ∧ (∀ g s1, s.switching = some g → (∀ p ∈ s.cohorts, p.2.saving = false) → legsLeft s g = false →
      s1 = { s with runGang := g, switching := none } →
      (toRestore s1 = [] → ∃ t, exec .gangSwitchRestore s = .next t ∧ t.runGang = g ∧ t.switching = none
        ∧ t.cohorts = s.cohorts ∧ t.ctxs = s.ctxs ∧ t.agenda.contains .launchSelection = true)
      ∧ (∀ tag co core room, toRestore s1 = [(tag, co)] → aget s.cohorts tag = some co → co.cluster = none →
        coreFor s1 (packetOf s co) = some (core, room) →
        ∃ t, exec .gangSwitchRestore s = .next t ∧ t.runGang = g ∧ t.switching = none ∧ t.diePtr = (core / 36 + 1) % 8
          ∧ aget t.cohorts tag = some { co with core := core, slot := room.slot, spBase := room.spBase,
                                                accBase := room.accBase, saved := false }))
    ∧ (∀ g ns, s.switching = some g → ∃ t, exec (.gangSwitchOverrun ns) s = .next t
      ∧ t = { s with amber := t.amber, amberSeq := t.amberSeq } ∧ Records s t 0x0A g ns)
    ∧ (∀ offset, s.syncLoss = false → ∃ t, exec (.ptpSyncLoss offset) s = .next t
      ∧ t = { s with syncLoss := true, amber := t.amber, amberSeq := t.amberSeq } ∧ Records s t 0x09 offset 0)
    ∧ exec .ptpSyncRestored s = .next { s with syncLoss := false }

/-! ## Events: copies and DZ jobs -/

/-- The context of a failed job is due to halt with ENGINE_FAULT at the PC where it stands, or of its uncommitted region's
entry; the record names the job's own PC (10 R301; 18 R410). -/
def Sys2Proof.Claims.JobFails (t : State) (n : Nat) (j : Job) (key : Nat) (c : Ctx) (sub kind : Nat) (addr : Word64) :
    Prop :=
  aget t.jobs n = none ∧ t.agenda.contains (.contextHalt key) = true
  ∧ ∃ c', aget t.ctxs key = some c' ∧ c'.nCp = 0 ∧ c'.fault = some { plainTrap 0x15 j.pc with
      sub := sub, kind := kind, addr := addr
      pc := (match c.region with | some r => r.entry.pc | none => c.r.pc) }

/-- Bytes of a cohort's scratchpad: `bytes` from `off`, the others as they were. -/
def Sys2Proof.Claims.Delivered (s t : State) (tag off : Nat) (bytes : List Byte) : Prop :=
  ∀ co, aget s.cohorts tag = some co → ∃ co', aget t.cohorts tag = some co'
    ∧ ∀ a, agetD co'.sp 0 a = if off ≤ a ∧ a < off + bytes.length then bytes.getD (a - off) 0 else agetD co.sp 0 a

/-- 05 R123; 10 R294, R296, R301, R311, R312; 15 R372: a unit of a linear copy moves its 16 bytes and counts them on the
barrier; a delivery of a multicast reaches a resident destination, or is discarded and counted, and after its last one the
destination gets its completion word; a job that fails, or a multicast whose bound passes with deliveries left, halts its
context; a copy that has moved everything writes its completion word and leaves the counts. -/
def Sys2Proof.Claims.CopiesMove : Prop :=
  ∀ (s : State) (n : Nat) (j : Job), aget s.jobs n = some j →
    (∀ u g va bytes lines, g = jobEng j → va = j.addr + BitVec.ofNat 64 (16 * u) →
      j.kind = .linIn → j.multi = false → j.left.contains u = true →
      scratchLock s j.owners j.tag (j.so + 16 * u) 16 = false → engRead s g .copyIn va 16 = .ok (bytes, lines) →
      engBlocked s g (engFill s g va 16) lines false = false →
      ∃ t, exec (.copyUnitTransfer n u) s = .next t ∧ Delivered s t j.tag (j.so + 16 * u) bytes
        ∧ aget t.jobs n = some { j with left := j.left.filter (· ≠ u) }
        ∧ ∀ k, k < 16 → j.bar = some k → (aget s.cohorts j.tag).isSome = true →
          barOf t j.tag k = barCount (barOf s j.tag k) 16)
    ∧ (∀ u g va f places lines co, g = jobEng j → va = j.addr + BitVec.ofNat 64 (16 * u) → f = engFill s g va 16 →
      j.kind = .linOut → j.left.contains u = true → aget s.cohorts j.tag = some co →
      scratchLock s j.owners j.tag (j.so + 16 * u) 16 = false → engPlaces s g .copyOut va 16 = .ok places →
      lines = placeLines places → engBlocked s g f lines true = false → RoomFor s (engDie g) f lines →
      ∃ t, exec (.copyUnitTransfer n u) s = .next t
        ∧ (aget t.jobs n).map (·.left) = some (j.left.filter (· ≠ u))
        ∧ (∀ pa, exactByte t pa = lastByte ((places.map (·.1)).zip
          ((List.range 16).map (fun k => agetD co.sp 0 (j.so + 16 * u + k)))) pa (exactByte s pa))
        ∧ ∀ k, k < 16 → j.bar = some k → barOf t j.tag k = barCount (barOf s j.tag k) 16)
    ∧ (∀ u key c sub addr, j.kind = .linIn →
      (j.multi = true ∨ scratchLock s j.owners j.tag (j.so + 16 * u) 16 = false) → j.left.contains u = true → j.owners = [key] →
      aget s.ctxs key = some c → c.status = .running → c.fault = none →
      engRead s (jobEng j) .copyIn (j.addr + BitVec.ofNat 64 (16 * u)) 16 = .error (sub, addr) →
      (sub = 3 → engBlocked s (jobEng j) (engFill s (jobEng j) (j.addr + BitVec.ofNat 64 (16 * u)) 16)
        (engLines s (jobEng j) .copyIn addr 1) false = false) →
      ∃ t, exec (.copyUnitTransfer n u) s = .next t ∧ JobFails t n j key c sub 11 addr)
    ∧ (∀ pos off bytes core tag, j.inflight.find? (fun d => d.1 = pos) = some (pos, off, bytes) →
      j.dests.find? (fun d => d.1 = pos) = some (pos, core, tag) →
      (∀ key, destOf s core tag = some key → scratchLock s [] key off bytes.length = false →
        ∃ t, exec (.multicastDelivery n pos) s = .next t ∧ Delivered s t key off bytes
          ∧ (aget t.jobs n).map (·.inflight) = some (j.inflight.erase (pos, off, bytes)))
      ∧ (destOf s core tag = none → j.stale.contains pos = false →
        ∃ t, exec (.multicastDelivery n pos) s = .next t ∧ t.cohorts = s.cohorts
          ∧ agetD t.discards 0 core = min (agetD s.discards 0 core + 1) 0xFFFFFFFF
          ∧ (aget t.jobs n).map (·.inflight) = some (j.inflight.erase (pos, off, bytes))))
    ∧ (∀ pos core tag key off w, j.dests.find? (fun d => d.1 = pos) = some (pos, core, tag) → j.left = [] →
      (∀ d ∈ j.inflight, d.1 ≠ pos) → j.cw = some (off, w) → j.cwDone.contains pos = false → destOf s core tag = some key →
      scratchLock s [] key off 4 = false →
      ∃ t, exec (.multicastDelivery n pos) s = .next t ∧ Delivered s t key off (natLe 4 w.toNat)
        ∧ aget t.jobs n = some { j with cwDone := pos :: j.cwDone })
    ∧ (∀ key c, j.multi = true → j.owners = [key] → aget s.ctxs key = some c → c.status = .running → c.fault = none →
      (j.left ≠ [] ∨ j.inflight ≠ []) →
      ∃ t, exec (.multicastBoundExpiry n) s = .next t ∧ JobFails t n j key c 5 12 (BitVec.ofNat 64 j.so))
    ∧ (j.left = [] → j.inflight = [] → exec (.multicastBoundExpiry n) s = .next s)
    ∧ (∀ key c g, isDz j = false → j.multi = false → j.left = [] → j.inflight = [] → j.owners = [key] → j.uncounted = [] →
      aget s.ctxs key = some c → c.region = none → aget s.groups j.group = some g →
      (∀ off w, j.cw = some (off, w) → scratchLock s j.owners j.tag off 4 = false) →
      ∃ t g', exec (.copyCompletion n) s = .next t ∧ aget t.jobs n = none
        ∧ aget t.ctxs key = some { c with nCp := c.nCp - 1 } ∧ aget t.groups j.group = some g'
        ∧ (∀ k, j.setSlot = some k → g'.slots.getLsbD k = false)
        ∧ (∀ off w, j.cw = some (off, w) → Delivered s t j.tag off (natLe 4 w.toNat))
        ∧ t.agenda.contains (.cohortEnd j.tag) = true)

/-- The bytes of accumulator row `row` as an outward copy with conversion `cvt` writes them (10 R302). -/
def Sys2Proof.Claims.rowBytesOf (co : Cohort) (cvt : Nat) (ovt : Word) (row : Nat) : List Byte :=
  (List.range 64).flatMap (fun c =>
    natLe (if cvt = 0 then 4 else 2) (roundTo cvt 0 ovt (ieeeVal 0 (agetD co.acc 0 (row * 64 + c)).toNat)))

/-- 10 R295, R299, R302; 11 R339; 13 R344: a unit of a box copy moves one element between its place in the region, which its
band's order gives, and the scratchpad, tightly packed by rows; a unit of an accumulator copy moves one row, rounded on the
way out; a poisoned row fails the job. -/
def Sys2Proof.Claims.BoxesAndRowsMove : Prop :=
  ∀ (s : State) (n : Nat) (j : Job) (u : Nat) (g : Eng), aget s.jobs n = some j → j.left.contains u = true →
    g = jobEng j →
    (∀ acc kind b bx dx va i ver f fill off v,
      (j.kind = .boxIn ∧ acc = .tensorLoad ∧ kind = 11 ∨ j.kind = .boxOut ∧ acc = .tensorStore ∧ kind = 12) →
      spotOf s j.core j.vi j.hrec acc kind (recOrigin j.hrec 0 + j.c0 + u % j.cols) (recOrigin j.hrec 1 + j.c1 + u / j.cols)
        (recOrigin j.hrec 2 + j.c2) = .place b bx dx va i ver →
      f = recFormat j.hrec → fill = xlatFill s j.vi 0 [dx] → off = j.so + u * boxElemBytes j.hrec →
      bandBusy s b = false → isStale s b ver = false →
      (j.kind = .boxIn → j.multi = false → isPoisoned s (lineOf dx.pa) = false →
        scratchLock s j.owners j.tag off (boxElemBytes j.hrec) = false →
        engBlocked s g fill [lineOf dx.pa] false = false →
        ∃ t, exec (.copyUnitTransfer n u) s = .next t
          ∧ Delivered s t j.tag off (natLe (boxElemBytes j.hrec) (readElem (dieSees s (engDie g)) f dx.pa i))
          ∧ (aget t.jobs n).map (·.left) = some (j.left.filter (· ≠ u))
          ∧ ∀ k, k < 16 → j.bar = some k → (aget s.cohorts j.tag).isSome = true →
            barOf t j.tag k = barCount (barOf s j.tag k) (boxElemBytes j.hrec))
      ∧ (∀ co, j.kind = .boxOut → aget s.cohorts j.tag = some co →
        scratchLock s j.owners j.tag off (boxElemBytes j.hrec) = false →
        engBlocked s g fill [lineOf dx.pa] true = false → RoomFor s (engDie g) fill [lineOf dx.pa] →
        v = leNat ((List.range (boxElemBytes j.hrec)).map (fun k => agetD co.sp 0 (off + k)))
          % (if f = 4 then 64 else 2 ^ 32) →
        ∃ t, exec (.copyUnitTransfer n u) s = .next t
          ∧ (∀ pa, exactByte t pa = lastByte (elemCells (dieSees s (engDie g)) f dx.pa i v) pa (exactByte s pa))
          ∧ (aget t.jobs n).map (·.left) = some (j.left.filter (· ≠ u))
          ∧ ∀ k, k < 16 → j.bar = some k → barOf t j.tag k = barCount (barOf s j.tag k) (boxElemBytes j.hrec)))
    ∧ (∀ co row, aget s.cohorts j.tag = some co → row = j.accRow + u →
      (j.kind = .accOutSp → rowPoisoned co row = false →
        scratchLock s j.owners j.tag (j.so + u * accRowBytes j.cvt) (64 * (if j.cvt = 0 then 4 else 2)) = false →
        ∃ t, exec (.copyUnitTransfer n u) s = .next t
          ∧ Delivered s t j.tag (j.so + u * accRowBytes j.cvt) (rowBytesOf co j.cvt j.ovt row)
          ∧ (aget t.jobs n).map (·.left) = some (j.left.filter (· ≠ u)))
      ∧ (∀ va fill places lines, j.kind = .accOutMem → rowPoisoned co row = false →
        va = j.addr + BitVec.ofNat 64 (u * accRowBytes j.cvt) → fill = engFill s g va (accRowBytes j.cvt) →
        engPlaces s g .copyOut va (accRowBytes j.cvt) = .ok places → lines = placeLines places →
        engBlocked s g fill lines true = false → RoomFor s (engDie g) fill lines →
        ∃ t, exec (.copyUnitTransfer n u) s = .next t
          ∧ (∀ pa, exactByte t pa = lastByte ((places.map (·.1)).zip (rowBytesOf co j.cvt j.ovt row)) pa (exactByte s pa))
          ∧ (aget t.jobs n).map (·.left) = some (j.left.filter (· ≠ u)))
      ∧ (∀ key c, (j.kind = .accOutSp ∨ j.kind = .accOutMem) → rowPoisoned co row = true → j.owners = [key] →
        aget s.ctxs key = some c → c.status = .running → c.fault = none →
        ∃ t, exec (.copyUnitTransfer n u) s = .next t ∧ JobFails t n j key c 6 11 (BitVec.ofNat 64 row))
      ∧ (∀ va bytes lines,
        (j.kind = .accInSp ∧ scratchLock s j.owners j.tag (j.so + 256 * u) 256 = false
            ∧ bytes = (List.range 256).map (fun k => agetD co.sp 0 (j.so + 256 * u + k))
          ∨ j.kind = .accInMem ∧ va = j.addr + BitVec.ofNat 64 (256 * u) ∧ engRead s g .copyIn va 256 = .ok (bytes, lines)
            ∧ engBlocked s g (engFill s g va 256) lines false = false) →
        ∃ t co', exec (.copyUnitTransfer n u) s = .next t ∧ aget t.cohorts j.tag = some co'
          ∧ (∀ r c, c < 64 → agetD co'.acc 0 (r * 64 + c)
            = if r = row then BitVec.ofNat 32 (leNat ((bytes.drop (4 * c)).take 4)) else agetD co.acc 0 (r * 64 + c))
          ∧ (∀ r c, c < 64 → agetD co'.accPoison false (r * 64 + c)
            = if r = row then false else agetD co.accPoison false (r * 64 + c))
          ∧ (aget t.jobs n).map (·.left) = some (j.left.filter (· ≠ u))))

/-- A DZ job decodes one token and comes to output `out`: what the token appends is to be written, unless it is nothing; the
job stops with `status` or goes on. -/
def Sys2Proof.Claims.Decodes (s : State) (n : Nat) (d : DzState) (pos : Nat) (out : List Byte) (status : Option Nat) : Prop :=
  ∃ t d', exec (.copyUnitTransfer n 0) s = .next t ∧ (aget t.jobs n).bind (·.dz) = some d' ∧ d'.card = d.card ∧ d'.out = out
    ∧ d'.pos = pos ∧ d'.status = status
    ∧ d'.todo = (if out = d.out then d.todo else d.todo ++ [(d.out.length, out.length - d.out.length)])

/-- 10 R314 to R316, Table 10-8; 15 R372: DZ reads its card, then a token at a time: a literal run appends its bytes, a
match appends bytes of the output itself; a bad offset, output past OUTLEN, a stream that ends inside a token or too early
stop it with their status. A literal run that the end of the stream cuts off appends none of its bytes, unless those that
are there reach OUTLEN: the model's choice (log entry 49). Each piece of output is written where it goes. At its end
STATUS and PRODUCED are written, OUTLEN is counted, and the job signals. -/
def Sys2Proof.Claims.StreamsDecode : Prop :=
  ∀ (s : State) (n : Nat) (j : Job) (g : Eng), aget s.jobs n = some j → isDz j = true → g = jobEng j →
    (∀ bytes lines card, j.dz = none → engRead s g .scale j.addr 64 = .ok (bytes, lines) →
      engBlocked s g (engFill s g j.addr 64) lines false = false → card = BitVec.ofNat 512 (leNat bytes) →
      ∃ t, exec (.copyUnitTransfer n 0) s = .next t ∧ (aget t.jobs n).bind (·.dz) = some {
        card := card, pos := 0, out := [], todo := [],
        status := if card.extractLsb' 0 32 = 1 ∧ card.extractLsb' 32 128 = 0 ∧ card.extractLsb' 384 128 = 0
            ∧ (card.extractLsb' 160 32).toNat ≤ 16777215 then none else some 5 })
    ∧ (∀ d slen va, j.dz = some d → d.status = none →
      slen = (d.card.extractLsb' 160 32).toNat → va = d.card.extractLsb' 192 64 + BitVec.ofNat 64 d.pos →
      (slen ≤ d.pos → Decodes s n d d.pos d.out (some (if d.out.length = j.len then 0 else 4)))
      ∧ (∀ (b : Byte) rest first lines k need, d.pos < slen → engRead s g .scale va 1 = .ok ([b], first) →
        k = b.toNat % 128 → need = min (slen - d.pos) (if b.toNat < 128 then k + 2 else 3) →
        engRead s g .scale va need = .ok (b :: rest, lines) → engBlocked s g (engFill s g va need) lines false = false →
        (b.toNat < 128 → rest.length < k + 1 → d.out.length + rest.length < j.len → Decodes s n d d.pos d.out (some 3))
        ∧ (b.toNat < 128 → k + 1 ≤ rest.length → d.out.length + (k + 1) ≤ j.len →
          Decodes s n d (d.pos + (k + 2)) (d.out ++ rest.take (k + 1)) none)
        ∧ (b.toNat < 128 → d.out.length ≤ j.len → j.len < d.out.length + (k + 1) → j.len ≤ d.out.length + rest.length →
          Decodes s n d d.pos (d.out ++ rest.take (j.len - d.out.length)) (some 2))
        ∧ (128 ≤ b.toNat → rest.length < 2 → Decodes s n d d.pos d.out (some 3))
        ∧ (∀ o, 128 ≤ b.toNat → 2 ≤ rest.length → o = leNat (rest.take 2) →
          (o = 0 ∨ d.out.length < o → Decodes s n d d.pos d.out (some 1))
          ∧ (∀ out more, 0 < o → o ≤ d.out.length → d.out.length ≤ j.len → more = min (k + 3) (j.len - d.out.length) →
            out.length = d.out.length + more → out.take d.out.length = d.out →
            (∀ i, i < more → out.getD (d.out.length + i) 0 = out.getD (d.out.length + i - o) 0) →
            Decodes s n d (if more = k + 3 then d.pos + 3 else d.pos) out (if more = k + 3 then none else some 2)))))
    ∧ (∀ d p bytes, j.dz = some d → p ∈ d.todo → d.todo.find? (fun q => q.1 = p.1) = some p →
      bytes = (d.out.drop p.1).take p.2 →
      (j.kind = .dzSp → scratchLock s j.owners j.tag (j.so + p.1) bytes.length = false →
        ∃ t, exec (.copyUnitTransfer n (p.1 + 1)) s = .next t ∧ Delivered s t j.tag (j.so + p.1) bytes
        ∧ (aget t.jobs n).bind (·.dz) = some { d with todo := d.todo.erase p })
      ∧ (∀ va f places lines, j.kind = .dzMem → va = d.card.extractLsb' 256 64 + BitVec.ofNat 64 p.1 →
        engPlaces s g .copyOut va bytes.length = .ok places → lines = placeLines places → f = engFill s g va bytes.length →
        engBlocked s g f lines true = false → RoomFor s (engDie g) f lines →
        ∃ t, exec (.copyUnitTransfer n (p.1 + 1)) s = .next t
          ∧ (∀ pa, exactByte t pa = lastByte ((places.map (·.1)).zip bytes) pa (exactByte s pa))
          ∧ (aget t.jobs n).bind (·.dz) = some { d with todo := d.todo.erase p }))
    ∧ (∀ d st s1 f places lines key c, j.dz = some d → d.status = some st → d.todo = [] → j.owners = [key] →
      j.uncounted = [] → aget s.ctxs key = some c → c.region = none → s1 = setOwned s n j [] →
      engPlaces s1 g .copyOut (j.addr + 40) 8 = .ok places → lines = placeLines places →
      f = engFill s1 g (j.addr + 40) 8 → engBlocked s1 g f lines true = false → RoomFor s1 (engDie g) f lines →
      (∀ off w, j.cw = some (off, w) → scratchLock s j.owners j.tag off 4 = false) → j.multi = false →
      ∃ t woken, exec (.dzJobEnd n) s = .next t ∧ aget t.jobs n = none
        ∧ aget t.ctxs key = some { c with nCp := c.nCp - 1, woken := woken } ∧ (woken = c.woken ∨ j.bar.isSome = true)
        ∧ (∀ off w, j.cw = some (off, w) → Delivered s t j.tag off (natLe 4 w.toNat))
        ∧ (∀ k, k < 16 → j.bar = some k → (aget s.cohorts j.tag).isSome = true →
          barOf t j.tag k = barCount (barOf s j.tag k) j.len)
        ∧ ∀ pa, exactByte t pa
          = lastByte ((places.map (·.1)).zip (natLe 4 st ++ natLe 4 d.out.length)) pa (exactByte s pa))

/-- 05 R123; 10 R294 to R302, R311 to R316; 11 R339; 15 R372: copies and DZ jobs move their bytes, count, fail and complete.
Where the spec is silent the model's choice stands: log entries 31, 42, and 49 for a literal run that the end of the stream
cuts off. -/
def Obligations.copies_move_their_bytes : Prop :=
  Sys2Proof.Claims.CopiesMove ∧ Sys2Proof.Claims.BoxesAndRowsMove ∧ Sys2Proof.Claims.StreamsDecode

/-! ## Events: the Paver and Junction -/

/-- Band `key` is `b`, and so says its record in memory: ORDER, STATE, FLIPS, PREV and VERSION (13 R347). -/
def Sys2Proof.Claims.BandIs (t : State) (key : Nat) (b : Band) : Prop :=
  aget t.bands key = some b ∧ (readRecord t key).extractLsb' 0 4 = b.order ∧ rrField (readRecord t key) 4 2 = b.st
  ∧ rrField (readRecord t key) 6 2 = b.flips ∧ (readRecord t key).extractLsb' 8 4 = b.prev
  ∧ (readRecord t key).extractLsb' 32 32 = b.version

/-- The event makes band `key` be `b`; no byte outside its record and no other band differs. -/
def Sys2Proof.Claims.BandBecomes (s : State) (ev : Instr) (key : Nat) (b : Band) (due : Bool) : Prop :=
  ∃ t, exec ev s = .next t ∧ BandIs t key b ∧ (∀ k, k ≠ key → aget t.bands k = aget s.bands k)
    ∧ (∀ pa, pa < 64 * key ∨ 64 * key + 64 ≤ pa → exactByte t pa = exactByte s pa)
    ∧ (due = true → t.agenda.contains (.paverMoveInstall key) = true)

/-- Band `key`, of index `ix` in a region of geometry `geom`, is `b`, and nothing holds up a write of its record on behalf
of a VI. -/
def Sys2Proof.Claims.BandReady (s : State) (vi key : Nat) (geom : BitVec 1024) (ix : Nat) (b : Band) : Prop :=
  b = bandAt s key ∧ b.st < 4 ∧ b.flips < 4 ∧ recordHeld s vi key geom ix = none
  ∧ RoomFor s (bandDie key) (fun _ => recordFill s vi key geom ix) [lineOf (64 * key)]

/-- The move that a band has when it begins: its lines are those that its VI's translation gives then (13 R352, R353). -/
def Sys2Proof.Claims.begun (s : State) (key : Nat) (m : MoveJob) : Option MoveJob :=
  some { m with lines := (bandLinesOf s key m).getD [] }

/-- 02 R51; 13 R346 to R353, R355: what a band does at the end of an epoch and of a window, and when its move begins and
ends; a move one of whose lines is poisoned when it would install is abandoned (log entry 39). A pin move that waits for
an engine waits on while the monitor moves the band. -/
def Sys2Proof.Claims.BandsMove : Prop :=
  ∀ (s : State) (key : Nat) (b : Band), b = bandAt s key →
    (∀ vi after, vi = b.geomVi → BandReady s vi key b.geom b.bandIx b → b.epochDue = true →
      after = { b with epcnt := 0, sums := [], advwt := b.advwt / 2, epochDue := false,
                       epoch := rrField (readRecord s key) 16 16, hyst := rrField (readRecord s key) 64 16 } →
      (decisionOf { b with hyst := rrField (readRecord s key) 64 16 } b.geom = .nothing →
        BandBecomes s (.epochEnd key) key after false)
      ∧ (decisionOf { b with hyst := rrField (readRecord s key) 64 16 } b.geom = .settle →
        BandBecomes s (.epochEnd key) key { after with st := 2, flag := false } false)
      ∧ (∀ o target flag m, decisionOf { b with hyst := rrField (readRecord s key) 64 16 } b.geom = .move o target flag →
        m = ({ order := o, target := target, pin := false, geom := b.geom, vi := vi, bandIx := b.bandIx, ctxs := [],
               lines := [], flag := flag } : MoveJob) →
        (enginesBusy s key = true ∨ moveAllowed s key m = false → BandBecomes s (.epochEnd key) key after false)
        ∧ (enginesBusy s key = false → moveAllowed s key m = true →
          BandBecomes s (.epochEnd key) key { after with
            st := 1, move := begun (writeRecord (putBand s key after) vi key b.geom b.bandIx) key m } true)))
    ∧ (BandReady s b.geomVi key b.geom b.bandIx b → b.windowDue = true → b.epochDue = false → BandBecomes s (.windowEnd key) key
        { b with wincnt := 0, flips := 0, flag := false, windowDue := false, st := if b.st = 2 then 0 else b.st } false)
    ∧ (b.windowDue = true → b.epochDue = true →
      exec (.windowEnd key) s = .next { s with agenda := s.agenda ++ [.windowEnd key] })
    ∧ (∀ m, b.pinWait = some m →
      (b.st = 1 ∨ b.epochDue = true ∨ b.windowDue = true →
        exec (.pinMoveStart key) s = .next { s with agenda := s.agenda ++ [.pinMoveStart key] })
      ∧ (BandReady s m.vi key m.geom m.bandIx b → b.st ≠ 1 → b.epochDue = false → b.windowDue = false →
        (m.order = b.order ∨ moveAllowed s key m = false →
          BandBecomes s (.pinMoveStart key) key { b with st := 3, pinWait := none } false)
        ∧ (m.order ≠ b.order → moveAllowed s key m = true →
          (enginesBusy s key = true → exec (.pinMoveStart key) s = .next { s with agenda := s.agenda ++ [.pinMoveStart key] })
          ∧ (enginesBusy s key = false → m.pin = true →
            BandBecomes s (.pinMoveStart key) key { b with st := 1, move := begun s key m, pinWait := none } true))))
    ∧ (∀ m, b.move = some m → BandReady s m.vi key m.geom m.bandIx b →
      (∀ l ∈ m.lines, engineOwner s l = none ∧ inService s l = false ∧ moveLock s key l = false) →
      holders s none m.lines = [] → (∃ l ∈ m.lines, isPoisoned s l = true) →
      BandBecomes s (.paverMoveInstall key) key { b with st := if m.pin then 3 else 0, move := none } false)
    ∧ (∀ m, b.move = some m → BandReady s m.vi key m.geom m.bandIx b →
      (∀ l ∈ m.lines, engineOwner s l = none ∧ inService s l = false ∧ moveLock s key l = false) →
      holders s none m.lines = [] → (∀ l ∈ m.lines, isPoisoned s l = false) → lineOf (64 * key) ∉ m.lines → m.target < 4 →
      s.memoryWf = true → (∀ l ∈ m.lines, aget s.tolFmt l = none ∧ aget s.sealed l = none) →
      ∃ t, exec (.paverMoveInstall key) s = .next t
        ∧ BandIs t key { b with
            order := m.order, prev := b.order, version := b.version + 1, st := m.target, move := none,
            flips := if m.pin then b.flips else min (b.flips + 1) 3, flag := m.flag }
        ∧ ∀ pa, lineOf pa ≠ lineOf (64 * key) →
          readByte t pa = readByte (rewrite s m.lines m.geom b.order m.order) pa)

/-- 13 R351, R357, R360: what the oldest waiting layout operation of a band does when it is applied. -/
def Sys2Proof.Claims.LayoutOperationsApply : Prop :=
  ∀ (s : State) (key : Nat) (b : Band) (op : LayoutOp) (rest : List LayoutOp) (s1 : State),
    BandReady s op.vi key op.hrec op.bandIx b →
    b.queue = op :: rest → layoutWaits b = false → s1 = putBand s key { b with queue := rest } →
    (∀ m, op.kind = 0 → m = pinMove op →
      (opxCur op.x = true ∨ m.order = b.order ∨ moveAllowed s1 key m = false →
        BandBecomes s (.pinApply key) key { b with queue := rest, st := 3 } false)
      ∧ (opxCur op.x = false → m.order ≠ b.order → moveAllowed s1 key m = true →
        (enginesBusy s1 key = true → ∃ t, exec (.pinApply key) s = .next t
          ∧ aget t.bands key = some { b with queue := rest, pinWait := some m }
          ∧ t = { s with bands := t.bands, agenda := s.agenda ++ [.pinMoveStart key] })
        ∧ (enginesBusy s1 key = false → BandBecomes s (.pinApply key) key
            { b with queue := rest, st := 1, move := begun s1 key m, pinWait := none } true)))
    ∧ (op.kind = 1 → BandBecomes s (.unpinApply key) key
        { b with queue := rest, st := if b.st = 3 then 0 else b.st, epcnt := if b.st = 3 then 0 else b.epcnt,
                 sums := if b.st = 3 then [] else b.sums } false)
    ∧ (op.kind = 2 → BandBecomes s (.adviceApply key) key (advise { b with queue := rest } op.x) false)

/-- The record of a transfer could not be written: FAULT with CAUSE 7 (20 R466). -/
def Sys2Proof.Claims.Lost (y : Xfer) : Prop := y.st = 5 ∧ y.cause = 7 ∧ y.noRec = true

/-- The event ends leg `leg` of RUNNING transfer n in FAULT with the given CAUSE (20 R464). -/
def Sys2Proof.Claims.LegFailed (s : State) (ev : Instr) (n : Nat) (x : Xfer) (leg cause : Nat) : Prop :=
  ∃ t y, exec ev s = .next t ∧ aget t.xfers n = some y ∧ y.fleg = BitVec.ofNat 32 leg
    ∧ y.flying = x.flying.filter (· ≠ leg) ∧ y.marked = x.marked ∧ y.legs = x.legs
    ∧ (y.st = 5 ∧ y.cause = cause ∨ Lost y)

/-- An answer goes to the peer that asked: here when that is this module, else in a message. -/
def Sys2Proof.Claims.Replied (s : State) (ev : Instr) (port : Option Nat) (here : Instr) (there : FabOut) : Prop :=
  ∃ t, exec ev s = .next t ∧ (port = none → t.agenda.contains here = true)
    ∧ (port ≠ none → t.fabOut = s.fabOut ++ [there]) ∧ OnlyPostsOut s t

/-- 20 R462 to R466, R468; 21 R471: a transfer in PLANNING writes its header, then a plan that is made runs, and one that is
not faults with its CAUSE; a plan made again starts from the bits that its record has; where the record cannot be written
CAUSE is 7. -/
def Sys2Proof.Claims.PlansAreMade : Prop :=
  ∀ (s : State) (n : Nat) (x : Xfer) (s1 : State), aget s.xfers n = some x → x.st = 1 → recordWaits s x = none →
    s1 = engTake s (jnEng x) (planFill s x) (planLines s x) →
    (x.hdr = false → msWaits s x 256 (legBytes (x.clear.getD 0)) = none →
      ∃ t y, exec (.junctionPlanComplete n) s = .next t ∧ aget t.xfers n = some y
        ∧ (y = { x with hdr := true } ∧ t.agenda.contains (.junctionPlanComplete n) = true ∨ Lost y))
    ∧ (x.hdr = true → planWaits s n x = none →
      (∀ cause, derive_ s1 n x = .error cause → ∃ t y, exec (.junctionPlanComplete n) s = .next t
        ∧ aget t.xfers n = some y ∧ (y.st = 5 ∧ y.cause = cause ∨ Lost y))
      ∧ (∀ x', derive_ s1 n x = .ok x' → x.flying = [] →
        (x.clear ≠ none → ∃ t y, exec (.junctionPlanComplete n) s = .next t ∧ aget t.xfers n = some y ∧ y.legs = x'.legs
          ∧ y.marked = [] ∧ (y.st = (if incoming x' = [] then 3 else 2) ∨ Lost y)
          ∧ (y.st = 2 → gangRuns s x.vi = true → y.flying = (incoming x').take 8))
        ∧ (∀ m, x.clear = none → markedNow s1 x' = some m →
          ∃ t y, exec (.junctionPlanComplete n) s = .next t ∧ aget t.xfers n = some y ∧ y.legs = x'.legs ∧ y.marked = m
            ∧ (y.st = (if ∀ i ∈ incoming x', m.contains i = true then 3 else 2) ∨ Lost y)
            ∧ (y.st = 2 → gangRuns s x.vi = true →
              y.flying = ((incoming x').filter (fun i => !m.contains i)).take 8))
        ∧ (x.clear = none → markedNow s1 x' = none → ∃ t y, exec (.junctionPlanComplete n) s = .next t
          ∧ aget t.xfers n = some y ∧ y.st = 5 ∧ y.cause = 7)))

/-- The refusal of a pull. -/
def Sys2Proof.Claims.PullRefused (s : State) (p : PullReq) (reason : Nat) : Prop :=
  Replied s (.junctionPullServe p) p.port (.junctionPullRefusal p.tag p.leg reason)
    { node := p.srcNode, vi := p.srcVi, kind := 7, tag := p.tag, addr := BitVec.ofNat 64 p.leg, len := reason, payload := [] }

/-- 02 R43; 04 R102; 20 R448, R464, R465: a pull waits while its port carries no traffic; it is served row by row, also while
the gangs are being switched, or refused with the reason: not enabled, not active, its gang not running, an order that is
illegal, poison. -/
def Sys2Proof.Claims.PullsAreServed : Prop :=
  ∀ (s : State) (p : PullReq),
    (portCarries s p.port = false → exec (.junctionPullServe p) s = .next { s with agenda := s.agenda ++ [.junctionPullServe p] })
    ∧ (portCarries s p.port = true → takesFrom s p.dstVi p.srcNode p.srcVi = false → PullRefused s p 4)
    ∧ (portCarries s p.port = true → takesFrom s p.dstVi p.srcNode p.srcVi = true →
      (s.xfers.find? (fun q => q.2.vi = p.dstVi && tcXid q.2.card = p.xid && q.2.st ≠ 0) = none → PullRefused s p 0)
      ∧ (∀ k x l, s.xfers.find? (fun q => q.2.vi = p.dstVi && tcXid q.2.card = p.xid && q.2.st ≠ 0) = some (k, x) →
        (gangServes s x.vi = false → PullRefused s p 1)
        ∧ (gangServes s x.vi = true → x.st ≠ 1 → x.legs[p.leg]? = some l → x.srank = some l.src →
          (l.ext1 ≤ p.got.length / rowBytes x.srcRec l →
            Replied s (.junctionPullServe p) p.port (.junctionLegComplete p.tag p.leg p.got)
              { node := p.srcNode, vi := p.srcVi, kind := 5, tag := p.tag, addr := BitVec.ofNat 64 p.leg,
                len := p.got.length, payload := p.got })
          ∧ (∀ g r sp s1 s2 scales, g = jnEng x → r = p.got.length / rowBytes x.srcRec l → r < l.ext1 →
            sp = rowSpots s g x.srcRec l l.sOrg .tensorLoad r →
            (rowIllegal s g x.srcRec l r sp = true → PullRefused s p 7)
            ∧ (rowIllegal s g x.srcRec l r sp = false → rowReady s g sp false = none →
              ((∃ n ∈ rowLines sp, isPoisoned s n = true) → PullRefused s p 6)
              ∧ ((∀ n ∈ rowLines sp, isPoisoned s n = false) → s1 = engTake s g (rowFill s g sp) (rowLines sp) →
                (∀ k : State → List Byte → EngRes, readScales s1 g (rowScales x.srcRec l l.sOrg r) k = k s2 scales) →
                ∃ t, exec (.junctionPullServe p) s = .next t ∧ t.agenda.contains (.junctionPullServe { p with
                  got := p.got ++ ((placedRow sp).flatMap (fun q => natLe (legElemBytes (recFormat x.srcRec))
                    (readElem (dieSees s (engDie g)) (recFormat x.srcRec) q.2.2.2.1.pa q.2.2.2.2)) ++ scales) }) = true))))))

/-- 04 R102; 16 R389; 20 R463 to R465: a row that has arrived is written where its elements lie; a leg that has arrived is
marked, and the last one ends the transfer; a leg that fails, or is refused for good, or not answered, faults it; a refusal
that may pass is tried again, once the gang runs. -/
def Sys2Proof.Claims.LegsLand : Prop :=
  ∀ (s : State) (n leg : Nat) (x : Xfer) (l : Leg), aget s.xfers n = some x → x.legs[leg]? = some l →
    x.flying.contains leg = true →
    (∀ payload, legWaits s x leg = none →
      (x.st = 2 → (payload.length % rowBytes x.dstRec l ≠ 0 ∨ l.ext1 < payload.length / rowBytes x.dstRec l) →
        LegFailed s (.junctionLegComplete n leg payload) n x leg 1)
      ∧ (payload = [] → ∃ t y, exec (.junctionLegComplete n leg payload) s = .next t ∧ aget t.xfers n = some y
        ∧ y.marked = addNew x.marked [leg] ∧ y.flying.contains leg = false
        ∧ (y.st = (if x.st = 2 ∧ ∀ i ∈ incoming x, i = leg ∨ x.marked.contains i = true then 3 else x.st)
          ∨ y.cause = 7 ∧ y.noRec = true))
      ∧ (∀ rb r g s1, rb = rowBytes x.dstRec l → payload.length % rb = 0 → payload ≠ [] → payload.length / rb ≤ l.ext1 →
        r = l.ext1 - payload.length / rb → g = jnEng x →
        (writeRow s g x.dstRec l r (payload.take rb) (fun s' ls => .done (setLegOwned s' n leg
            (ownedNext (legOwned x leg) ls (scalesAfter x.dstRec l r).contains))) = .done s1 →
          exec (.junctionLegComplete n leg payload) s = .next
            { s1 with agenda := s1.agenda ++ [.junctionLegComplete n leg (payload.drop rb)] })
        ∧ (∀ sp w, sp = rowSpots s g x.dstRec l l.dOrg .tensorStore r → w = legElemBytes (recFormat x.dstRec) →
          recScales x.dstRec = false → recFormat x.dstRec ≠ 4 → rowReady s g sp true = none →
          RoomFor s (engDie g) (rowFill s g sp) (rowLines sp) →
          ∃ t, exec (.junctionLegComplete n leg payload) s = .next t
            ∧ t.agenda.contains (.junctionLegComplete n leg (payload.drop rb)) = true
            ∧ ∀ pa, exactByte t pa = lastByte ((placedRow sp).flatMap (fun q =>
                elemCells s (recFormat x.dstRec) q.2.2.2.1.pa q.2.2.2.2 (leNat (((payload.take rb).drop (q.1 * w)).take w)))) pa
              (exactByte s pa))))
    ∧ (∀ reason, reason ≤ 1 → exec (.junctionPullRefusal n leg reason) s = .next
        { s with agenda := s.agenda ++ [.junctionPullRetry n leg] })
    ∧ (∀ reason, 2 ≤ reason → x.st = 2 → recordWaits s x = none →
      LegFailed s (.junctionPullRefusal n leg reason) n x leg reason)
    ∧ (x.st = 2 → recordWaits s x = none → LegFailed s (.junctionPullTimeout n leg) n x leg 5)
    ∧ (x.st = 2 → gangRuns s x.vi = true → Replied s (.junctionPullRetry n leg) (if nodeOf l.node = ownNode s then none else some 0)
        (.junctionPullServe { port := none, srcNode := ownNode s, srcVi := x.vi, dstVi := nodeVi l.node,
                              xid := tcXid x.card, leg := leg, tag := n, got := [] })
        { node := nodeOf l.node, vi := nodeVi l.node, kind := 4, tag := n, addr := BitVec.ofNat 64 leg,
          len := (tcXid x.card).toNat, payload := [] })
    ∧ (x.st ≠ 2 ∨ gangRuns s x.vi = false → ∃ t, exec (.junctionPullRetry n leg) s = .next t
      ∧ t = { s with xfers := t.xfers, engOwn := t.engOwn }
      ∧ aget t.xfers n = some { x with flying := x.flying.filter (· ≠ leg), owned := x.owned.filter (fun p => p.1 ≠ leg) })

/-- 13 R346 to R360; 20 R462 to R466: bands are decided, moved, pinned and advised; Junction transfers run.
Where the spec is silent the model's choice stands: log entries 37, 39, 51, 84 and 85. -/
def Obligations.bands_move_and_transfers_run : Prop :=
  Sys2Proof.Claims.BandsMove ∧ Sys2Proof.Claims.LayoutOperationsApply ∧ Sys2Proof.Claims.PlansAreMade
  ∧ Sys2Proof.Claims.PullsAreServed ∧ Sys2Proof.Claims.LegsLand

/-! ## Events: coherence messages -/

/-- Every speculative region that holds the line is rolled back (07 R201; 16 R388, R400). -/
def Sys2Proof.Claims.HoldersRollBack (s t : State) (line : Nat) : Prop :=
  ∀ k c r, aget s.ctxs k = some c → c.region = some r → holdsLine c line = true →
    ∃ c', aget t.ctxs k = some c' ∧ c'.r = r.entry ∧ c'.region = none

/-- No die and no filter entry has the line; its bytes read as before, and none is modified in a cache (16 R388). -/
def Sys2Proof.Claims.LineDropped (s t : State) (line : Nat) : Prop :=
  aget t.sf line = none ∧ (∀ d, d < 8 → aget t.l2 (l2Key line d) = none) ∧ HoldersRollBack s t line
  ∧ ∀ pa, readByte t pa = readByte s pa ∧ (lineOf pa = line → aget t.dirty pa = none)

/-- The line is written back as it is: it is not tolerant and not under a cleared key. -/
def Sys2Proof.Claims.PlainLine (s : State) (line : Nat) : Prop :=
  s.memoryWf = true ∧ aget s.tolFmt line = none ∧ aget s.sealed line = none

/-- Every speculative region of the die's contexts that holds the line is rolled back (16 R388, R400). -/
def Sys2Proof.Claims.DieRollsBack (s t : State) (die line : Nat) : Prop :=
  ∀ k c r, aget s.ctxs k = some c → dieOfCore (coreOf k) = die → c.region = some r → holdsLine c line = true →
    ∃ c', aget t.ctxs k = some c' ∧ c'.r = r.entry ∧ c'.region = none

/-- 16 R384, R387, R393, Table 16-5: a request waits at its die while the slice of its line is being gated; at its home it is
answered, forwarded or makes the other copies go, waits its turn, or waits until the filter has room for its line. -/
def Sys2Proof.Claims.RequestsAreServed : Prop :=
  ∀ (s : State) (die line : Nat) (getm : Bool) (ev : Instr) (q : HomeReq),
    ev = (if getm then .getm die line else .gets die line) → q = .get die getm (openFill s) → isPlace die line = true →
    (needsNothing s die line getm = true → exec ev s = .next s)
    ∧ (needsNothing s die line getm = false → gateWaits s die line = true →
      exec ev s = .next { s with agenda := s.agenda ++ [ev] })
    ∧ (needsNothing s die line getm = false → gateWaits s die line = false →
      (∀ x, aget s.txns line = some x →
        (isAsked x die getm = true → exec ev s = .next s)
        ∧ (isAsked x die getm = false →
          exec ev s = .next { s with txns := aput s.txns line { x with queue := x.queue ++ [q] } }))
      ∧ (∀ v, aget s.txns line = none → sfVictim s line = some v → ∃ t, exec ev s = .next t
        ∧ t = { s with agenda := t.agenda, txns := t.txns } ∧ t.agenda.contains (.binv v) = true
        ∧ aget t.txns line = some { cur := q, room := true, acks := [], data := false, queue := [] })
      ∧ (aget s.txns line = none → sfVictim s line = none → ∃ t x, exec ev s = .next t ∧ aget t.txns line = some x
        ∧ x.cur = q ∧ x.room = false ∧ x.queue = [] ∧ t.l2 = s.l2 ∧ t.ctxs = s.ctxs
        ∧ (∀ pa, readByte t pa = readByte s pa)
        ∧ (aget s.sf line = none → x.acks = [] ∧ x.data = false ∧ t.agenda.contains (.data die line) = true
          ∧ aget t.sf line = some { st := 2, owner := die, sharers := dieBit die, age := s.sfAge })
        ∧ ∀ h, aget s.sf line = some h →
          (getm = false → h.st = 1 → x.acks = [] ∧ x.data = false ∧ t.agenda.contains (.data die line) = true
            ∧ aget t.sf line = some { h with sharers := h.sharers ||| dieBit die })
          ∧ (getm = false → h.st ≠ 1 → x.acks = [h.owner] ∧ x.data = false ∧ aget t.sf line = some h
            ∧ t.agenda.contains (.fwds h.owner line) = true)
          ∧ (getm = true → x.acks = otherDies h die ∧ aget t.sf line = some h
            ∧ (∀ d ∈ x.acks, t.agenda.contains (if h.st ≠ 1 ∧ d = h.owner then .fwdm d line else .inv d line) = true)
            ∧ (x.data = true ↔ h.sharers.getLsbD die = true ∧ ¬ (h.st ≠ 1 ∧ h.owner ∈ x.acks))
            ∧ (x.data = true → x.acks = [] → t.agenda.contains (.cmp die line) = true)
            ∧ (x.data = false → ¬ (h.st ≠ 1 ∧ h.owner ∈ x.acks) → t.agenda.contains (.data die line) = true))))

/-- 04 R96; 16 R384 to R390, Table 16-5: forwards and invalidations take or share the copy of a die and are acknowledged,
data and acknowledgements reach the transaction, and its completion ends it; the home then takes up the request that has
waited longest. A new copy takes a way that its fill allows. -/
def Sys2Proof.Claims.TransactionsComplete : Prop :=
  ∀ (s : State) (die line req : Nat) (getm : Bool) (f : Fill) (x : Txn), aget s.txns line = some x → x.cur = .get req getm f →
    (getm = false → x.acks.contains die = true → dieBlocked s die line = false →
      ∀ e, aget s.l2 (l2Key line die) = some e →
        ∃ t, exec (.fwds die line) s = .next t ∧ t.agenda.contains (.ack die line) = true
          ∧ (isDirty (some e.st) = true → aget t.l2 (l2Key line die) = some { e with st := .o }
            ∧ t.agenda.contains (.datad req line) = true)
          ∧ (isDirty (some e.st) = false → aget t.l2 (l2Key line die) = some { e with st := .s }
            ∧ t.agenda.contains (.data req line) = true))
    ∧ (getm = true → x.acks.contains die = true → invBlocked s die line = false →
      (∃ t, exec (.fwdm die line) s = .next t ∧ aget t.l2 (l2Key line die) = none
        ∧ t.agenda.contains (.ack die line) = true ∧ DieRollsBack s t die line
        ∧ t.agenda.contains (if isDirty (l2State s line die) then .datad req line else .data req line) = true)
      ∧ ∃ t, exec (.inv die line) s = .next t ∧ aget t.l2 (l2Key line die) = none
        ∧ t.agenda.contains (.ack die line) = true ∧ DieRollsBack s t die line)
    ∧ (∀ (dirty : Bool) (h : SfEntry), req = die → x.data = false → aget s.sf line = some h →
      fillWaits s die f line = false →
      ∃ t e, exec (if dirty then .datad die line else .data die line) s = .next t
        ∧ aget t.txns line = some { x with data := true } ∧ aget t.l2 (l2Key line die) = some e ∧ e.agents = 0
        ∧ e.st = (if getm then (if dirty then .m else .e) else if h.st = 2 ∧ h.owner = die then .e else .s)
        ∧ (∀ old, aget s.l2 (l2Key line die) = some old → e.set = old.set ∧ e.way = old.way ∧ e.rank = old.rank)
        ∧ (aget s.l2 (l2Key line die) = none → e.set = l2Set s die line ∧ e.rank = f.rank
          ∧ (freeWays s die f line ≠ [] → e.way ∈ freeWays s die f line))
        ∧ (x.acks = [] → t.agenda.contains (.cmp die line) = true))
    ∧ (x.acks.contains die = true →
      ∃ t, exec (.ack die line) s = .next t ∧ aget t.txns line = some { x with acks := x.acks.filter (· ≠ die) }
        ∧ (getm = true → t.sf = s.sf)
        ∧ (∀ h, getm = false → aget s.sf line = some h → aget t.sf line = some { h with
            sharers := h.sharers ||| dieBit req, st := if isDirty (l2State s line die) then 3 else 1 })
        ∧ (x.data = true → (∀ d ∈ x.acks, d = die) → t.agenda.contains (.cmp req line) = true))
    ∧ (req = die → x.acks = [] → x.data = true → x.queue = [] →
      ∃ t, exec (.cmp die line) s = .next t ∧ aget t.txns line = none ∧ t.hostOwn.contains line = false
        ∧ (getm = false → t.sf = s.sf ∧ t.l2 = s.l2)
        ∧ (getm = true → ∀ h e, aget s.sf line = some h → aget s.l2 (l2Key line die) = some e →
          aget t.sf line = some { h with st := 2, owner := die, sharers := dieBit die }
          ∧ aget t.l2 (l2Key line die) = some { e with st := if isDirty (some e.st) then .m else .e }))
    ∧ (∀ d g f' rest, req = die → x.acks = [] → x.data = true → getm = false → x.queue = .get d g f' :: rest →
      needsNothing s d line g = false → sfVictim s line = none →
      ∃ t y, exec (.cmp die line) s = .next t ∧ aget t.txns line = some y ∧ y.cur = .get d g f' ∧ y.queue = rest)

/-- The answer to a snoop (16 R391): its line and kind, and the bytes of a die that alone holds the line modified. -/
def Sys2Proof.Claims.SnoopAnswered (s t : State) (line : Nat) (own : Bool) : Prop :=
  ∃ r, t.snoopRsps = s.snoopRsps ++ [r] ∧ r.line = line ∧ r.own = own
    ∧ ((∀ d, d < 8 → isDirty (l2State s line d) = false) → r.data = none)
    ∧ ∀ d, d < 8 → (∀ d', d' < 8 → (isDirty (l2State s line d') = true ↔ d' = d)) →
      r.data = some ((List.range 128).map (fun k => readByte (dieSees s d) (128 * line + k)))

/-- 16 R386 to R392, R399: a die evicts a line, dirty or clean; a line is called back by its home, whereupon a request that
waited for the room is served; a host's snoop takes the line, or leaves the owner its copy, and is answered; what comes while
the home is busy waits in order of arrival. -/
def Sys2Proof.Claims.HomesCallBack : Prop :=
  ∀ (s : State) (die line : Nat),
    (∀ (e : L2Line) (ev : Instr), aget s.l2 (l2Key line die) = some e →
      ev = (if isDirty (some e.st) then .wbd die line else .evc die line) →
      (aget s.txns line = none → dieBlocked s die line = false →
        ∃ t, exec ev s = .next t ∧ aget t.l2 (l2Key line die) = none ∧ DieRollsBack s t die line
          ∧ (isDirty (some e.st) = false → t.mem = s.mem ∧ t.dirty = s.dirty)
          ∧ (isDirty (some e.st) = true → PlainLine s line →
            ∀ pa, readByte t pa = readByte s pa ∧ (lineOf pa = line → aget t.dirty pa = none))
          ∧ ∀ h, aget s.sf line = some h →
            (h.sharers &&& ~~~dieBit die = 0 → aget t.sf line = none)
            ∧ (h.sharers &&& ~~~dieBit die ≠ 0 → ∃ h', aget t.sf line = some h' ∧ h'.sharers = h.sharers &&& ~~~dieBit die))
      ∧ (aget s.txns line = none → dieBlocked s die line = true →
        ∃ t x, exec ev s = .next t ∧ aget t.txns line = some x ∧ x.cur = .evict die (isDirty (some e.st))
          ∧ t.agenda.contains (.ack (homeOf line) line) = true ∧ t = { s with agenda := t.agenda, txns := t.txns })
      ∧ (∀ x q, q = .evict die (isDirty (some e.st)) → aget s.txns line = some x → x.cur ≠ q → x.queue.contains q = false →
        exec ev s = .next { s with txns := aput s.txns line { x with queue := x.queue ++ [q] } }))
    ∧ (aget s.sf line = none → (∀ p ∈ s.txns, p.2.room = false) → exec (.binv line) s = .next s)
    ∧ ((aget s.sf line).isSome = true → binvBlocked s line = false → PlainLine s line →
      ((∀ p ∈ s.txns, p.2.room = false) → ∃ t, exec (.binv line) s = .next t ∧ LineDropped s t line)
      ∧ (∀ l x d g f, s.txns = [(l, x)] → x.room = true → x.cur = .get d g f → x.queue = [] → l % 65536 = line % 65536 →
        homeOf l = homeOf line → needsNothing s d l g = false → sfVictim s l = some line →
        sfVictim (dropLine s line) l = none →
        ∃ t y, exec (.binv line) s = .next t ∧ aget t.sf line = none ∧ aget t.txns l = some y ∧ y.cur = x.cur
          ∧ y.room = false))
    ∧ (sfHost line = true → aget s.txns line = none →
      ((aget s.sf line).isSome = true → snoopBlocked s line true = false → PlainLine s line →
        ∃ t, exec (.hsnp line true) s = .next t ∧ LineDropped s t line ∧ SnoopAnswered s t line true
          ∧ t.hostOwn.contains line = true)
      ∧ (∀ h e, aget s.sf line = some h → h.st = 2 → aget s.l2 (l2Key line h.owner) = some e →
        snoopBlocked s line false = false →
        ∃ t, exec (.hsnp line false) s = .next t ∧ SnoopAnswered s t line false
          ∧ aget t.l2 (l2Key line h.owner) = some { e with st := if isDirty (some e.st) then .o else .s }
          ∧ aget t.sf line = some { h with st := if isDirty (some e.st) then 3 else 1 }
          ∧ t = { s with l2 := t.l2, sf := t.sf, snoopRsps := t.snoopRsps })
      ∧ ∀ own, snoopBlocked s line own = true →
        ∃ t x, exec (.hsnp line own) s = .next t ∧ aget t.txns line = some x ∧ x.cur = .snoop own
          ∧ t.snoopRsps = s.snoopRsps ∧ t.agenda.contains (.ack (homeOf line) line) = true
          ∧ (own = true → ∀ k ∈ holders s none [line], t.agenda.contains (.lineHoldExpiry k) = true))
    ∧ (∀ x own d, aget s.txns line = some x → x.cur = .snoop own → x.queue = [] → snoopBlocked s line own = false →
      ∃ t, exec (.ack d line) s = .next t ∧ SnoopAnswered s t line own ∧ aget t.txns line = none)
    ∧ (∀ x own, sfHost line = true → aget s.txns line = some x →
      exec (.hsnp line own) s = .next { s with txns := aput s.txns line { x with queue := x.queue ++ [.snoop own] } })

/-- 16 R386, R389, R390, R397 to R400: inside a die an L1 is filled, writes through and is invalidated, an engine takes a
line and is recalled, which rolls back the regions that hold the line. -/
def Sys2Proof.Claims.LinesMoveInADie : Prop :=
  ∀ (s : State) (die line : Nat),
    (∀ core e, core < 288 → die = dieOfCore core → aget s.l2 (l2Key line die) = some e → dieBlocked s die line = false →
      L1Room s core [line] →
      ∃ t, exec (.fill core line) s = .next t ∧ t = { s with l2 := t.l2 }
        ∧ aget t.l2 (l2Key line die) = some { e with agents := e.agents ||| agentBit (agentL1 core) })
    ∧ (∀ core key c cells marks f, s.ctxs.find? (fun p => storeCore p.1 p.2 = core && writesNext s p.2 line) = some (key, c) →
      aget s.ctxs key = some c → c.drain = [.store (.mem cells marks)] → f = markFill s (viOfCtx s key) marks →
      writeWaits s key core [] f (cellLines cells) = false → RoomFor s (dieOfCore core) f (cellLines cells) →
      ∃ t, exec (.wrt core line) s = .next t
        ∧ aget t.ctxs key = some { c with drain := [], nSt := c.nSt - 1, handed := none }
        ∧ ∀ pa, exactByte t pa = lastByte cells pa (exactByte s pa))
    ∧ (∀ core, die = dieOfCore core → ∃ t, exec (.l1inv core line) s = .next t
      ∧ (∀ pa, readByte t pa = readByte s pa)
      ∧ (∀ e, aget s.l2 (l2Key line die) = some e →
        aget t.l2 (l2Key line die) = some { e with agents := e.agents &&& ~~~agentBit (agentL1 core) })
      ∧ ∀ k c r, aget s.ctxs k = some c → coreOf k = core → c.region = some r → r.nonspec = false →
        r.reads.contains line = true →
        ∃ c', aget t.ctxs k = some c' ∧ c'.r = r.entry ∧ c'.region = none ∧ c'.same = c.same + 1)
    ∧ (∀ (agent : Nat) (g : Eng) (f : Nat → Fill), isPlace die line = true → 36 ≤ agent → agent ≤ 43 →
      g = { core := 36 * die, vi := 0, agent := agent, mine := [] } → f = (fun _ => openFill s) →
      engBlocked s g f [line] true = false → RoomFor s die f [line] →
      ∃ t h e, exec (.own die agent line) s = .next t ∧ aget t.l2 (l2Key line die) = some e ∧ e.st = .m
        ∧ e.agents = agentBit agent ∧ (∀ d, d < 8 → d ≠ die → aget t.l2 (l2Key line d) = none)
        ∧ aget t.sf line = some h ∧ h.st = 2 ∧ h.owner = die ∧ h.sharers = dieBit die
        ∧ HoldersRollBack s t line ∧ SameBytes s t)
    ∧ (∀ agent, agentHas s die agent line = true →
      ∃ t, exec (.rcl die agent line) s = .next t ∧ t.engOwn = s.engOwn ∧ DieRollsBack s t die line
        ∧ t.agenda.contains (if s.engOwn.contains (die, agent, line) then .rcl die agent line else .rclack die agent line)
          = true ∧ ∀ pa, readByte t pa = readByte s pa)
    ∧ (∀ agent, agentHas s die agent line = false →
      exec (.rcl die agent line) s = .next { s with agenda := s.agenda ++ [.rclack die agent line] })
    ∧ (∀ agent, s.engOwn.contains (die, agent, line) = true → exec (.rclack die agent line) s = .next s)
    ∧ (∀ agent e, s.engOwn.contains (die, agent, line) = false → aget s.l2 (l2Key line die) = some e →
      ∃ t, exec (.rclack die agent line) s = .next t ∧ t = { s with l2 := t.l2 }
        ∧ aget t.l2 (l2Key line die) = some { e with agents := e.agents &&& ~~~agentBit agent })

/-- 04 R96; 16 R384 to R393, R397 to R400: what the coherence messages do.
Where the spec is silent the model's choice stands: log entries 62, 63 and 71. -/
def Obligations.coherence_messages : Prop :=
  Sys2Proof.Claims.RequestsAreServed ∧ Sys2Proof.Claims.TransactionsComplete ∧ Sys2Proof.Claims.HomesCallBack
  ∧ Sys2Proof.Claims.LinesMoveInADie

/-! ## Events: the fabric and the links -/

/-- A failed fabric operation has nothing left to do, and its context is due to halt with ENGINE_FAULT: KIND 15, the address
that failed (10 R301; 20 R456). -/
def Sys2Proof.Claims.FabricFails (s : State) (ev : Instr) (n : Nat) (o : FabOp) (key : Nat) (c : Ctx) (sub : Nat)
    (addr : Word64) : Prop :=
  ∃ t c', exec ev s = .next t ∧ aget t.fabs n = some { o with failed := true, left := [], owned := [] }
    ∧ t.agenda.contains (.contextHalt key) = true
    ∧ aget t.ctxs key = some c' ∧ c'.region = none ∧ c'.fault = some { plainTrap 0x15 o.pc with
        sub := sub, kind := 15, addr := addr,
        pc := (match c.region with | some r => r.entry.pc | none => c.r.pc) }

/-- 16 R389, R399; 20 R452, R453, R455, R456: the local side of an operation is read, or written once its answer is there; a
signal is sent once the operations before it allow it; an answer that arrives ends the operation, or begins the local side of
an `fget`; a refusal and a missing answer fail it, and what has failed acts no more. -/
def Sys2Proof.Claims.OperationsEnd : Prop :=
  ∀ (s : State) (n : Nat) (o : FabOp), aget s.fabs n = some o →
    (∀ u, o.op = 0 → o.scratch = true → aget s.jobs n = none → o.left.contains u = true → o.left.filter (· ≠ u) ≠ [] →
      scratchLock s o.owners o.tag (o.so + 16 * u) 16 = false →
      ∃ t, exec (.copyUnitTransfer n u) s = .next t ∧ t = { s with fabs := t.fabs, agenda := t.agenda }
        ∧ aget t.fabs n = some { o with
          data := aput o.data u (cohortBytes s o.tag (o.so + 16 * u) 16), left := o.left.filter (· ≠ u) })
    ∧ (∀ u g va f bytes places lines, o.op = 1 → o.scratch = false → aget s.jobs n = none → o.left.contains u = true →
      g = fabEng o → va = o.addr + BitVec.ofNat 64 (16 * u) → aget o.data u = some bytes → f = engFill s g va bytes.length →
      engPlaces s g .copyOut va bytes.length = .ok places → lines = placeLines places → engBlocked s g f lines true = false →
      RoomFor s (engDie g) f lines → (∀ off w, o.cw = some (off, w) → scratchLock s o.owners o.tag off 4 = false) →
      ∃ t, exec (.copyUnitTransfer n u) s = .next t
        ∧ ∀ pa, exactByte t pa = lastByte ((places.map (·.1)).zip bytes) pa (exactByte s pa))
    ∧ (2 ≤ o.op → o.sent = false → o.failed = false → fsigWaits s n o = true →
      exec (.fsigWrite n) s = .next { s with agenda := s.agenda ++ [.fsigWrite n] })
    ∧ (2 ≤ o.op → o.sent = false → o.failed = false → fsigWaits s n o = false →
      ∃ t, exec (.fsigWrite n) s = .next t ∧ aget t.fabs n = some { o with sent := true }
        ∧ (nodeOf o.node = ownNode s → t.agenda.contains (.fabricOperationAtTarget
            { port := none, srcNode := ownNode s, srcVi := o.vi, dstVi := nodeVi o.node, op := o.op, tag := n,
              addr := o.remote, len := o.len, payload := natLe 8 o.value.toNat, done := [], owned := [] }) = true)
        ∧ (nodeOf o.node ≠ ownNode s → t.fabOut = s.fabOut ++ [{
            node := nodeOf o.node, vi := nodeVi o.node, kind := o.op, tag := n, addr := o.remote, len := o.len,
            payload := natLe 8 o.value.toNat }]))
    ∧ (o.failed = true → exec (.fsigWrite n) s = .next s ∧ (∀ payload, exec (.fabricAcknowledgement n payload) s = .next s)
      ∧ (∀ w, exec (.fabricRefusal n w) s = .next s) ∧ ∀ port, exec (.fabricTimeout n port) s = .next s)
    ∧ (∀ payload, o.sent = true → o.failed = false → o.op ≠ 1 →
      (∀ off w, o.cw = some (off, w) → scratchLock s o.owners o.tag off 4 = false) →
      ∃ t, exec (.fabricAcknowledgement n payload) s = .next t ∧ aget t.fabs n = none
        ∧ (∀ off w, o.cw = some (off, w) → Delivered s t o.tag off (natLe 4 w.toNat))
        ∧ (∀ k, k < 16 → o.bar = some k → (aget s.cohorts o.tag).isSome = true →
          barOf t o.tag k = barCount (barOf s o.tag k) o.len)
        ∧ ∀ pa, readByte t pa = readByte s pa)
    ∧ (∀ payload, o.sent = true → o.failed = false → o.op = 1 → o.data = [] → payload.length = o.len → o.left ≠ [] →
      ∃ t u, exec (.fabricAcknowledgement n payload) s = .next t ∧ u ∈ o.left
        ∧ aget t.fabs n = some { o with data := unitsOf o.len payload }
        ∧ t = { s with fabs := t.fabs, agenda := s.agenda ++ [.copyUnitTransfer n u] })
    ∧ (∀ key c, o.sent = true → o.failed = false → o.owners = [key] → aget s.ctxs key = some c → c.status = .running →
      c.fault = none →
      (∀ sub addr, sub = 7 ∨ sub = 8 ∨ sub = 10 → FabricFails s (.fabricRefusal n (refusalWord sub addr)) n o key c sub addr)
      ∧ (∀ port, FabricFails s (.fabricTimeout n port) n o key c 9 o.remote
        ∧ ∃ t, exec (.fabricTimeout n port) s = .next t
          ∧ agetD (portOf t port).counters 0 4 = min (agetD (portOf s port).counters 0 4 + 1) (2 ^ 64 - 1)))

/-- 16 R389; 20 R446, R448, R450, R452, R453, R456, R457: an operation waits while its port carries no traffic; one that no
enabled VI here takes is refused and counted; a unit of a write or a read, or the write or add of a signal, is performed when
its lines allow it; one that may not be made is refused with its subcause and address; one that has nothing left is answered.
-/
def Sys2Proof.Claims.OperationsAreServed : Prop :=
  ∀ (s : State) (p : FabricIn) (g : Eng), g = inbEng p.dstVi →
    (portCarries s p.port = false → exec (.fabricOperationAtTarget p) s = .next
      { s with agenda := s.agenda ++ [.fabricOperationAtTarget p] })
    ∧ (portCarries s p.port = true → takesFrom s p.dstVi p.srcNode p.srcVi = false → p.owned = [] →
      Replied s (.fabricOperationAtTarget p) p.port (.fabricRefusal p.tag (refusalWord 7 p.addr))
        { node := p.srcNode, vi := p.srcVi, kind := 7, tag := p.tag, addr := p.addr, len := 7, payload := [] }
      ∧ ∀ port, p.port = some port → ∃ t, exec (.fabricOperationAtTarget p) s = .next t
        ∧ agetD (portOf t port).counters 0 3 = min (agetD (portOf s port).counters 0 3 + 1) (2 ^ 64 - 1))
    ∧ (portCarries s p.port = true → takesFrom s p.dstVi p.srcNode p.srcVi = true →
      (p.op < 2 → unitsLeft p = [] → ∀ bytes, bytes = (if p.op = 1 then readAnswer p else []) →
        Replied s (.fabricOperationAtTarget p) p.port (.fabricAcknowledgement p.tag bytes)
          { node := p.srcNode, vi := p.srcVi, kind := 6, tag := p.tag, addr := p.addr, len := bytes.length,
            payload := bytes })
      ∧ (∀ u va, p.op < 2 → unitsLeft p = [u] → va = p.addr + BitVec.ofNat 64 (16 * u) →
        (∀ f places lines bytes, p.op = 0 → bytes = (p.payload.drop (16 * u)).take 16 → f = engFill s g va bytes.length →
          engPlaces s g .copyOut va bytes.length = .ok places → lines = placeLines places →
          engBlocked s g f lines true = false → RoomFor s (engDie g) f lines →
          ∃ t, exec (.fabricOperationAtTarget p) s = .next t
            ∧ t.agenda.contains (.fabricOperationAtTarget { p with done := p.done ++ [(u, [])], owned := [] }) = true
            ∧ ∀ pa, exactByte t pa = lastByte ((places.map (·.1)).zip bytes) pa (exactByte s pa))
        ∧ (∀ f bytes lines, p.op = 1 → f = engFill s g va 16 → engRead s g .remoteRead va 16 = .ok (bytes, lines) →
          engBlocked s g f lines false = false → RoomFor s (engDie g) f lines →
          ∃ t, exec (.fabricOperationAtTarget p) s = .next t
            ∧ t.agenda.contains (.fabricOperationAtTarget { p with done := p.done ++ [(u, bytes)], owned := [] }) = true
            ∧ ∀ pa, readByte t pa = readByte s pa)
        ∧ (∀ sub addr, p.op = 1 → p.owned = [] → engRead s g .remoteRead va 16 = .error (sub, addr) →
          Replied s (.fabricOperationAtTarget p) p.port (.fabricRefusal p.tag (refusalWord (if sub = 3 then 10 else 8) addr))
            { node := p.srcNode, vi := p.srcVi, kind := 7, tag := p.tag, addr := addr,
              len := if sub = 3 then 10 else 8, payload := [] }))
      ∧ (∀ f places lines, p.op = 2 → p.payload.length = 8 → f = engFill s g p.addr 8 →
        engPlaces s g .copyOut p.addr 8 = .ok places → lines = placeLines places → engBlocked s g f lines true = false →
        RoomFor s (engDie g) f lines →
        ∃ t, exec (.fabricOperationAtTarget p) s = .next t
          ∧ (p.port = none → t.agenda.contains (.fabricAcknowledgement p.tag []) = true)
          ∧ ∀ pa, (p.port = none ∨ ¬ InWindow s pa) →
            exactByte t pa = lastByte ((places.map (·.1)).zip p.payload) pa (exactByte s pa))
      ∧ (∀ f s1 old rlines places lines, p.op = 3 → p.payload.length = 8 → f = engFill s g p.addr 8 →
        engRead s g .atomic p.addr 8 = .ok (old, rlines) → engBlocked s g f rlines false = false →
        RoomFor s (engDie g) f rlines → s1 = engTake s g f rlines → engPlaces s1 g .copyOut p.addr 8 = .ok places →
        lines = placeLines places → engBlocked s1 g (engFill s1 g p.addr 8) lines true = false →
        RoomFor s1 (engDie g) (engFill s1 g p.addr 8) lines →
        ∃ t, exec (.fabricOperationAtTarget p) s = .next t
          ∧ (p.port = none → t.agenda.contains (.fabricAcknowledgement p.tag []) = true)
          ∧ ∀ pa, (p.port = none ∨ ¬ InWindow s pa) →
            exactByte t pa = lastByte ((places.map (·.1)).zip (natLe 8 (leNat old + leNat p.payload))) pa (exactByte s pa)))

/-- A port that is up and has a key when a frame arrives at it: `k` frames have left its receive buffer by then, and lanes
that have room again are no longer paused (20 R447). -/
def Sys2Proof.Claims.HasTaken (p q : Port) (k : Nat) : Prop :=
  k ≤ p.rxBuf.length ∧ q = { p with delivered := p.delivered ++ p.rxBuf.take k, rxBuf := p.rxBuf.drop k, paused := q.paused }
  ∧ ∀ lane, q.paused.contains lane = true ↔
    p.paused.contains lane = true ∧ Config.rxRoom + 1 ≤ ((p.rxBuf.drop k).filter (fun f => f.lane = lane)).length

/-- 20 R447 to R450: a port that is up and has a key takes each lane's frames in turn into its receive buffer and
acknowledges them; a lane whose buffer is full is paused and takes none; what fails authentication is dropped, and the
sixteenth in a row takes the port down; a port keeps a frame until it is acknowledged and sends it again until then,
counting the lane's errors; the next key takes the place of the current one, and frames that waited for a port leave. 20
R469: a line whose CXL request is not completed is poisoned. -/
def Sys2Proof.Claims.PortsCarryFrames : Prop :=
  ∀ (s : State) (port : Nat) (p : Port), p = portOf s port →
    (∀ f : LinkFrame, port < 48 → f.lane < 8 → carries p = true →
      ∃ k q t r, HasTaken p q k ∧ exec (.frameReceive port f) s = .next t ∧ r = portOf t port
        ∧ (f.authOk = true → t = { s with ports := t.ports } ∧ (∀ n, n ≠ port → portOf t n = portOf s n)
          ∧ (f.seq = agetD p.rxSeq 0 f.lane → laneFull q f.lane = true →
            r = { q with authRun := 0, paused := addNew q.paused [f.lane] })
          ∧ (f.seq = agetD p.rxSeq 0 f.lane → laneFull q f.lane = false → r = { q with
              authRun := 0, rxBuf := q.rxBuf ++ [f], rxSeq := aput p.rxSeq f.lane (f.seq + 1),
              acks := p.acks ++ [(f.lane, f.seq)],
              paused := if laneHeld q f.lane = Config.rxRoom then addNew q.paused [f.lane] else q.paused })
          ∧ (f.seq < agetD p.rxSeq 0 f.lane → r = { q with authRun := 0, acks := p.acks ++ [(f.lane, f.seq)] })
          ∧ (agetD p.rxSeq 0 f.lane < f.seq → r = { q with authRun := 0 }))
        ∧ (f.authOk = false → r.rxBuf = q.rxBuf ∧ r.rxSeq = p.rxSeq ∧ r.acks = p.acks
          ∧ agetD r.counters 0 1 = min (agetD p.counters 0 1 + 1) (2 ^ 64 - 1)
          ∧ (p.authRun + 1 < 16 → r.up = true ∧ r.authRun = p.authRun + 1 ∧ t = { s with ports := t.ports })
          ∧ (16 ≤ p.authRun + 1 → r.up = false
            ∧ agetD r.counters 0 5 = min (agetD p.counters 0 5 + 1) (2 ^ 64 - 1) ∧ t.amberSeq = s.amberSeq + 1)))
    ∧ (∀ lane seq, carries p = true → ∃ t, exec (.frameAcknowledgement port lane seq) s = .next t
      ∧ t = { s with ports := t.ports } ∧ (∀ q, q ≠ port → portOf t q = portOf s q)
      ∧ portOf t port = { p with
          replay := p.replay.filter (fun f => !(f.lane = lane && f.seq = seq)),
          window := p.window.filter (fun w => !(w.1 = lane && w.2.1 = seq)) })
    ∧ (∀ lane err, carries p = true → unacked p lane = true →
      ∃ t q, exec (.frameReplay port lane err) s = .next t ∧ q = portOf t port ∧ q.replay = p.replay ∧ q.window = p.window
        ∧ agetD q.counters 0 0 = min (agetD p.counters 0 0 + 1) (2 ^ 64 - 1)
        ∧ (err = none → q.laneFaults = p.laneFaults ∧ q.up = true)
        ∧ ∀ l, err = some l → l < 4 → agetD q.laneFaults 0 l = agetD p.laneFaults 0 l + 1
          ∧ (agetD p.laneFaults 0 l = 1023 → q.lanesLost = p.lanesLost + 1 ∧ (q.up = true ↔ p.lanesLost = 0))
          ∧ (agetD p.laneFaults 0 l ≠ 1023 → q.lanesLost = p.lanesLost ∧ q.up = true))
    ∧ (p.keyNext ≠ [] → ∃ t, exec (.keyChangeover port) s = .next t
      ∧ (portOf t port).keyCur = p.keyNext ∧ (portOf t port).keyNext = []
      ∧ (s.unsent = [] → t = { s with ports := t.ports } ∧ portOf t port = { p with keyCur := p.keyNext, keyNext := [] }
        ∧ ∀ q, q ≠ port → portOf t q = portOf s q)
      ∧ (p.up = true → t.unsent = []))
    ∧ (port < 48 → p.lanesLost < 2 → ∃ t, exec (.portUp port) s = .next t ∧ (portOf t port).up = true
      ∧ (s.unsent = [] → t = { s with ports := t.ports } ∧ portOf t port = { p with up := true }
        ∧ ∀ q, q ≠ port → portOf t q = portOf s q)
      ∧ (p.keyCur ≠ [] → t.unsent = []))
    ∧ (2 ≤ p.lanesLost → exec (.portUp port) s = .next s)
    ∧ (∀ line, inCxl (128 * line) = true → ∃ t ev, exec (.cxlRequestTimeout line) s = .next t ∧ isPoisoned t line = true
      ∧ t = { s with poison := t.poison, amber := t.amber, amberSeq := t.amberSeq } ∧ t.amber = (ev :: s.amber).take 4096
      ∧ ev.code = 0x05 ∧ ev.arg0 = BitVec.ofNat 64 (128 * line))

/-- 20 R446 to R457, R469: fabric operations are served and end; ports carry frames.
Where the spec is silent the model's choice stands: log entries 50, 57, 59, 65, 67 and 83. -/
def Obligations.fabric_and_links : Prop :=
  Sys2Proof.Claims.OperationsEnd ∧ Sys2Proof.Claims.OperationsAreServed ∧ Sys2Proof.Claims.PortsCarryFrames

/-! ## Events: errors, keys, reset and power -/

/-- An event of the given code and arguments is among the newest. -/
def Sys2Proof.Claims.Logged (t : State) (code : Nat) (arg0 : Nat) : Prop :=
  ∃ ev ∈ t.amber, ev.code = code ∧ ev.arg0 = BitVec.ofNat 64 arg0

/-- 11 R339; 16 R393, R394; 18 R425, R429, R430: errors are counted, leak away and become lasting at their threshold; what
has lost its data is poisoned; a retirement ends on its spare; gated slices hold no line. -/
def Sys2Proof.Claims.ErrorsAreCounted : Prop :=
  ∀ (s : State) (r : Resource),
    (∀ n, faultLimit r.cls = some n → ∃ t, exec (.correctableError r) s = .next t
      ∧ faultCount t r = faultCount s r + 1 ∧ (∀ q, q ≠ r → faultCount t q = faultCount s q)
      ∧ (faultCount s r + 1 ≠ n → t = { s with faultCnt := t.faultCnt })
      ∧ (faultCount s r + 1 = n → Logged t 0x01 (two32 r.cls r.idx)
        ∧ (s.retiring.contains r = false → agetD s.spares 0 (spareKey r) < (sparePool r).2 →
          t.retiring.contains r = true ∧ t.agenda.contains (.spareRetirementComplete r) = true)
        ∧ (s.retiring.contains r = false → (sparePool r).2 ≤ agetD s.spares 0 (spareKey r) →
          t.retiring = s.retiring ∧ Logged t 0x03 (two32 r.cls r.idx))))
    ∧ (∀ site n, faultLimit r.cls = some n → ∃ t, exec (.uncorrectableError r site) s = .next t
      ∧ faultCount t r = faultCount s r + 4 ∧ Logged t 0x04 (two32 r.cls r.idx)
      ∧ (∀ pa, site = .line pa → (r.cls = 0 ∧ dirtyIn s (lineOf pa) = false
          ∨ r.cls = 3 ∧ isDirty (l2State s (lineOf pa) (r.idx / 16)) = true) →
        isPoisoned t (lineOf pa) = true ∧ Logged t 0x05 (128 * lineOf pa))
      ∧ (∀ pa, site = .line pa → (r.cls = 0 ∧ dirtyIn s (lineOf pa) = true
          ∨ r.cls = 3 ∧ isDirty (l2State s (lineOf pa) (r.idx / 16)) = false) → t.poison = s.poison)
      ∧ (∀ fk key h f, site = .regHalf fk key h → aget s.frames fk = some f → ∃ f', aget t.frames fk = some f'
        ∧ f' = { f with vpoison := f'.vpoison }
        ∧ ∀ k, agetD f'.vpoison 0 k = if k = key then agetD f.vpoison 0 k ||| (if h then 2 else 1) else agetD f.vpoison 0 k)
      ∧ (∀ ctx reg h c, site = .uniHalf ctx reg h → aget s.ctxs ctx = some c → ∃ c', aget t.ctxs ctx = some c'
        ∧ c' = { c with r := { c.r with gpoison := c'.r.gpoison } }
        ∧ agetD c'.r.gpoison 0 reg = agetD c.r.gpoison 0 reg ||| (if h then 2 else 1))
      ∧ (∀ tag row col co, site = .accColumn tag row col → aget s.cohorts tag = some co → ∃ co', aget t.cohorts tag = some co'
        ∧ co' = { co with accPoison := co'.accPoison } ∧ aget co'.accPoison (row * 64 + col) = some true))
    ∧ (r.cls ≠ 10 → ∃ t, exec (.faultLeakPeriod r) s = .next t ∧ t = { s with faultCnt := t.faultCnt }
      ∧ faultCount t r = faultCount s r - 1 ∧ ∀ q, q ≠ r → faultCount t q = faultCount s q)
    ∧ (r.cls = 10 → ∃ t, exec (.faultLeakPeriod r) s = .next t ∧ t = { s with ports := t.ports }
      ∧ agetD (portOf t (r.idx / 4)).laneFaults 0 (r.idx % 4) = agetD (portOf s (r.idx / 4)).laneFaults 0 (r.idx % 4) - 1)
    ∧ (s.retiring.contains r = true → ∃ t, exec (.spareRetirementComplete r) s = .next t ∧ t.retired = s.retired ++ [r]
      ∧ t.retiring.contains r = false ∧ Records s t 0x02 (two32 r.cls r.idx)
        (s.retired.filter (fun q => spareKey q = spareKey r)).length)
    ∧ (∀ agent line holds_, agent < 52 →
      holds_ = (if agent < 44 then (List.range 8).any (fun d => isDirty (l2State s line d) && agentHas s d agent line)
        else isDirty (l2State s line (agent - 44))) →
      (holds_ = true → ∃ t, exec (.agentFailure agent line) s = .next t
        ∧ isPoisoned t line = true ∧ aget t.sf line = none ∧ Records s t 0x05 (128 * line) agent)
      ∧ (holds_ = false → exec (.agentFailure agent line) s = .next s))
    ∧ (∀ agent line, 52 ≤ agent →
      (s.hostOwn.contains line = true ∨ sfHost line = false ∧ aget s.sf line = none →
        ∃ t, exec (.agentFailure agent line) s = .next t ∧ isPoisoned t line = true ∧ t.hostOwn.contains line = false
          ∧ Records s t 0x05 (128 * line) agent)
      ∧ (s.hostOwn.contains line = false → sfHost line = true ∨ aget s.sf line ≠ none →
        exec (.agentFailure agent line) s = .next s))
    ∧ (∀ die mask, aget s.l2gPend die = some mask → gateAsked s die mask = true →
      ∃ t, exec (.l2GatingTransitionComplete die) s = .next t ∧ t.l2gmask = s.l2gmask
        ∧ t.agenda.contains (.l2GatingTransitionComplete die) = true)
    ∧ (∀ die mask, die < 8 → aget s.l2gPend die = some mask → gateAsked s die mask = false →
      (∀ l ∈ gatedLines s die mask, inService s l = false ∧ dieBlocked s die l = false) →
      ∃ t, exec (.l2GatingTransitionComplete die) s = .next t ∧ agetD t.l2gmask 0 die = mask ∧ aget t.l2gPend die = none
        ∧ ∀ line, (agetD s.l2gmask 0 die ^^^ mask).getLsbD (line % 16) = true → aget t.l2 (l2Key line die) = none)

/-- 16 R393; 20 R448; 23 R486, R487: management selects and commits keys, writes nonces and asks for reports, gates slices;
what is not allowed is refused. Lines under a key that is replaced become unreadable. -/
def Sys2Proof.Claims.KeysAndReports : Prop :=
  ∀ (s : State) (m : HostMsg) (w : Word), w = msgData m →
    (FromManagement m 8 0x050 → ∃ t, exec (.keyselWrite m) s = .next t ∧ Answered s t m false 0
      ∧ t.mgmt = { s.mgmt with keysel := w &&& 0x803F9FFF#32, keyWords := [] })
    ∧ (FromManagement m 8 0x054 → ∃ t, exec (.keydataWrite m) s = .next t ∧ Answered s t m false 0
      ∧ t.mgmt = { s.mgmt with keyWords := s.mgmt.keyWords ++ [w] })
    ∧ (∀ slot, FromManagement m 8 0x058 → w = 1 → s.mgmt.keysel.getLsbD 31 = false →
      slot = (s.mgmt.keysel.extractLsb' 0 13).toNat →
      (slot = 0 ∨ s.mgmt.keyWords.length ≠ 16 ∨ (∃ p ∈ s.vis, p.2.en = true ∧ descKey p.2.desc = slot) →
        ∃ t, exec (.keycmtWrite m) s = .next t ∧ Refused s t m)
      ∧ (slot ≠ 0 → s.mgmt.keyWords.length = 16 → (∀ p ∈ s.vis, ¬ (p.2.en = true ∧ descKey p.2.desc = slot)) →
        ∃ t, exec (.keycmtWrite m) s = .next t ∧ Answered s t m false 0 ∧ aget t.keys slot = some s.mgmt.keyWords
          ∧ (∀ k, k ≠ slot → aget t.keys k = aget s.keys k)
          ∧ ∀ old line, aget s.keys slot = some old → old ≠ s.mgmt.keyWords → aget s.lineKey line = some slot →
            (∀ k, k < 128 → ¬ InWindow s (128 * line + k)) → aget t.sealed line = some (slot, old)
              ∧ (dirtyOf s line ≠ [] → ∀ k, k < 128 → readByte t (128 * line + k) = readByte s (128 * line + k))))
    ∧ (∀ port, FromManagement m 8 0x058 → w = 1 → s.mgmt.keysel.getLsbD 31 = true →
      port = (s.mgmt.keysel.extractLsb' 16 6).toNat →
      (s.mgmt.keyWords.length ≠ 8 → ∃ t, exec (.keycmtWrite m) s = .next t ∧ Refused s t m)
      ∧ (s.mgmt.keyWords.length = 8 → ∃ t, exec (.keycmtWrite m) s = .next t ∧ Answered s t m false 0
        ∧ (s.mgmt.keysel.getLsbD 15 = true → (portOf t port).keyNext = s.mgmt.keyWords
          ∧ (portOf t port).keyCur = (portOf s port).keyCur)
        ∧ (s.mgmt.keysel.getLsbD 15 = false → (portOf t port).keyCur = s.mgmt.keyWords
          ∧ (portOf t port).keyNext = (portOf s port).keyNext)))
    ∧ (FromManagement m 8 0x0B0 →
      (s.attBusy = true → ∃ t, exec (.attnonceWrite m) s = .next t ∧ Refused s t m)
      ∧ (s.attBusy = false → ∃ t, exec (.attnonceWrite m) s = .next t ∧ Answered s t m false 0
        ∧ t.mgmt = { s.mgmt with nonce := t.mgmt.nonce, nonceIx := (s.mgmt.nonceIx + 1) % 12 }
        ∧ agetD t.mgmt.nonce 0 s.mgmt.nonceIx = w))
    ∧ (FromManagement m 8 0x0B4 →
      (s.attBusy = true → ∃ t, exec (.attgoWrite m) s = .next t ∧ Refused s t m)
      ∧ (s.attBusy = false → w = 1 → ∃ t, exec (.attgoWrite m) s = .next t ∧ Answered s t m false 0 ∧ t.attBusy = true
        ∧ t.agenda.contains .attestationReportComplete = true))
    ∧ (s.attBusy = true → ∃ t, exec .attestationReportComplete s = .next t ∧ t.attBusy = false
      ∧ t.mgmt.report.length = 128 ∧ t.mgmt.report[0]? = some 1 ∧ t.mgmt.report[1]? = some s.mgmt.nodeId
      ∧ (∀ i, i < 12 → t.mgmt.report[4 + i]? = some (agetD s.mgmt.nonce 0 i))
      ∧ ∀ i, i < 24 → t.mgmt.report[104 + i]? = some (Config.reportSig (104 + i) (t.mgmt.report.take 104)))
    ∧ (∀ mask, FromManagement m 8 0x0AC → mask = w.extractLsb' 0 16 →
      ((∃ i, i < 8 ∧ mask.getLsbD i = true ∧ mask.getLsbD (i + 8) = true) →
        ∃ t, exec (.l2gmaskWrite m) s = .next t ∧ Refused s t m)
      ∧ ((∀ i, i < 8 → ¬ (mask.getLsbD i = true ∧ mask.getLsbD (i + 8) = true)) →
        ∃ t die, exec (.l2gmaskWrite m) s = .next t ∧ Answered s t m false 0
          ∧ die = (s.mgmt.l2gsel.extractLsb' 0 3).toNat ∧ aget t.l2gPend die = some mask ∧ t.l2gmask = s.l2gmask
          ∧ t.agenda.contains (.l2GatingTransitionComplete die) = true))

/-- A reset has run: no work is left, the count of resets has gone up, its event is written, fault counts, retirements and
poison are as before, slot 0 has a key if the firmware is good; a byte of a line that is under no key but slot 0's and not
tolerant keeps its value (23 R485, R487, R488). -/
def Sys2Proof.Claims.HasReset (s t : State) (resets : Nat) : Prop :=
  t.ctxs = [] ∧ t.groups = [] ∧ t.frames = [] ∧ t.cohorts = [] ∧ t.launches = [] ∧ t.jobs = [] ∧ t.dirty = []
  ∧ t.resets = resets ∧ t.time = 0 ∧ t.bootOk = Config.firmwareGood resets ∧ t.powered = true
  ∧ (∀ v, (viOf t v).en = false) ∧ t.slotTab = State.reset.slotTab ∧ t.sched = State.reset.sched
  ∧ t.faultCnt = s.faultCnt ∧ t.retired = s.retired ∧ (∀ k, k ≠ 0 → aget t.keys k = none)
  ∧ (t.bootOk = true → (aget t.keys 0).isSome = true)
  ∧ (∀ n, (portOf t n).up = false ∧ (portOf t n).rxBuf = [] ∧ (portOf t n).laneFaults = (portOf s n).laneFaults
    ∧ (portOf t n).lanesLost = (portOf s n).lanesLost)
  ∧ (∃ ev ∈ t.amber, ev.code = 0x0C)
  ∧ (s.memoryWf = true → (∀ p ∈ s.bands, p.2.move = none) → (∀ p ∈ s.xfers, p.2.st ≠ 1 ∧ p.2.st ≠ 2) →
    t.poison = s.poison ∧ ∀ pa, ¬ InWindow s pa → aget s.sealed (lineOf pa) = none → aget s.tolFmt (lineOf pa) = none →
      (∀ p ∈ s.lineKey, p.1 = lineOf pa → p.2 = 0) → readByte t pa = readByte s pa)

/-- 23 R485, R488, R489: RESETCTL with its key value, power-on and 110 °C reset the module; another value is refused; the
clock moves in steps of 50 MHz, and falls while the temperature is 95 °C or more; what HBM and the Amber record hold is
lost with power. -/
def Sys2Proof.Claims.ResetAndPower : Prop :=
  ∀ s : State,
    (∀ m, FromManagement m 8 0x00C →
      (msgData m = 0x00005253#32 → ∃ t, exec (.resetctlWrite m) s = .next t ∧ HasReset s t (s.resets + 1)
        ∧ Answered s t m false 0)
      ∧ (msgData m ≠ 0x00005253#32 → ∃ t, exec (.resetctlWrite m) s = .next t ∧ Refused s t m))
    ∧ (s.powered = false → ∃ t, exec .powerOn s = .next t ∧ HasReset s t 1)
    ∧ (∃ t, exec .thermalTrip s = .next t ∧ HasReset s t (s.resets + 1) ∧ t.mgmt.temp = 110#32 ∧ t.throttle = true
      ∧ t.clockMhz < 600 ∧ ∃ ev ∈ t.amber, ev.code = 0x0C ∧ ev.arg0 = 3)
    ∧ (∀ mhz, 300 ≤ mhz → mhz ≤ 600 → mhz % 50 = 0 → ∃ t, exec (.clockThrottle mhz) s = .next t
      ∧ t = { s with clockMhz := mhz, throttle := decide (mhz < 600), mgmt := { s.mgmt with temp := t.mgmt.temp } }
      ∧ t.mgmt.temp.toNat < 110 ∧ (s.clockMhz ≤ mhz → mhz ≠ 300 → t.mgmt.temp.toNat < 95))
    ∧ (∃ t, exec .powerLoss s = .next t ∧ t.powered = false ∧ t.amber = [] ∧ t.ctxs = [] ∧ t.keys = []
      ∧ (∀ pa, inHbm pa = true → readByte t pa = 0) ∧ t.faultCnt = s.faultCnt ∧ t.retired = s.retired)

/-- 11 R339; 16 R393, R394; 18 R425, R429 to R431; 23 R484 to R489: errors, keys, reset and power.
Where the spec is silent the model's choice stands: log entries 1, 7, 8, 13, 66, 67, 68, 69, 70, 82 and 83. -/
def Obligations.errors_keys_and_reset : Prop :=
  Sys2Proof.Claims.ErrorsAreCounted ∧ Sys2Proof.Claims.KeysAndReports ∧ Sys2Proof.Claims.ResetAndPower
end

