-- ==== Sys2Proof/Laws/Dispatch.lean ====
section
/-!
SUPPORT. Which meaning `exec` gives each constructor, one equation each, so that no proof unfolds the dispatch.
-/

namespace Sys2Proof.Machine

theorem exec_nop (f : FmtA) (s : State) : exec (.nop f) s = execNop f s := rfl
theorem exec_add (f : FmtA) (s : State) : exec (.add f) s = execAdd f s := rfl
theorem exec_sub (f : FmtA) (s : State) : exec (.sub f) s = execSub f s := rfl
theorem exec_mul (f : FmtA) (s : State) : exec (.mul f) s = execMul f s := rfl
theorem exec_mulhi (f : FmtA) (s : State) : exec (.mulhi f) s = execMulhi f s := rfl
theorem exec_mad (f : FmtA) (s : State) : exec (.mad f) s = execMad f s := rfl
theorem exec_addc (f : FmtA) (s : State) : exec (.addc f) s = execAddc f s := rfl
theorem exec_subb (f : FmtA) (s : State) : exec (.subb f) s = execSubb f s := rfl
theorem exec_min (f : FmtA) (s : State) : exec (.min f) s = execMin f s := rfl
theorem exec_max (f : FmtA) (s : State) : exec (.max f) s = execMax f s := rfl
theorem exec_abs (f : FmtA) (s : State) : exec (.abs f) s = execAbs f s := rfl
theorem exec_neg (f : FmtA) (s : State) : exec (.neg f) s = execNeg f s := rfl
theorem exec_and (f : FmtA) (s : State) : exec (.and f) s = execAnd f s := rfl
theorem exec_or (f : FmtA) (s : State) : exec (.or f) s = execOr f s := rfl
theorem exec_xor (f : FmtA) (s : State) : exec (.xor f) s = execXor f s := rfl
theorem exec_not (f : FmtA) (s : State) : exec (.not f) s = execNot f s := rfl
theorem exec_shl (f : FmtA) (s : State) : exec (.shl f) s = execShl f s := rfl
theorem exec_shr (f : FmtA) (s : State) : exec (.shr f) s = execShr f s := rfl
theorem exec_sar (f : FmtA) (s : State) : exec (.sar f) s = execSar f s := rfl
theorem exec_rotl (f : FmtA) (s : State) : exec (.rotl f) s = execRotl f s := rfl
theorem exec_clz (f : FmtA) (s : State) : exec (.clz f) s = execClz f s := rfl
theorem exec_popc (f : FmtA) (s : State) : exec (.popc f) s = execPopc f s := rfl
theorem exec_brev (f : FmtA) (s : State) : exec (.brev f) s = execBrev f s := rfl
theorem exec_bfx (f : FmtA) (s : State) : exec (.bfx f) s = execBfx f s := rfl
theorem exec_bfi (f : FmtA) (s : State) : exec (.bfi f) s = execBfi f s := rfl
theorem exec_sel (f : FmtA) (s : State) : exec (.sel f) s = execSel f s := rfl
theorem exec_icmp (f : FmtA) (s : State) : exec (.icmp f) s = execIcmp f s := rfl
theorem exec_fadd (f : FmtA) (s : State) : exec (.fadd f) s = execFadd f s := rfl
theorem exec_fsub (f : FmtA) (s : State) : exec (.fsub f) s = execFsub f s := rfl
theorem exec_fmul (f : FmtA) (s : State) : exec (.fmul f) s = execFmul f s := rfl
theorem exec_fma (f : FmtA) (s : State) : exec (.fma f) s = execFma f s := rfl
theorem exec_fmin (f : FmtA) (s : State) : exec (.fmin f) s = execFmin f s := rfl
theorem exec_fmax (f : FmtA) (s : State) : exec (.fmax f) s = execFmax f s := rfl
theorem exec_fabs (f : FmtA) (s : State) : exec (.fabs f) s = execFabs f s := rfl
theorem exec_fneg (f : FmtA) (s : State) : exec (.fneg f) s = execFneg f s := rfl
theorem exec_fcmp (f : FmtA) (s : State) : exec (.fcmp f) s = execFcmp f s := rfl
theorem exec_fcls (f : FmtA) (s : State) : exec (.fcls f) s = execFcls f s := rfl
theorem exec_frnd (f : FmtA) (s : State) : exec (.frnd f) s = execFrnd f s := rfl
theorem exec_cvt (f : FmtA) (s : State) : exec (.cvt f) s = execCvt f s := rfl
theorem exec_cvti (f : FmtA) (s : State) : exec (.cvti f) s = execCvti f s := rfl
theorem exec_cvtf (f : FmtA) (s : State) : exec (.cvtf f) s = execCvtf f s := rfl
theorem exec_pack (f : FmtA) (s : State) : exec (.pack f) s = execPack f s := rfl
theorem exec_unpk (f : FmtA) (s : State) : exec (.unpk f) s = execUnpk f s := rfl
theorem exec_qnt (f : FmtA) (s : State) : exec (.qnt f) s = execQnt f s := rfl
theorem exec_rcp (f : FmtA) (s : State) : exec (.rcp f) s = execRcp f s := rfl
theorem exec_rsq (f : FmtA) (s : State) : exec (.rsq f) s = execRsq f s := rfl
theorem exec_sqrt (f : FmtA) (s : State) : exec (.sqrt f) s = execSqrt f s := rfl
theorem exec_exp2 (f : FmtA) (s : State) : exec (.exp2 f) s = execExp2 f s := rfl
theorem exec_log2 (f : FmtA) (s : State) : exec (.log2 f) s = execLog2 f s := rfl
theorem exec_sin (f : FmtA) (s : State) : exec (.sin f) s = execSin f s := rfl
theorem exec_cos (f : FmtA) (s : State) : exec (.cos f) s = execCos f s := rfl
theorem exec_tanh (f : FmtA) (s : State) : exec (.tanh f) s = execTanh f s := rfl
theorem exec_shfl (f : FmtA) (s : State) : exec (.shfl f) s = execShfl f s := rfl
theorem exec_shup (f : FmtA) (s : State) : exec (.shup f) s = execShup f s := rfl
theorem exec_shdn (f : FmtA) (s : State) : exec (.shdn f) s = execShdn f s := rfl
theorem exec_qswp (f : FmtA) (s : State) : exec (.qswp f) s = execQswp f s := rfl
theorem exec_qbc (f : FmtA) (s : State) : exec (.qbc f) s = execQbc f s := rfl
theorem exec_vote (f : FmtA) (s : State) : exec (.vote f) s = execVote f s := rfl
theorem exec_ballot (f : FmtA) (s : State) : exec (.ballot f) s = execBallot f s := rfl
theorem exec_lred (f : FmtA) (s : State) : exec (.lred f) s = execLred f s := rfl
theorem exec_lscan (f : FmtA) (s : State) : exec (.lscan f) s = execLscan f s := rfl
theorem exec_xbld (f : FmtA) (s : State) : exec (.xbld f) s = execXbld f s := rfl
theorem exec_xbp (f : FmtA) (s : State) : exec (.xbp f) s = execXbp f s := rfl
theorem exec_mov (f : FmtA) (s : State) : exec (.mov f) s = execMov f s := rfl
theorem exec_movi (f : FmtA) (s : State) : exec (.movi f) s = execMovi f s := rfl
theorem exec_rsr (f : FmtA) (s : State) : exec (.rsr f) s = execRsr f s := rfl
theorem exec_wsr (f : FmtA) (s : State) : exec (.wsr f) s = execWsr f s := rfl
theorem exec_fmts (f : FmtA) (s : State) : exec (.fmts f) s = execFmts f s := rfl
theorem exec_fmtr (f : FmtA) (s : State) : exec (.fmtr f) s = execFmtr f s := rfl
theorem exec_rand (f : FmtA) (s : State) : exec (.rand f) s = execRand f s := rfl
theorem exec_mset (f : FmtA) (s : State) : exec (.mset f) s = execMset f s := rfl
theorem exec_mpop (f : FmtA) (s : State) : exec (.mpop f) s = execMpop f s := rfl
theorem exec_ld (f : FmtM) (s : State) : exec (.ld f) s = execLd f s := rfl
theorem exec_st (f : FmtM) (s : State) : exec (.st f) s = execSt f s := rfl
theorem exec_ldg (f : FmtM) (s : State) : exec (.ldg f) s = execLdg f s := rfl
theorem exec_stg (f : FmtM) (s : State) : exec (.stg f) s = execStg f s := rfl
theorem exec_ldsp (f : FmtM) (s : State) : exec (.ldsp f) s = execLdsp f s := rfl
theorem exec_stsp (f : FmtM) (s : State) : exec (.stsp f) s = execStsp f s := rfl
theorem exec_prf (f : FmtM) (s : State) : exec (.prf f) s = execPrf f s := rfl
theorem exec_tld (f : FmtT) (s : State) : exec (.tld f) s = execTld f s := rfl
theorem exec_tst (f : FmtT) (s : State) : exec (.tst f) s = execTst f s := rfl
theorem exec_tlds (f : FmtT) (s : State) : exec (.tlds f) s = execTlds f s := rfl
theorem exec_stsh (f : FmtT) (s : State) : exec (.stsh f) s = execStsh f s := rfl
theorem exec_redst (f : FmtM) (s : State) : exec (.redst f) s = execRedst f s := rfl
theorem exec_thnd (f : FmtM) (s : State) : exec (.thnd f) s = execThnd f s := rfl
theorem exec_aadd (f : FmtM) (s : State) : exec (.aadd f) s = execAadd f s := rfl
theorem exec_amin (f : FmtM) (s : State) : exec (.amin f) s = execAmin f s := rfl
theorem exec_amax (f : FmtM) (s : State) : exec (.amax f) s = execAmax f s := rfl
theorem exec_aand (f : FmtM) (s : State) : exec (.aand f) s = execAand f s := rfl
theorem exec_aor (f : FmtM) (s : State) : exec (.aor f) s = execAor f s := rfl
theorem exec_axor (f : FmtM) (s : State) : exec (.axor f) s = execAxor f s := rfl
theorem exec_axchg (f : FmtM) (s : State) : exec (.axchg f) s = execAxchg f s := rfl
theorem exec_acas (f : FmtM) (s : State) : exec (.acas f) s = execAcas f s := rfl
theorem exec_afadd (f : FmtM) (s : State) : exec (.afadd f) s = execAfadd f s := rfl
theorem exec_wait (f : FmtA) (s : State) : exec (.wait f) s = execWait f s := rfl
theorem exec_nbinit (f : FmtA) (s : State) : exec (.nbinit f) s = execNbinit f s := rfl
theorem exec_nbarv (f : FmtA) (s : State) : exec (.nbarv f) s = execNbarv f s := rfl
theorem exec_nbwt (f : FmtA) (s : State) : exec (.nbwt f) s = execNbwt f s := rfl
theorem exec_nbsync (f : FmtA) (s : State) : exec (.nbsync f) s = execNbsync f s := rfl
theorem exec_waddr (f : FmtM) (s : State) : exec (.waddr f) s = execWaddr f s := rfl
theorem exec_cpy (f : FmtE) (s : State) : exec (.cpy f) s = execCpy f s := rfl
theorem exec_cpyo (f : FmtE) (s : State) : exec (.cpyo f) s = execCpyo f s := rfl
theorem exec_cpym (f : FmtE) (s : State) : exec (.cpym f) s = execCpym f s := rfl
theorem exec_cpyacc (f : FmtE) (s : State) : exec (.cpyacc f) s = execCpyacc f s := rfl
theorem exec_cpyacs (f : FmtE) (s : State) : exec (.cpyacs f) s = execCpyacs f s := rfl
theorem exec_dzjob (f : FmtE) (s : State) : exec (.dzjob f) s = execDzjob f s := rfl
theorem exec_mma (f : FmtX) (s : State) : exec (.mma f) s = execMma f s := rfl
theorem exec_mmaz (f : FmtX) (s : State) : exec (.mmaz f) s = execMmaz f s := rfl
theorem exec_accz (f : FmtX) (s : State) : exec (.accz f) s = execAccz f s := rfl
theorem exec_accrd (f : FmtX) (s : State) : exec (.accrd f) s = execAccrd f s := rfl
theorem exec_accwr (f : FmtX) (s : State) : exec (.accwr f) s = execAccwr f s := rfl
theorem exec_bra (f : FmtB) (s : State) : exec (.bra f) s = execBra f s := rfl
theorem exec_brm (f : FmtB) (s : State) : exec (.brm f) s = execBrm f s := rfl
theorem exec_call (f : FmtB) (s : State) : exec (.call f) s = execCall f s := rfl
theorem exec_calli (f : FmtB) (s : State) : exec (.calli f) s = execCalli f s := rfl
theorem exec_ret (f : FmtB) (s : State) : exec (.ret f) s = execRet f s := rfl
theorem exec_exit (f : FmtB) (s : State) : exec (.exit f) s = execExit f s := rfl
theorem exec_rgn (f : FmtB) (s : State) : exec (.rgn f) s = execRgn f s := rfl
theorem exec_wset (f : FmtB) (s : State) : exec (.wset f) s = execWset f s := rfl
theorem exec_join (f : FmtB) (s : State) : exec (.join f) s = execJoin f s := rfl
theorem exec_trap (f : FmtB) (s : State) : exec (.trap f) s = execTrap f s := rfl
theorem exec_brk (f : FmtB) (s : State) : exec (.brk f) s = execBrk f s := rfl
theorem exec_lyrd (f : FmtT) (s : State) : exec (.lyrd f) s = execLyrd f s := rfl
theorem exec_lypin (f : FmtT) (s : State) : exec (.lypin f) s = execLypin f s := rfl
theorem exec_lyunp (f : FmtT) (s : State) : exec (.lyunp f) s = execLyunp f s := rfl
theorem exec_lyadv (f : FmtT) (s : State) : exec (.lyadv f) s = execLyadv f s := rfl
theorem exec_ovtld (f : FmtA) (s : State) : exec (.ovtld f) s = execOvtld f s := rfl
theorem exec_tlbinv (f : FmtA) (s : State) : exec (.tlbinv f) s = execTlbinv f s := rfl
theorem exec_cmnt (f : FmtM) (s : State) : exec (.cmnt f) s = execCmnt f s := rfl
theorem exec_ambw (f : FmtA) (s : State) : exec (.ambw f) s = execAmbw f s := rfl
theorem exec_jnlaunch (f : FmtE) (s : State) : exec (.jnlaunch f) s = execJnlaunch f s := rfl
theorem exec_jnrst (f : FmtE) (s : State) : exec (.jnrst f) s = execJnrst f s := rfl
theorem exec_jnrstStop (f : FmtE) (s : State) : exec (.jnrstStop f) s = execJnrstStop f s := rfl
theorem exec_jnrstClose (f : FmtE) (s : State) : exec (.jnrstClose f) s = execJnrstClose f s := rfl
theorem exec_jnst (f : FmtE) (s : State) : exec (.jnst f) s = execJnst f s := rfl
theorem exec_fput (f : FmtE) (s : State) : exec (.fput f) s = execFput f s := rfl
theorem exec_fget (f : FmtE) (s : State) : exec (.fget f) s = execFget f s := rfl
theorem exec_fsig (f : FmtE) (s : State) : exec (.fsig f) s = execFsig f s := rfl
theorem exec_pblk (f : FmtP) (s : State) : exec (.pblk f) s = execPblk f s := rfl
theorem exec_xpfx (f : FmtQ) (s : State) : exec (.xpfx f) s = execXpfx f s := rfl
theorem exec_notAnInstruction (w : Slot) (s : State) : exec (.notAnInstruction w) s = execNotAnInstruction w s := rfl
theorem exec_fetchLineArrival (ctx : Nat) (noise : Line) (s : State) :
    exec (.fetchLineArrival ctx noise) s = execFetchLineArrival ctx noise s := rfl
theorem exec_pageWalkComplete (core : Nat) (vi : Nat) (va : Word64) (s : State) :
    exec (.pageWalkComplete core vi va) s = execPageWalkComplete core vi va s := rfl
theorem exec_regionCommit (ctx : Nat) (s : State) : exec (.regionCommit ctx) s = execRegionCommit ctx s := rfl
theorem exec_rollbackWindowExpiry (ctx : Nat) (s : State) :
    exec (.rollbackWindowExpiry ctx) s = execRollbackWindowExpiry ctx s := rfl
theorem exec_lineHoldExpiry (ctx : Nat) (s : State) : exec (.lineHoldExpiry ctx) s = execLineHoldExpiry ctx s := rfl
theorem exec_contextHalt (ctx : Nat) (s : State) : exec (.contextHalt ctx) s = execContextHalt ctx s := rfl
theorem exec_trapRecordWrite (rec : Nat) (s : State) :
    exec (.trapRecordWrite rec) s = execTrapRecordWrite rec s := rfl
theorem exec_cohortEnd (tag : Nat) (s : State) : exec (.cohortEnd tag) s = execCohortEnd tag s := rfl
theorem exec_launchCompletion (l : Nat) (s : State) : exec (.launchCompletion l) s = execLaunchCompletion l s := rfl
theorem exec_launch (m : HostMsg) (s : State) : exec (.launch m) s = execLaunch m s := rfl
theorem exec_resume (m : HostMsg) (s : State) : exec (.resume m) s = execResume m s := rfl
theorem exec_abort (m : HostMsg) (s : State) : exec (.abort m) s = execAbort m s := rfl
theorem exec_memRd (m : HostMsg) (s : State) : exec (.memRd m) s = execMemRd m s := rfl
theorem exec_memWr (m : HostMsg) (s : State) : exec (.memWr m) s = execMemWr m s := rfl
theorem exec_droppedMessage (m : HostMsg) (s : State) : exec (.droppedMessage m) s = execDroppedMessage m s := rfl
theorem exec_regWr (m : HostMsg) (s : State) : exec (.regWr m) s = execRegWr m s := rfl
theorem exec_hdataWrite (m : HostMsg) (s : State) : exec (.hdataWrite m) s = execHdataWrite m s := rfl
theorem exec_hpcloHpchiWrite (m : HostMsg) (s : State) : exec (.hpcloHpchiWrite m) s = execHpcloHpchiWrite m s := rfl
theorem exec_tictlInvalidatePage (m : HostMsg) (s : State) :
    exec (.tictlInvalidatePage m) s = execTictlInvalidatePage m s := rfl
theorem exec_tictlInvalidateAll (m : HostMsg) (s : State) :
    exec (.tictlInvalidateAll m) s = execTictlInvalidateAll m s := rfl
theorem exec_tlbInvalidationComplete (n : Nat) (s : State) :
    exec (.tlbInvalidationComplete n) s = execTlbInvalidationComplete n s := rfl
theorem exec_viEnable (m : HostMsg) (s : State) : exec (.viEnable m) s = execViEnable m s := rfl
theorem exec_viDisable (m : HostMsg) (s : State) : exec (.viDisable m) s = execViDisable m s := rfl
theorem exec_viddataWrite (m : HostMsg) (s : State) : exec (.viddataWrite m) s = execViddataWrite m s := rfl
theorem exec_slotcmtWrite (m : HostMsg) (s : State) : exec (.slotcmtWrite m) s = execSlotcmtWrite m s := rfl
theorem exec_hbmFrameBoundary (s : State) : exec .hbmFrameBoundary s = execHbmFrameBoundary s := rfl
theorem exec_gscmtWrite (m : HostMsg) (s : State) : exec (.gscmtWrite m) s = execGscmtWrite m s := rfl
theorem exec_gangSliceInstant (s : State) : exec .gangSliceInstant s = execGangSliceInstant s := rfl
theorem exec_cohortSave (tag : Nat) (s : State) : exec (.cohortSave tag) s = execCohortSave tag s := rfl
theorem exec_gangSwitchRestore (s : State) : exec .gangSwitchRestore s = execGangSwitchRestore s := rfl
theorem exec_gangSwitchOverrun (ns : Nat) (s : State) :
    exec (.gangSwitchOverrun ns) s = execGangSwitchOverrun ns s := rfl
theorem exec_ptpSyncLoss (offset : Nat) (s : State) : exec (.ptpSyncLoss offset) s = execPtpSyncLoss offset s := rfl
theorem exec_ptpSyncRestored (s : State) : exec .ptpSyncRestored s = execPtpSyncRestored s := rfl
theorem exec_waitEventRead (l : Nat) (k : Nat) (s : State) :
    exec (.waitEventRead l k) s = execWaitEventRead l k s := rfl
theorem exec_waitEventRetry (l : Nat) (k : Nat) (s : State) :
    exec (.waitEventRetry l k) s = execWaitEventRetry l k s := rfl
theorem exec_launchSelection (s : State) : exec .launchSelection s = execLaunchSelection s := rfl
theorem exec_launchPriorityAging (l : Nat) (s : State) :
    exec (.launchPriorityAging l) s = execLaunchPriorityAging l s := rfl
theorem exec_cohortPlacement (s : State) : exec .cohortPlacement s = execCohortPlacement s := rfl
theorem exec_clusterPlacement (s : State) : exec .clusterPlacement s = execClusterPlacement s := rfl
theorem exec_copyUnitTransfer (job : Nat) (unit : Nat) (s : State) :
    exec (.copyUnitTransfer job unit) s = execCopyUnitTransfer job unit s := rfl
theorem exec_multicastDelivery (job : Nat) (pos : Nat) (s : State) :
    exec (.multicastDelivery job pos) s = execMulticastDelivery job pos s := rfl
theorem exec_multicastBoundExpiry (job : Nat) (s : State) :
    exec (.multicastBoundExpiry job) s = execMulticastBoundExpiry job s := rfl
theorem exec_copyCompletion (job : Nat) (s : State) : exec (.copyCompletion job) s = execCopyCompletion job s := rfl
theorem exec_dzJobEnd (job : Nat) (s : State) : exec (.dzJobEnd job) s = execDzJobEnd job s := rfl
theorem exec_matrixInstructionCompletion (frame : Nat) (s : State) :
    exec (.matrixInstructionCompletion frame) s = execMatrixInstructionCompletion frame s := rfl
theorem exec_coordinateAccessAtHome (ctx : Nat) (s : State) :
    exec (.coordinateAccessAtHome ctx) s = execCoordinateAccessAtHome ctx s := rfl
theorem exec_staleRejection (ctx : Nat) (s : State) : exec (.staleRejection ctx) s = execStaleRejection ctx s := rfl
theorem exec_redstHomeAdd (op : Nat) (s : State) : exec (.redstHomeAdd op) s = execRedstHomeAdd op s := rfl
theorem exec_epochEnd (band : Nat) (s : State) : exec (.epochEnd band) s = execEpochEnd band s := rfl
theorem exec_windowEnd (band : Nat) (s : State) : exec (.windowEnd band) s = execWindowEnd band s := rfl
theorem exec_pinMoveStart (band : Nat) (s : State) : exec (.pinMoveStart band) s = execPinMoveStart band s := rfl
theorem exec_paverMoveInstall (band : Nat) (s : State) :
    exec (.paverMoveInstall band) s = execPaverMoveInstall band s := rfl
theorem exec_pinApply (band : Nat) (s : State) : exec (.pinApply band) s = execPinApply band s := rfl
theorem exec_unpinApply (band : Nat) (s : State) : exec (.unpinApply band) s = execUnpinApply band s := rfl
theorem exec_adviceApply (band : Nat) (s : State) : exec (.adviceApply band) s = execAdviceApply band s := rfl
theorem exec_gets (die : Nat) (line : Nat) (s : State) : exec (.gets die line) s = execGets die line s := rfl
theorem exec_getm (die : Nat) (line : Nat) (s : State) : exec (.getm die line) s = execGetm die line s := rfl
theorem exec_wbd (die : Nat) (line : Nat) (s : State) : exec (.wbd die line) s = execWbd die line s := rfl
theorem exec_evc (die : Nat) (line : Nat) (s : State) : exec (.evc die line) s = execEvc die line s := rfl
theorem exec_fwds (die : Nat) (line : Nat) (s : State) : exec (.fwds die line) s = execFwds die line s := rfl
theorem exec_fwdm (die : Nat) (line : Nat) (s : State) : exec (.fwdm die line) s = execFwdm die line s := rfl
theorem exec_inv (die : Nat) (line : Nat) (s : State) : exec (.inv die line) s = execInv die line s := rfl
theorem exec_binv (line : Nat) (s : State) : exec (.binv line) s = execBinv line s := rfl
theorem exec_data (die : Nat) (line : Nat) (s : State) : exec (.data die line) s = execData die line s := rfl
theorem exec_datad (die : Nat) (line : Nat) (s : State) : exec (.datad die line) s = execDatad die line s := rfl
theorem exec_ack (die : Nat) (line : Nat) (s : State) : exec (.ack die line) s = execAck die line s := rfl
theorem exec_cmp (die : Nat) (line : Nat) (s : State) : exec (.cmp die line) s = execCmp die line s := rfl
theorem exec_hsnp (line : Nat) (own : Bool) (s : State) : exec (.hsnp line own) s = execHsnp line own s := rfl
theorem exec_fill (core : Nat) (line : Nat) (s : State) : exec (.fill core line) s = execFill core line s := rfl
theorem exec_wrt (core : Nat) (line : Nat) (s : State) : exec (.wrt core line) s = execWrt core line s := rfl
theorem exec_l1inv (core : Nat) (line : Nat) (s : State) : exec (.l1inv core line) s = execL1inv core line s := rfl
theorem exec_own (die : Nat) (agent : Nat) (line : Nat) (s : State) :
    exec (.own die agent line) s = execOwn die agent line s := rfl
theorem exec_rcl (die : Nat) (agent : Nat) (line : Nat) (s : State) :
    exec (.rcl die agent line) s = execRcl die agent line s := rfl
theorem exec_rclack (die : Nat) (agent : Nat) (line : Nat) (s : State) :
    exec (.rclack die agent line) s = execRclack die agent line s := rfl
theorem exec_correctableError (r : Resource) (s : State) :
    exec (.correctableError r) s = execCorrectableError r s := rfl
theorem exec_uncorrectableError (r : Resource) (site : ErrorSite) (s : State) :
    exec (.uncorrectableError r site) s = execUncorrectableError r site s := rfl
theorem exec_agentFailure (agent : Nat) (line : Nat) (s : State) :
    exec (.agentFailure agent line) s = execAgentFailure agent line s := rfl
theorem exec_faultLeakPeriod (r : Resource) (s : State) : exec (.faultLeakPeriod r) s = execFaultLeakPeriod r s := rfl
theorem exec_spareRetirementComplete (r : Resource) (s : State) :
    exec (.spareRetirementComplete r) s = execSpareRetirementComplete r s := rfl
theorem exec_l2gmaskWrite (m : HostMsg) (s : State) : exec (.l2gmaskWrite m) s = execL2gmaskWrite m s := rfl
theorem exec_l2GatingTransitionComplete (die : Nat) (s : State) :
    exec (.l2GatingTransitionComplete die) s = execL2GatingTransitionComplete die s := rfl
theorem exec_junctionPlanComplete (x : Nat) (s : State) :
    exec (.junctionPlanComplete x) s = execJunctionPlanComplete x s := rfl
theorem exec_junctionPullServe (p : PullReq) (s : State) :
    exec (.junctionPullServe p) s = execJunctionPullServe p s := rfl
theorem exec_junctionLegComplete (x : Nat) (leg : Nat) (payload : List Byte) (s : State) :
    exec (.junctionLegComplete x leg payload) s = execJunctionLegComplete x leg payload s := rfl
theorem exec_junctionPullRefusal (x : Nat) (leg : Nat) (reason : Nat) (s : State) :
    exec (.junctionPullRefusal x leg reason) s = execJunctionPullRefusal x leg reason s := rfl
theorem exec_junctionPullRetry (x : Nat) (leg : Nat) (s : State) :
    exec (.junctionPullRetry x leg) s = execJunctionPullRetry x leg s := rfl
theorem exec_junctionPullTimeout (x : Nat) (leg : Nat) (s : State) :
    exec (.junctionPullTimeout x leg) s = execJunctionPullTimeout x leg s := rfl
theorem exec_fabricOperationAtTarget (op : FabricIn) (s : State) :
    exec (.fabricOperationAtTarget op) s = execFabricOperationAtTarget op s := rfl
theorem exec_fsigWrite (op : Nat) (s : State) : exec (.fsigWrite op) s = execFsigWrite op s := rfl
theorem exec_fabricAcknowledgement (op : Nat) (payload : List Byte) (s : State) :
    exec (.fabricAcknowledgement op payload) s = execFabricAcknowledgement op payload s := rfl
theorem exec_fabricRefusal (op : Nat) (sub : Nat) (s : State) :
    exec (.fabricRefusal op sub) s = execFabricRefusal op sub s := rfl
theorem exec_fabricTimeout (op : Nat) (port : Nat) (s : State) :
    exec (.fabricTimeout op port) s = execFabricTimeout op port s := rfl
theorem exec_frameReceive (port : Nat) (frame : LinkFrame) (s : State) :
    exec (.frameReceive port frame) s = execFrameReceive port frame s := rfl
theorem exec_frameAcknowledgement (port : Nat) (lane : Nat) (seq : Nat) (s : State) :
    exec (.frameAcknowledgement port lane seq) s = execFrameAcknowledgement port lane seq s := rfl
theorem exec_frameReplay (port : Nat) (lane : Nat) (laneError : Option Nat) (s : State) :
    exec (.frameReplay port lane laneError) s = execFrameReplay port lane laneError s := rfl
theorem exec_keyChangeover (port : Nat) (s : State) : exec (.keyChangeover port) s = execKeyChangeover port s := rfl
theorem exec_cxlRequestTimeout (line : Nat) (s : State) :
    exec (.cxlRequestTimeout line) s = execCxlRequestTimeout line s := rfl
theorem exec_keyselWrite (m : HostMsg) (s : State) : exec (.keyselWrite m) s = execKeyselWrite m s := rfl
theorem exec_keydataWrite (m : HostMsg) (s : State) : exec (.keydataWrite m) s = execKeydataWrite m s := rfl
theorem exec_keycmtWrite (m : HostMsg) (s : State) : exec (.keycmtWrite m) s = execKeycmtWrite m s := rfl
theorem exec_attnonceWrite (m : HostMsg) (s : State) : exec (.attnonceWrite m) s = execAttnonceWrite m s := rfl
theorem exec_attgoWrite (m : HostMsg) (s : State) : exec (.attgoWrite m) s = execAttgoWrite m s := rfl
theorem exec_attestationReportComplete (s : State) :
    exec .attestationReportComplete s = execAttestationReportComplete s := rfl
theorem exec_resetctlWrite (m : HostMsg) (s : State) : exec (.resetctlWrite m) s = execResetctlWrite m s := rfl
theorem exec_powerOn (s : State) : exec .powerOn s = execPowerOn s := rfl
theorem exec_thermalTrip (s : State) : exec .thermalTrip s = execThermalTrip s := rfl
theorem exec_clockThrottle (mhz : Nat) (s : State) : exec (.clockThrottle mhz) s = execClockThrottle mhz s := rfl
theorem exec_portUp (port : Nat) (s : State) : exec (.portUp port) s = execPortUp port s := rfl
theorem exec_powerLoss (s : State) : exec .powerLoss s = execPowerLoss s := rfl

end Sys2Proof.Machine
end

