-- ==== Sys2Proof/Laws/Issue.lean ====
section
/-!
SUPPORT. What every instruction of a context does first: it passes the issue stage with its own request.
-/

namespace Sys2Proof.Laws

open Sys2Proof.Machine Sys2Proof.Claims

/-- An instruction passes the issue stage with the request that `request` names, and then acts. -/
theorem exec_issues (i : Instr) (s : State) (h : isEvent i = false) :
    ∃ act, exec i s = issue i (Sys2Proof.Claims.request i s) act s := by
  cases i with
  | nop f => rw [exec_nop]; exact ⟨_, rfl⟩
  | add f => rw [exec_add]; exact ⟨_, rfl⟩
  | sub f => rw [exec_sub]; exact ⟨_, rfl⟩
  | mul f => rw [exec_mul]; exact ⟨_, rfl⟩
  | mulhi f => rw [exec_mulhi]; exact ⟨_, rfl⟩
  | mad f => rw [exec_mad]; exact ⟨_, rfl⟩
  | addc f => rw [exec_addc]; exact ⟨_, rfl⟩
  | subb f => rw [exec_subb]; exact ⟨_, rfl⟩
  | min f => rw [exec_min]; exact ⟨_, rfl⟩
  | max f => rw [exec_max]; exact ⟨_, rfl⟩
  | abs f => rw [exec_abs]; exact ⟨_, rfl⟩
  | neg f => rw [exec_neg]; exact ⟨_, rfl⟩
  | and f => rw [exec_and]; exact ⟨_, rfl⟩
  | or f => rw [exec_or]; exact ⟨_, rfl⟩
  | xor f => rw [exec_xor]; exact ⟨_, rfl⟩
  | not f => rw [exec_not]; exact ⟨_, rfl⟩
  | shl f => rw [exec_shl]; exact ⟨_, rfl⟩
  | shr f => rw [exec_shr]; exact ⟨_, rfl⟩
  | sar f => rw [exec_sar]; exact ⟨_, rfl⟩
  | rotl f => rw [exec_rotl]; exact ⟨_, rfl⟩
  | clz f => rw [exec_clz]; exact ⟨_, rfl⟩
  | popc f => rw [exec_popc]; exact ⟨_, rfl⟩
  | brev f => rw [exec_brev]; exact ⟨_, rfl⟩
  | bfx f => rw [exec_bfx]; exact ⟨_, rfl⟩
  | bfi f => rw [exec_bfi]; exact ⟨_, rfl⟩
  | sel f => rw [exec_sel]; exact ⟨_, rfl⟩
  | icmp f => rw [exec_icmp]; exact ⟨_, rfl⟩
  | fadd f => rw [exec_fadd]; exact ⟨_, rfl⟩
  | fsub f => rw [exec_fsub]; exact ⟨_, rfl⟩
  | fmul f => rw [exec_fmul]; exact ⟨_, rfl⟩
  | fma f => rw [exec_fma]; exact ⟨_, rfl⟩
  | fmin f => rw [exec_fmin]; exact ⟨_, rfl⟩
  | fmax f => rw [exec_fmax]; exact ⟨_, rfl⟩
  | fabs f => rw [exec_fabs]; exact ⟨_, rfl⟩
  | fneg f => rw [exec_fneg]; exact ⟨_, rfl⟩
  | fcmp f => rw [exec_fcmp]; exact ⟨_, rfl⟩
  | fcls f => rw [exec_fcls]; exact ⟨_, rfl⟩
  | frnd f => rw [exec_frnd]; exact ⟨_, rfl⟩
  | cvt f => rw [exec_cvt]; exact ⟨_, rfl⟩
  | cvti f => rw [exec_cvti]; exact ⟨_, rfl⟩
  | cvtf f => rw [exec_cvtf]; exact ⟨_, rfl⟩
  | pack f => rw [exec_pack]; exact ⟨_, rfl⟩
  | unpk f => rw [exec_unpk]; exact ⟨_, rfl⟩
  | qnt f => rw [exec_qnt]; exact ⟨_, rfl⟩
  | rcp f => rw [exec_rcp]; exact ⟨_, rfl⟩
  | rsq f => rw [exec_rsq]; exact ⟨_, rfl⟩
  | sqrt f => rw [exec_sqrt]; exact ⟨_, rfl⟩
  | exp2 f => rw [exec_exp2]; exact ⟨_, rfl⟩
  | log2 f => rw [exec_log2]; exact ⟨_, rfl⟩
  | sin f => rw [exec_sin]; exact ⟨_, rfl⟩
  | cos f => rw [exec_cos]; exact ⟨_, rfl⟩
  | tanh f => rw [exec_tanh]; exact ⟨_, rfl⟩
  | shfl f => rw [exec_shfl]; exact ⟨_, rfl⟩
  | shup f => rw [exec_shup]; exact ⟨_, rfl⟩
  | shdn f => rw [exec_shdn]; exact ⟨_, rfl⟩
  | qswp f => rw [exec_qswp]; exact ⟨_, rfl⟩
  | qbc f => rw [exec_qbc]; exact ⟨_, rfl⟩
  | vote f => rw [exec_vote]; exact ⟨_, rfl⟩
  | ballot f => rw [exec_ballot]; exact ⟨_, rfl⟩
  | lred f => rw [exec_lred]; exact ⟨_, rfl⟩
  | lscan f => rw [exec_lscan]; exact ⟨_, rfl⟩
  | xbld f => rw [exec_xbld]; exact ⟨_, rfl⟩
  | xbp f => rw [exec_xbp]; exact ⟨_, rfl⟩
  | mov f => rw [exec_mov]; exact ⟨_, rfl⟩
  | movi f => rw [exec_movi]; exact ⟨_, rfl⟩
  | rsr f => rw [exec_rsr]; exact ⟨_, rfl⟩
  | wsr f => rw [exec_wsr]; exact ⟨_, rfl⟩
  | fmts f => rw [exec_fmts]; exact ⟨_, rfl⟩
  | fmtr f => rw [exec_fmtr]; exact ⟨_, rfl⟩
  | rand f => rw [exec_rand]; exact ⟨_, rfl⟩
  | mset f => rw [exec_mset]; exact ⟨_, rfl⟩
  | mpop f => rw [exec_mpop]; exact ⟨_, rfl⟩
  | ld f => rw [exec_ld]; exact ⟨_, rfl⟩
  | st f => rw [exec_st]; exact ⟨_, rfl⟩
  | ldg f => rw [exec_ldg]; exact ⟨_, rfl⟩
  | stg f => rw [exec_stg]; exact ⟨_, rfl⟩
  | ldsp f => rw [exec_ldsp]; exact ⟨_, rfl⟩
  | stsp f => rw [exec_stsp]; exact ⟨_, rfl⟩
  | prf f => rw [exec_prf]; exact ⟨_, rfl⟩
  | tld f => rw [exec_tld]; exact ⟨_, rfl⟩
  | tst f => rw [exec_tst]; exact ⟨_, rfl⟩
  | tlds f => rw [exec_tlds]; exact ⟨_, rfl⟩
  | stsh f => rw [exec_stsh]; exact ⟨_, rfl⟩
  | redst f => rw [exec_redst]; exact ⟨_, rfl⟩
  | thnd f => rw [exec_thnd]; exact ⟨_, rfl⟩
  | aadd f => rw [exec_aadd]; exact ⟨_, rfl⟩
  | amin f => rw [exec_amin]; exact ⟨_, rfl⟩
  | amax f => rw [exec_amax]; exact ⟨_, rfl⟩
  | aand f => rw [exec_aand]; exact ⟨_, rfl⟩
  | aor f => rw [exec_aor]; exact ⟨_, rfl⟩
  | axor f => rw [exec_axor]; exact ⟨_, rfl⟩
  | axchg f => rw [exec_axchg]; exact ⟨_, rfl⟩
  | acas f => rw [exec_acas]; exact ⟨_, rfl⟩
  | afadd f => rw [exec_afadd]; exact ⟨_, rfl⟩
  | wait f => rw [exec_wait]; exact ⟨_, rfl⟩
  | nbinit f => rw [exec_nbinit]; exact ⟨_, rfl⟩
  | nbarv f => rw [exec_nbarv]; exact ⟨_, rfl⟩
  | nbwt f => rw [exec_nbwt]; exact ⟨_, rfl⟩
  | nbsync f => rw [exec_nbsync]; exact ⟨_, rfl⟩
  | waddr f => rw [exec_waddr]; exact ⟨_, rfl⟩
  | cpy f => rw [exec_cpy]; exact ⟨_, rfl⟩
  | cpyo f => rw [exec_cpyo]; exact ⟨_, rfl⟩
  | cpym f => rw [exec_cpym]; exact ⟨_, rfl⟩
  | cpyacc f => rw [exec_cpyacc]; exact ⟨_, rfl⟩
  | cpyacs f => rw [exec_cpyacs]; exact ⟨_, rfl⟩
  | dzjob f => rw [exec_dzjob]; exact ⟨_, rfl⟩
  | mma f => rw [exec_mma]; exact ⟨_, rfl⟩
  | mmaz f => rw [exec_mmaz]; exact ⟨_, rfl⟩
  | accz f => rw [exec_accz]; exact ⟨_, rfl⟩
  | accrd f => rw [exec_accrd]; unfold execAccrd; exact ⟨_, rfl⟩
  | accwr f => rw [exec_accwr]; unfold execAccwr; exact ⟨_, rfl⟩
  | bra f => rw [exec_bra]; exact ⟨_, rfl⟩
  | brm f => rw [exec_brm]; exact ⟨_, rfl⟩
  | call f => rw [exec_call]; exact ⟨_, rfl⟩
  | calli f => rw [exec_calli]; exact ⟨_, rfl⟩
  | ret f => rw [exec_ret]; exact ⟨_, rfl⟩
  | exit f => rw [exec_exit]; exact ⟨_, rfl⟩
  | rgn f => rw [exec_rgn]; exact ⟨_, rfl⟩
  | wset f => rw [exec_wset]; exact ⟨_, rfl⟩
  | join f => rw [exec_join]; exact ⟨_, rfl⟩
  | trap f => rw [exec_trap]; exact ⟨_, rfl⟩
  | brk f => rw [exec_brk]; exact ⟨_, rfl⟩
  | lyrd f => rw [exec_lyrd]; exact ⟨_, rfl⟩
  | lypin f => rw [exec_lypin]; exact ⟨_, rfl⟩
  | lyunp f => rw [exec_lyunp]; exact ⟨_, rfl⟩
  | lyadv f => rw [exec_lyadv]; exact ⟨_, rfl⟩
  | ovtld f => rw [exec_ovtld]; exact ⟨_, rfl⟩
  | tlbinv f => rw [exec_tlbinv]; exact ⟨_, rfl⟩
  | cmnt f => rw [exec_cmnt]; exact ⟨_, rfl⟩
  | ambw f => rw [exec_ambw]; exact ⟨_, rfl⟩
  | jnlaunch f => rw [exec_jnlaunch]; exact ⟨_, rfl⟩
  | jnrst f => rw [exec_jnrst]; exact ⟨_, rfl⟩
  | jnrstStop f => rw [exec_jnrstStop]; exact ⟨_, rfl⟩
  | jnrstClose f => rw [exec_jnrstClose]; exact ⟨_, rfl⟩
  | jnst f => rw [exec_jnst]; exact ⟨_, rfl⟩
  | fput f => rw [exec_fput]; exact ⟨_, rfl⟩
  | fget f => rw [exec_fget]; exact ⟨_, rfl⟩
  | fsig f => rw [exec_fsig]; exact ⟨_, rfl⟩
  | pblk f => rw [exec_pblk]; exact ⟨_, rfl⟩
  | xpfx f => rw [exec_xpfx]; exact ⟨_, rfl⟩
  | notAnInstruction w => rw [exec_notAnInstruction]; exact ⟨_, rfl⟩
  | fetchLineArrival _ _ => cases h
  | pageWalkComplete _ _ _ => cases h
  | regionCommit _ => cases h
  | rollbackWindowExpiry _ => cases h
  | lineHoldExpiry _ => cases h
  | contextHalt _ => cases h
  | trapRecordWrite _ => cases h
  | cohortEnd _ => cases h
  | launchCompletion _ => cases h
  | launch _ => cases h
  | resume _ => cases h
  | abort _ => cases h
  | memRd _ => cases h
  | memWr _ => cases h
  | droppedMessage _ => cases h
  | regWr _ => cases h
  | hdataWrite _ => cases h
  | hpcloHpchiWrite _ => cases h
  | tictlInvalidatePage _ => cases h
  | tictlInvalidateAll _ => cases h
  | tlbInvalidationComplete _ => cases h
  | viEnable _ => cases h
  | viDisable _ => cases h
  | viddataWrite _ => cases h
  | slotcmtWrite _ => cases h
  | hbmFrameBoundary => cases h
  | gscmtWrite _ => cases h
  | gangSliceInstant => cases h
  | cohortSave _ => cases h
  | gangSwitchRestore => cases h
  | gangSwitchOverrun _ => cases h
  | ptpSyncLoss _ => cases h
  | ptpSyncRestored => cases h
  | waitEventRead _ _ => cases h
  | waitEventRetry _ _ => cases h
  | launchSelection => cases h
  | launchPriorityAging _ => cases h
  | cohortPlacement => cases h
  | clusterPlacement => cases h
  | copyUnitTransfer _ _ => cases h
  | multicastDelivery _ _ => cases h
  | multicastBoundExpiry _ => cases h
  | copyCompletion _ => cases h
  | dzJobEnd _ => cases h
  | matrixInstructionCompletion _ => cases h
  | coordinateAccessAtHome _ => cases h
  | staleRejection _ => cases h
  | redstHomeAdd _ => cases h
  | epochEnd _ => cases h
  | windowEnd _ => cases h
  | pinMoveStart _ => cases h
  | paverMoveInstall _ => cases h
  | pinApply _ => cases h
  | unpinApply _ => cases h
  | adviceApply _ => cases h
  | gets _ _ => cases h
  | getm _ _ => cases h
  | wbd _ _ => cases h
  | evc _ _ => cases h
  | fwds _ _ => cases h
  | fwdm _ _ => cases h
  | inv _ _ => cases h
  | binv _ => cases h
  | data _ _ => cases h
  | datad _ _ => cases h
  | ack _ _ => cases h
  | cmp _ _ => cases h
  | hsnp _ _ => cases h
  | fill _ _ => cases h
  | wrt _ _ => cases h
  | l1inv _ _ => cases h
  | own _ _ _ => cases h
  | rcl _ _ _ => cases h
  | rclack _ _ _ => cases h
  | correctableError _ => cases h
  | uncorrectableError _ _ => cases h
  | agentFailure _ _ => cases h
  | faultLeakPeriod _ => cases h
  | spareRetirementComplete _ => cases h
  | l2gmaskWrite _ => cases h
  | l2GatingTransitionComplete _ => cases h
  | junctionPlanComplete _ => cases h
  | junctionPullServe _ => cases h
  | junctionLegComplete _ _ _ => cases h
  | junctionPullRefusal _ _ _ => cases h
  | junctionPullRetry _ _ => cases h
  | junctionPullTimeout _ _ => cases h
  | fabricOperationAtTarget _ => cases h
  | fsigWrite _ => cases h
  | fabricAcknowledgement _ _ => cases h
  | fabricRefusal _ _ => cases h
  | fabricTimeout _ _ => cases h
  | frameReceive _ _ => cases h
  | frameAcknowledgement _ _ _ => cases h
  | frameReplay _ _ _ => cases h
  | keyChangeover _ => cases h
  | cxlRequestTimeout _ => cases h
  | keyselWrite _ => cases h
  | keydataWrite _ => cases h
  | keycmtWrite _ => cases h
  | attnonceWrite _ => cases h
  | attgoWrite _ => cases h
  | attestationReportComplete => cases h
  | resetctlWrite _ => cases h
  | powerOn => cases h
  | thermalTrip => cases h
  | clockThrottle _ => cases h
  | portUp _ => cases h
  | powerLoss => cases h

end Sys2Proof.Laws
end

