-- ==== Sys2Proof/Laws/Maps.lean ====
section
/-!
SUPPORT. Laws of sparse maps: read after write, other keys, and the canonical form, which every operation keeps.
-/

namespace Sys2Proof.Machine

variable {α : Type}

/-! ## Read after write -/

@[simp] theorem aget_nil (k : Nat) : aget ([] : Amap α) k = none := rfl

@[simp] theorem aget_aput_same (m : Amap α) (k : Nat) (v : α) : aget (aput m k v) k = some v := by
  induction m with
  | nil => simp [aput, aget]
  | cons p r ih => obtain ⟨j, w⟩ := p; simp only [aput]; split_ifs with h1 h2 <;> simp_all [aget]

theorem aget_aput_ne (m : Amap α) {j k : Nat} (v : α) (h : j ≠ k) : aget (aput m k v) j = aget m j := by
  induction m with
  | nil => simp [aput, aget, h]
  | cons p r ih =>
    obtain ⟨i, w⟩ := p
    simp only [aput]
    split_ifs with h1 h2
    · simp [aget, h]
    · subst h2; simp [aget, h]
    · simp [aget, ih]

theorem aget_aput (m : Amap α) (j k : Nat) (v : α) : aget (aput m k v) j = if j = k then some v else aget m j := by
  split_ifs with h
  · subst h; simp
  · exact aget_aput_ne m v h

@[simp] theorem aget_aerase_same (m : Amap α) (k : Nat) : aget (aerase m k) k = none := by
  induction m with
  | nil => rfl
  | cons p r ih =>
    obtain ⟨j, w⟩ := p
    simp only [aerase]
    split_ifs with h
    · exact ih
    · simp [aget, ih, h]

theorem aget_aerase_ne (m : Amap α) {j k : Nat} (h : j ≠ k) : aget (aerase m k) j = aget m j := by
  induction m with
  | nil => rfl
  | cons p r ih =>
    obtain ⟨i, w⟩ := p
    simp only [aerase]
    split_ifs with h1
    · subst h1; simp [aget, h, ih]
    · simp [aget, ih]

theorem aget_amod (m : Amap α) (j k : Nat) (f : α → α) :
    aget (amod m k f) j = if j = k then (aget m k).map f else aget m j := by
  unfold amod
  split
  · next v hv => rw [aget_aput]; split_ifs <;> simp_all
  · next hn => split_ifs with h <;> simp_all

@[simp] theorem aget_amod_same (m : Amap α) (k : Nat) (f : α → α) : aget (amod m k f) k = (aget m k).map f := by
  simp [aget_amod]

theorem aget_amod_ne (m : Amap α) {j k : Nat} (f : α → α) (h : j ≠ k) : aget (amod m k f) j = aget m j := by
  simp [aget_amod, h]

variable [DecidableEq α]

theorem agetD_asetD (m : Amap α) (d : α) (j k : Nat) (v : α) :
    agetD (asetD m d k v) d j = if j = k then v else agetD m d j := by
  unfold agetD asetD
  split_ifs with h1 h2 h2
  · subst h2; simp [h1]
  · rw [aget_aerase_ne m h2]
  · subst h2; simp
  · rw [aget_aput_ne m v h2]

@[simp] theorem agetD_asetD_same (m : Amap α) (d : α) (k : Nat) (v : α) : agetD (asetD m d k v) d k = v := by
  simp [agetD_asetD]

theorem agetD_asetD_ne (m : Amap α) (d : α) {j k : Nat} (v : α) (h : j ≠ k) :
    agetD (asetD m d k v) d j = agetD m d j := by
  simp [agetD_asetD, h]

omit [DecidableEq α] in
theorem agetD_aput (m : Amap α) (d : α) (j k : Nat) (v : α) :
    agetD (aput m k v) d j = if j = k then v else agetD m d j := by
  unfold agetD; rw [aget_aput]; split_ifs <;> rfl

/-- Writing a list of entries: a key that is not listed keeps its value. -/
theorem agetD_foldl_asetD_ne (l : List (Nat × α)) (m : Amap α) (d : α) (j : Nat) (h : ∀ p ∈ l, p.1 ≠ j) :
    agetD (l.foldl (fun m p => asetD m d p.1 p.2) m) d j = agetD m d j := by
  induction l generalizing m with
  | nil => rfl
  | cons p r ih =>
    simp only [List.foldl_cons]
    rw [ih _ (fun q hq => h q (List.mem_cons_of_mem _ hq)), agetD_asetD_ne]
    exact (h p List.mem_cons_self).symm

/-- Writing a list of entries with distinct keys: a listed key gets its value. -/
theorem agetD_foldl_asetD_mem (l : List (Nat × α)) (m : Amap α) (d : α) (p : Nat × α) (hp : p ∈ l)
    (hn : (l.map (·.1)).Nodup) : agetD (l.foldl (fun m p => asetD m d p.1 p.2) m) d p.1 = p.2 := by
  induction l generalizing m with
  | nil => cases hp
  | cons q r ih =>
    simp only [List.map_cons, List.nodup_cons, List.mem_map, not_exists, not_and] at hn
    simp only [List.foldl_cons]
    rcases List.mem_cons.mp hp with rfl | hr
    · rw [agetD_foldl_asetD_ne, agetD_asetD_same]
      intro x hx hxp
      exact hn.1 x hx hxp
    · exact ih _ hr hn.2

/-! ## The canonical form -/

/-- Every key is above a bound. -/
def keysAbove (b : Nat) (m : Amap α) : Prop := ∀ p ∈ m, b < p.1

omit [DecidableEq α] in
theorem arising_cons (j : Nat) (w : α) (r : Amap α) : arising ((j, w) :: r) = true ↔ keysAbove j r ∧ arising r = true := by
  induction r generalizing j w with
  | nil => simp [arising, keysAbove]
  | cons p t ih =>
    obtain ⟨i, x⟩ := p
    simp only [arising, Bool.and_eq_true, decide_eq_true_eq]
    constructor
    · rintro ⟨hlt, ha⟩
      refine ⟨fun q hq => ?_, ha⟩
      rcases List.mem_cons.mp hq with rfl | hq
      · exact hlt
      · exact lt_trans hlt (((ih i x).mp ha).1 q hq)
    · rintro ⟨hk, ha⟩
      exact ⟨hk _ List.mem_cons_self, ha⟩

omit [DecidableEq α] in
theorem keysAbove_aput {b : Nat} {m : Amap α} (k : Nat) (v : α) (hb : b < k) (h : keysAbove b m) :
    keysAbove b (aput m k v) := by
  induction m with
  | nil => simpa [aput, keysAbove] using hb
  | cons p r ih =>
    obtain ⟨j, w⟩ := p
    have hr : keysAbove b r := fun q hq => h q (List.mem_cons_of_mem _ hq)
    have hj : b < j := h (j, w) List.mem_cons_self
    simp only [aput]
    split_ifs <;> intro q hq <;> rcases List.mem_cons.mp hq with rfl | hq
    · exact hb
    · exact h q hq
    · exact hb
    · exact hr q hq
    · exact hj
    · exact ih hr q hq

omit [DecidableEq α] in
@[simp] theorem arising_nil : arising ([] : Amap α) = true := rfl

omit [DecidableEq α] in
theorem arising_aput {m : Amap α} (k : Nat) (v : α) (h : arising m = true) : arising (aput m k v) = true := by
  induction m with
  | nil => rfl
  | cons p r ih =>
    obtain ⟨j, w⟩ := p
    have h' := (arising_cons j w r).mp h
    simp only [aput]
    split_ifs with h1 h2
    · exact (arising_cons _ _ _).mpr ⟨fun q hq => by
        rcases List.mem_cons.mp hq with rfl | hq
        · exact h1
        · exact lt_trans h1 (h'.1 q hq), h⟩
    · subst h2; exact (arising_cons _ _ _).mpr h'
    · exact (arising_cons _ _ _).mpr ⟨keysAbove_aput k v (by omega) h'.1, ih h'.2⟩

omit [DecidableEq α] in
theorem arising_filter {m : Amap α} (p : Nat × α → Bool) (h : arising m = true) : arising (m.filter p) = true := by
  induction m with
  | nil => rfl
  | cons q r ih =>
    obtain ⟨j, w⟩ := q
    have h' := (arising_cons j w r).mp h
    by_cases hp : p (j, w)
    · rw [List.filter_cons_of_pos hp]
      exact (arising_cons _ _ _).mpr ⟨fun x hx => h'.1 x ((List.mem_filter.mp hx).1), ih h'.2⟩
    · rw [List.filter_cons_of_neg hp]; exact ih h'.2

omit [DecidableEq α] in
theorem mem_aerase {m : Amap α} {k : Nat} {q : Nat × α} (h : q ∈ aerase m k) : q ∈ m := by
  induction m with
  | nil => exact h
  | cons p r ih =>
    obtain ⟨j, w⟩ := p
    simp only [aerase] at h
    split_ifs at h
    · exact List.mem_cons_of_mem _ (ih h)
    · rcases List.mem_cons.mp h with rfl | h
      · exact List.mem_cons_self
      · exact List.mem_cons_of_mem _ (ih h)

omit [DecidableEq α] in
theorem arising_aerase {m : Amap α} (k : Nat) (h : arising m = true) : arising (aerase m k) = true := by
  induction m with
  | nil => rfl
  | cons p r ih =>
    obtain ⟨j, w⟩ := p
    have h' := (arising_cons j w r).mp h
    simp only [aerase]
    split_ifs
    · exact ih h'.2
    · exact (arising_cons _ _ _).mpr ⟨fun x hx => h'.1 x (mem_aerase hx), ih h'.2⟩

omit [DecidableEq α] in
theorem mem_aput {m : Amap α} {k : Nat} {v : α} {q : Nat × α} (h : q ∈ aput m k v) : q = (k, v) ∨ q ∈ m := by
  induction m with
  | nil => exact .inl (by simpa [aput] using h)
  | cons p r ih =>
    obtain ⟨j, w⟩ := p
    simp only [aput] at h
    split_ifs at h
    · rcases List.mem_cons.mp h with h | h
      · exact .inl h
      · exact .inr h
    · rcases List.mem_cons.mp h with h | h
      · exact .inl h
      · exact .inr (List.mem_cons_of_mem _ h)
    · rcases List.mem_cons.mp h with rfl | h
      · exact .inr List.mem_cons_self
      · exact (ih h).imp id (List.mem_cons_of_mem _)

theorem aclean_asetD {m : Amap α} {d : α} (k : Nat) (v : α) (h : aclean m d = true) :
    aclean (asetD m d k v) d = true := by
  simp only [aclean, List.all_eq_true, Bool.not_eq_eq_eq_not, Bool.not_true, decide_eq_false_iff_not] at *
  unfold asetD
  split_ifs with hv
  · exact fun q hq => h q (mem_aerase hq)
  · exact fun q hq => by rcases mem_aput hq with rfl | hq; exacts [hv, h q hq]

theorem aclean_filter {m : Amap α} {d : α} (p : Nat × α → Bool) (h : aclean m d = true) :
    aclean (m.filter p) d = true := by
  simp only [aclean, List.all_eq_true] at *
  exact fun q hq => h q ((List.mem_filter.mp hq).1)

theorem arising_asetD {m : Amap α} {d : α} (k : Nat) (v : α) (h : arising m = true) :
    arising (asetD m d k v) = true := by
  unfold asetD; split_ifs; exacts [arising_aerase k h, arising_aput k v h]

/-! ## Memory -/

theorem memWf_asetD {m : List Host.Cell} (k : Nat) (v : Byte) (h : memWf m = true) :
    memWf (asetD m memDefault k v) = true := by
  simp only [memWf, Bool.and_eq_true] at *
  exact ⟨arising_asetD k v h.1, aclean_asetD k v h.2⟩

theorem memWf_foldl_asetD (l : List Host.Cell) {m : List Host.Cell} (h : memWf m = true) :
    memWf (l.foldl (fun m p => asetD m memDefault p.1 p.2) m) = true := by
  induction l generalizing m with
  | nil => exact h
  | cons p r ih => exact ih (memWf_asetD _ _ h)

theorem memWf_filter {m : List Host.Cell} (p : Host.Cell → Bool) (h : memWf m = true) : memWf (m.filter p) = true := by
  simp only [memWf, Bool.and_eq_true] at *
  exact ⟨arising_filter p h.1, aclean_filter p h.2⟩

end Sys2Proof.Machine
end

