-- ==== Sys2Proof/Laws/State.lean ====
section
/-!
SUPPORT. The fields of a state after each named update: the field that it writes, and the fields that proofs read most
and that it leaves alone.
-/

namespace Sys2Proof.Machine

@[simp] theorem setCtx_ctxs (s : State) (k : Nat) (c : Ctx) : (setCtx s k c).ctxs = aput s.ctxs k c := rfl
@[simp] theorem setCtx_groups (s : State) (k : Nat) (c : Ctx) : (setCtx s k c).groups = s.groups := rfl
@[simp] theorem setCtx_frames (s : State) (k : Nat) (c : Ctx) : (setCtx s k c).frames = s.frames := rfl
@[simp] theorem setCtx_cohorts (s : State) (k : Nat) (c : Ctx) : (setCtx s k c).cohorts = s.cohorts := rfl
@[simp] theorem setCtx_launches (s : State) (k : Nat) (c : Ctx) : (setCtx s k c).launches = s.launches := rfl
@[simp] theorem setCtx_vis (s : State) (k : Nat) (c : Ctx) : (setCtx s k c).vis = s.vis := rfl
@[simp] theorem setCtx_mem (s : State) (k : Nat) (c : Ctx) : (setCtx s k c).mem = s.mem := rfl
@[simp] theorem setCtx_dirty (s : State) (k : Nat) (c : Ctx) : (setCtx s k c).dirty = s.dirty := rfl
@[simp] theorem setCtx_exact (s : State) (k : Nat) (c : Ctx) : (setCtx s k c).exact = s.exact := rfl
@[simp] theorem setCtx_keptBy (s : State) (k : Nat) (c : Ctx) : (setCtx s k c).keptBy = s.keptBy := rfl
@[simp] theorem setCtx_sealed (s : State) (k : Nat) (c : Ctx) : (setCtx s k c).sealed = s.sealed := rfl
@[simp] theorem setCtx_poison (s : State) (k : Nat) (c : Ctx) : (setCtx s k c).poison = s.poison := rfl
@[simp] theorem setCtx_agenda (s : State) (k : Nat) (c : Ctx) : (setCtx s k c).agenda = s.agenda := rfl
@[simp] theorem setCtx_cur (s : State) (k : Nat) (c : Ctx) : (setCtx s k c).cur = s.cur := rfl
@[simp] theorem setCtx_time (s : State) (k : Nat) (c : Ctx) : (setCtx s k c).time = s.time := rfl
@[simp] theorem setCtx_powered (s : State) (k : Nat) (c : Ctx) : (setCtx s k c).powered = s.powered := rfl

@[simp] theorem modCtx_ctxs (s : State) (k : Nat) (f : Ctx → Ctx) : (modCtx s k f).ctxs = amod s.ctxs k f := rfl
@[simp] theorem modCtx_groups (s : State) (k : Nat) (f : Ctx → Ctx) : (modCtx s k f).groups = s.groups := rfl
@[simp] theorem modCtx_frames (s : State) (k : Nat) (f : Ctx → Ctx) : (modCtx s k f).frames = s.frames := rfl
@[simp] theorem modCtx_cohorts (s : State) (k : Nat) (f : Ctx → Ctx) : (modCtx s k f).cohorts = s.cohorts := rfl
@[simp] theorem modCtx_launches (s : State) (k : Nat) (f : Ctx → Ctx) : (modCtx s k f).launches = s.launches := rfl
@[simp] theorem modCtx_vis (s : State) (k : Nat) (f : Ctx → Ctx) : (modCtx s k f).vis = s.vis := rfl
@[simp] theorem modCtx_mem (s : State) (k : Nat) (f : Ctx → Ctx) : (modCtx s k f).mem = s.mem := rfl
@[simp] theorem modCtx_dirty (s : State) (k : Nat) (f : Ctx → Ctx) : (modCtx s k f).dirty = s.dirty := rfl
@[simp] theorem modCtx_exact (s : State) (k : Nat) (f : Ctx → Ctx) : (modCtx s k f).exact = s.exact := rfl
@[simp] theorem modCtx_keptBy (s : State) (k : Nat) (f : Ctx → Ctx) : (modCtx s k f).keptBy = s.keptBy := rfl
@[simp] theorem modCtx_sealed (s : State) (k : Nat) (f : Ctx → Ctx) : (modCtx s k f).sealed = s.sealed := rfl
@[simp] theorem modCtx_poison (s : State) (k : Nat) (f : Ctx → Ctx) : (modCtx s k f).poison = s.poison := rfl
@[simp] theorem modCtx_agenda (s : State) (k : Nat) (f : Ctx → Ctx) : (modCtx s k f).agenda = s.agenda := rfl
@[simp] theorem modCtx_cur (s : State) (k : Nat) (f : Ctx → Ctx) : (modCtx s k f).cur = s.cur := rfl
@[simp] theorem modCtx_time (s : State) (k : Nat) (f : Ctx → Ctx) : (modCtx s k f).time = s.time := rfl
@[simp] theorem modCtx_powered (s : State) (k : Nat) (f : Ctx → Ctx) : (modCtx s k f).powered = s.powered := rfl

@[simp] theorem modGroup_groups (s : State) (k : Nat) (f : Group → Group) : (modGroup s k f).groups = amod s.groups k f := rfl
@[simp] theorem modGroup_ctxs (s : State) (k : Nat) (f : Group → Group) : (modGroup s k f).ctxs = s.ctxs := rfl
@[simp] theorem modGroup_frames (s : State) (k : Nat) (f : Group → Group) : (modGroup s k f).frames = s.frames := rfl
@[simp] theorem modGroup_cohorts (s : State) (k : Nat) (f : Group → Group) : (modGroup s k f).cohorts = s.cohorts := rfl
@[simp] theorem modGroup_launches (s : State) (k : Nat) (f : Group → Group) : (modGroup s k f).launches = s.launches := rfl
@[simp] theorem modGroup_vis (s : State) (k : Nat) (f : Group → Group) : (modGroup s k f).vis = s.vis := rfl
@[simp] theorem modGroup_mem (s : State) (k : Nat) (f : Group → Group) : (modGroup s k f).mem = s.mem := rfl
@[simp] theorem modGroup_dirty (s : State) (k : Nat) (f : Group → Group) : (modGroup s k f).dirty = s.dirty := rfl
@[simp] theorem modGroup_exact (s : State) (k : Nat) (f : Group → Group) : (modGroup s k f).exact = s.exact := rfl
@[simp] theorem modGroup_keptBy (s : State) (k : Nat) (f : Group → Group) : (modGroup s k f).keptBy = s.keptBy := rfl
@[simp] theorem modGroup_sealed (s : State) (k : Nat) (f : Group → Group) : (modGroup s k f).sealed = s.sealed := rfl
@[simp] theorem modGroup_poison (s : State) (k : Nat) (f : Group → Group) : (modGroup s k f).poison = s.poison := rfl
@[simp] theorem modGroup_agenda (s : State) (k : Nat) (f : Group → Group) : (modGroup s k f).agenda = s.agenda := rfl
@[simp] theorem modGroup_cur (s : State) (k : Nat) (f : Group → Group) : (modGroup s k f).cur = s.cur := rfl
@[simp] theorem modGroup_time (s : State) (k : Nat) (f : Group → Group) : (modGroup s k f).time = s.time := rfl
@[simp] theorem modGroup_powered (s : State) (k : Nat) (f : Group → Group) : (modGroup s k f).powered = s.powered := rfl

@[simp] theorem modFrame_frames (s : State) (k : Nat) (f : Frame → Frame) : (modFrame s k f).frames = amod s.frames k f := rfl
@[simp] theorem modFrame_ctxs (s : State) (k : Nat) (f : Frame → Frame) : (modFrame s k f).ctxs = s.ctxs := rfl
@[simp] theorem modFrame_groups (s : State) (k : Nat) (f : Frame → Frame) : (modFrame s k f).groups = s.groups := rfl
@[simp] theorem modFrame_cohorts (s : State) (k : Nat) (f : Frame → Frame) : (modFrame s k f).cohorts = s.cohorts := rfl
@[simp] theorem modFrame_launches (s : State) (k : Nat) (f : Frame → Frame) : (modFrame s k f).launches = s.launches := rfl
@[simp] theorem modFrame_vis (s : State) (k : Nat) (f : Frame → Frame) : (modFrame s k f).vis = s.vis := rfl
@[simp] theorem modFrame_mem (s : State) (k : Nat) (f : Frame → Frame) : (modFrame s k f).mem = s.mem := rfl
@[simp] theorem modFrame_dirty (s : State) (k : Nat) (f : Frame → Frame) : (modFrame s k f).dirty = s.dirty := rfl
@[simp] theorem modFrame_exact (s : State) (k : Nat) (f : Frame → Frame) : (modFrame s k f).exact = s.exact := rfl
@[simp] theorem modFrame_keptBy (s : State) (k : Nat) (f : Frame → Frame) : (modFrame s k f).keptBy = s.keptBy := rfl
@[simp] theorem modFrame_sealed (s : State) (k : Nat) (f : Frame → Frame) : (modFrame s k f).sealed = s.sealed := rfl
@[simp] theorem modFrame_poison (s : State) (k : Nat) (f : Frame → Frame) : (modFrame s k f).poison = s.poison := rfl
@[simp] theorem modFrame_agenda (s : State) (k : Nat) (f : Frame → Frame) : (modFrame s k f).agenda = s.agenda := rfl
@[simp] theorem modFrame_cur (s : State) (k : Nat) (f : Frame → Frame) : (modFrame s k f).cur = s.cur := rfl
@[simp] theorem modFrame_time (s : State) (k : Nat) (f : Frame → Frame) : (modFrame s k f).time = s.time := rfl
@[simp] theorem modFrame_powered (s : State) (k : Nat) (f : Frame → Frame) : (modFrame s k f).powered = s.powered := rfl

@[simp] theorem modCohort_cohorts (s : State) (k : Nat) (f : Cohort → Cohort) : (modCohort s k f).cohorts = amod s.cohorts k f := rfl
@[simp] theorem modCohort_ctxs (s : State) (k : Nat) (f : Cohort → Cohort) : (modCohort s k f).ctxs = s.ctxs := rfl
@[simp] theorem modCohort_groups (s : State) (k : Nat) (f : Cohort → Cohort) : (modCohort s k f).groups = s.groups := rfl
@[simp] theorem modCohort_frames (s : State) (k : Nat) (f : Cohort → Cohort) : (modCohort s k f).frames = s.frames := rfl
@[simp] theorem modCohort_launches (s : State) (k : Nat) (f : Cohort → Cohort) : (modCohort s k f).launches = s.launches := rfl
@[simp] theorem modCohort_vis (s : State) (k : Nat) (f : Cohort → Cohort) : (modCohort s k f).vis = s.vis := rfl
@[simp] theorem modCohort_mem (s : State) (k : Nat) (f : Cohort → Cohort) : (modCohort s k f).mem = s.mem := rfl
@[simp] theorem modCohort_dirty (s : State) (k : Nat) (f : Cohort → Cohort) : (modCohort s k f).dirty = s.dirty := rfl
@[simp] theorem modCohort_exact (s : State) (k : Nat) (f : Cohort → Cohort) : (modCohort s k f).exact = s.exact := rfl
@[simp] theorem modCohort_keptBy (s : State) (k : Nat) (f : Cohort → Cohort) : (modCohort s k f).keptBy = s.keptBy := rfl
@[simp] theorem modCohort_sealed (s : State) (k : Nat) (f : Cohort → Cohort) : (modCohort s k f).sealed = s.sealed := rfl
@[simp] theorem modCohort_poison (s : State) (k : Nat) (f : Cohort → Cohort) : (modCohort s k f).poison = s.poison := rfl
@[simp] theorem modCohort_agenda (s : State) (k : Nat) (f : Cohort → Cohort) : (modCohort s k f).agenda = s.agenda := rfl
@[simp] theorem modCohort_cur (s : State) (k : Nat) (f : Cohort → Cohort) : (modCohort s k f).cur = s.cur := rfl
@[simp] theorem modCohort_time (s : State) (k : Nat) (f : Cohort → Cohort) : (modCohort s k f).time = s.time := rfl
@[simp] theorem modCohort_powered (s : State) (k : Nat) (f : Cohort → Cohort) : (modCohort s k f).powered = s.powered := rfl

@[simp] theorem modLaunch_launches (s : State) (k : Nat) (f : Launch → Launch) : (modLaunch s k f).launches = amod s.launches k f := rfl
@[simp] theorem modLaunch_ctxs (s : State) (k : Nat) (f : Launch → Launch) : (modLaunch s k f).ctxs = s.ctxs := rfl
@[simp] theorem modLaunch_groups (s : State) (k : Nat) (f : Launch → Launch) : (modLaunch s k f).groups = s.groups := rfl
@[simp] theorem modLaunch_frames (s : State) (k : Nat) (f : Launch → Launch) : (modLaunch s k f).frames = s.frames := rfl
@[simp] theorem modLaunch_cohorts (s : State) (k : Nat) (f : Launch → Launch) : (modLaunch s k f).cohorts = s.cohorts := rfl
@[simp] theorem modLaunch_vis (s : State) (k : Nat) (f : Launch → Launch) : (modLaunch s k f).vis = s.vis := rfl
@[simp] theorem modLaunch_mem (s : State) (k : Nat) (f : Launch → Launch) : (modLaunch s k f).mem = s.mem := rfl
@[simp] theorem modLaunch_dirty (s : State) (k : Nat) (f : Launch → Launch) : (modLaunch s k f).dirty = s.dirty := rfl
@[simp] theorem modLaunch_exact (s : State) (k : Nat) (f : Launch → Launch) : (modLaunch s k f).exact = s.exact := rfl
@[simp] theorem modLaunch_keptBy (s : State) (k : Nat) (f : Launch → Launch) : (modLaunch s k f).keptBy = s.keptBy := rfl
@[simp] theorem modLaunch_sealed (s : State) (k : Nat) (f : Launch → Launch) : (modLaunch s k f).sealed = s.sealed := rfl
@[simp] theorem modLaunch_poison (s : State) (k : Nat) (f : Launch → Launch) : (modLaunch s k f).poison = s.poison := rfl
@[simp] theorem modLaunch_agenda (s : State) (k : Nat) (f : Launch → Launch) : (modLaunch s k f).agenda = s.agenda := rfl
@[simp] theorem modLaunch_cur (s : State) (k : Nat) (f : Launch → Launch) : (modLaunch s k f).cur = s.cur := rfl
@[simp] theorem modLaunch_time (s : State) (k : Nat) (f : Launch → Launch) : (modLaunch s k f).time = s.time := rfl
@[simp] theorem modLaunch_powered (s : State) (k : Nat) (f : Launch → Launch) : (modLaunch s k f).powered = s.powered := rfl

@[simp] theorem modVi_vis (s : State) (k : Nat) (f : Vi → Vi) : (modVi s k f).vis = aput s.vis k (f (viOf s k)) := rfl
@[simp] theorem modVi_ctxs (s : State) (k : Nat) (f : Vi → Vi) : (modVi s k f).ctxs = s.ctxs := rfl
@[simp] theorem modVi_groups (s : State) (k : Nat) (f : Vi → Vi) : (modVi s k f).groups = s.groups := rfl
@[simp] theorem modVi_frames (s : State) (k : Nat) (f : Vi → Vi) : (modVi s k f).frames = s.frames := rfl
@[simp] theorem modVi_cohorts (s : State) (k : Nat) (f : Vi → Vi) : (modVi s k f).cohorts = s.cohorts := rfl
@[simp] theorem modVi_launches (s : State) (k : Nat) (f : Vi → Vi) : (modVi s k f).launches = s.launches := rfl
@[simp] theorem modVi_mem (s : State) (k : Nat) (f : Vi → Vi) : (modVi s k f).mem = s.mem := rfl
@[simp] theorem modVi_dirty (s : State) (k : Nat) (f : Vi → Vi) : (modVi s k f).dirty = s.dirty := rfl
@[simp] theorem modVi_exact (s : State) (k : Nat) (f : Vi → Vi) : (modVi s k f).exact = s.exact := rfl
@[simp] theorem modVi_keptBy (s : State) (k : Nat) (f : Vi → Vi) : (modVi s k f).keptBy = s.keptBy := rfl
@[simp] theorem modVi_sealed (s : State) (k : Nat) (f : Vi → Vi) : (modVi s k f).sealed = s.sealed := rfl
@[simp] theorem modVi_poison (s : State) (k : Nat) (f : Vi → Vi) : (modVi s k f).poison = s.poison := rfl
@[simp] theorem modVi_agenda (s : State) (k : Nat) (f : Vi → Vi) : (modVi s k f).agenda = s.agenda := rfl
@[simp] theorem modVi_cur (s : State) (k : Nat) (f : Vi → Vi) : (modVi s k f).cur = s.cur := rfl
@[simp] theorem modVi_time (s : State) (k : Nat) (f : Vi → Vi) : (modVi s k f).time = s.time := rfl
@[simp] theorem modVi_powered (s : State) (k : Nat) (f : Vi → Vi) : (modVi s k f).powered = s.powered := rfl

@[simp] theorem modRegs_ctxs (s : State) (k : Nat) (f : CtxRegs → CtxRegs) : (modRegs s k f).ctxs = amod s.ctxs k (fun c => { c with r := f c.r }) := rfl
@[simp] theorem modRegs_groups (s : State) (k : Nat) (f : CtxRegs → CtxRegs) : (modRegs s k f).groups = s.groups := rfl
@[simp] theorem modRegs_frames (s : State) (k : Nat) (f : CtxRegs → CtxRegs) : (modRegs s k f).frames = s.frames := rfl
@[simp] theorem modRegs_cohorts (s : State) (k : Nat) (f : CtxRegs → CtxRegs) : (modRegs s k f).cohorts = s.cohorts := rfl
@[simp] theorem modRegs_launches (s : State) (k : Nat) (f : CtxRegs → CtxRegs) : (modRegs s k f).launches = s.launches := rfl
@[simp] theorem modRegs_vis (s : State) (k : Nat) (f : CtxRegs → CtxRegs) : (modRegs s k f).vis = s.vis := rfl
@[simp] theorem modRegs_mem (s : State) (k : Nat) (f : CtxRegs → CtxRegs) : (modRegs s k f).mem = s.mem := rfl
@[simp] theorem modRegs_dirty (s : State) (k : Nat) (f : CtxRegs → CtxRegs) : (modRegs s k f).dirty = s.dirty := rfl
@[simp] theorem modRegs_exact (s : State) (k : Nat) (f : CtxRegs → CtxRegs) : (modRegs s k f).exact = s.exact := rfl
@[simp] theorem modRegs_keptBy (s : State) (k : Nat) (f : CtxRegs → CtxRegs) : (modRegs s k f).keptBy = s.keptBy := rfl
@[simp] theorem modRegs_sealed (s : State) (k : Nat) (f : CtxRegs → CtxRegs) : (modRegs s k f).sealed = s.sealed := rfl
@[simp] theorem modRegs_poison (s : State) (k : Nat) (f : CtxRegs → CtxRegs) : (modRegs s k f).poison = s.poison := rfl
@[simp] theorem modRegs_agenda (s : State) (k : Nat) (f : CtxRegs → CtxRegs) : (modRegs s k f).agenda = s.agenda := rfl
@[simp] theorem modRegs_cur (s : State) (k : Nat) (f : CtxRegs → CtxRegs) : (modRegs s k f).cur = s.cur := rfl
@[simp] theorem modRegs_time (s : State) (k : Nat) (f : CtxRegs → CtxRegs) : (modRegs s k f).time = s.time := rfl
@[simp] theorem modRegs_powered (s : State) (k : Nat) (f : CtxRegs → CtxRegs) : (modRegs s k f).powered = s.powered := rfl

@[simp] theorem later_agenda (s : State) (i : Instr) : (later s i).agenda = s.agenda ++ [i] := rfl
@[simp] theorem later_ctxs (s : State) (i : Instr) : (later s i).ctxs = s.ctxs := rfl
@[simp] theorem later_groups (s : State) (i : Instr) : (later s i).groups = s.groups := rfl
@[simp] theorem later_frames (s : State) (i : Instr) : (later s i).frames = s.frames := rfl
@[simp] theorem later_cohorts (s : State) (i : Instr) : (later s i).cohorts = s.cohorts := rfl
@[simp] theorem later_launches (s : State) (i : Instr) : (later s i).launches = s.launches := rfl
@[simp] theorem later_vis (s : State) (i : Instr) : (later s i).vis = s.vis := rfl
@[simp] theorem later_mem (s : State) (i : Instr) : (later s i).mem = s.mem := rfl
@[simp] theorem later_dirty (s : State) (i : Instr) : (later s i).dirty = s.dirty := rfl
@[simp] theorem later_exact (s : State) (i : Instr) : (later s i).exact = s.exact := rfl
@[simp] theorem later_keptBy (s : State) (i : Instr) : (later s i).keptBy = s.keptBy := rfl
@[simp] theorem later_sealed (s : State) (i : Instr) : (later s i).sealed = s.sealed := rfl
@[simp] theorem later_poison (s : State) (i : Instr) : (later s i).poison = s.poison := rfl
@[simp] theorem later_cur (s : State) (i : Instr) : (later s i).cur = s.cur := rfl
@[simp] theorem later_time (s : State) (i : Instr) : (later s i).time = s.time := rfl
@[simp] theorem later_powered (s : State) (i : Instr) : (later s i).powered = s.powered := rfl

@[simp] theorem sooner_agenda (s : State) (i : Instr) : (sooner s i).agenda = i :: s.agenda := rfl
@[simp] theorem sooner_ctxs (s : State) (i : Instr) : (sooner s i).ctxs = s.ctxs := rfl
@[simp] theorem sooner_groups (s : State) (i : Instr) : (sooner s i).groups = s.groups := rfl
@[simp] theorem sooner_frames (s : State) (i : Instr) : (sooner s i).frames = s.frames := rfl
@[simp] theorem sooner_cohorts (s : State) (i : Instr) : (sooner s i).cohorts = s.cohorts := rfl
@[simp] theorem sooner_launches (s : State) (i : Instr) : (sooner s i).launches = s.launches := rfl
@[simp] theorem sooner_vis (s : State) (i : Instr) : (sooner s i).vis = s.vis := rfl
@[simp] theorem sooner_mem (s : State) (i : Instr) : (sooner s i).mem = s.mem := rfl
@[simp] theorem sooner_dirty (s : State) (i : Instr) : (sooner s i).dirty = s.dirty := rfl
@[simp] theorem sooner_exact (s : State) (i : Instr) : (sooner s i).exact = s.exact := rfl
@[simp] theorem sooner_keptBy (s : State) (i : Instr) : (sooner s i).keptBy = s.keptBy := rfl
@[simp] theorem sooner_sealed (s : State) (i : Instr) : (sooner s i).sealed = s.sealed := rfl
@[simp] theorem sooner_poison (s : State) (i : Instr) : (sooner s i).poison = s.poison := rfl
@[simp] theorem sooner_cur (s : State) (i : Instr) : (sooner s i).cur = s.cur := rfl
@[simp] theorem sooner_time (s : State) (i : Instr) : (sooner s i).time = s.time := rfl
@[simp] theorem sooner_powered (s : State) (i : Instr) : (sooner s i).powered = s.powered := rfl

@[simp] theorem writeByte_dirty (s : State) (a : Nat) (b : Byte) : (writeByte s a b).dirty = aput s.dirty a b := rfl
@[simp] theorem writeByte_ctxs (s : State) (a : Nat) (b : Byte) : (writeByte s a b).ctxs = s.ctxs := rfl
@[simp] theorem writeByte_groups (s : State) (a : Nat) (b : Byte) : (writeByte s a b).groups = s.groups := rfl
@[simp] theorem writeByte_frames (s : State) (a : Nat) (b : Byte) : (writeByte s a b).frames = s.frames := rfl
@[simp] theorem writeByte_cohorts (s : State) (a : Nat) (b : Byte) : (writeByte s a b).cohorts = s.cohorts := rfl
@[simp] theorem writeByte_launches (s : State) (a : Nat) (b : Byte) : (writeByte s a b).launches = s.launches := rfl
@[simp] theorem writeByte_vis (s : State) (a : Nat) (b : Byte) : (writeByte s a b).vis = s.vis := rfl
@[simp] theorem writeByte_mem (s : State) (a : Nat) (b : Byte) : (writeByte s a b).mem = s.mem := rfl
@[simp] theorem writeByte_exact (s : State) (a : Nat) (b : Byte) : (writeByte s a b).exact = aerase s.exact a := rfl
@[simp] theorem writeByte_keptBy (s : State) (a : Nat) (b : Byte) : (writeByte s a b).keptBy = s.keptBy := rfl
@[simp] theorem writeByte_sealed (s : State) (a : Nat) (b : Byte) : (writeByte s a b).sealed = s.sealed := rfl
@[simp] theorem writeByte_poison (s : State) (a : Nat) (b : Byte) : (writeByte s a b).poison = s.poison := rfl
@[simp] theorem writeByte_agenda (s : State) (a : Nat) (b : Byte) : (writeByte s a b).agenda = s.agenda := rfl
@[simp] theorem writeByte_cur (s : State) (a : Nat) (b : Byte) : (writeByte s a b).cur = s.cur := rfl
@[simp] theorem writeByte_time (s : State) (a : Nat) (b : Byte) : (writeByte s a b).time = s.time := rfl
@[simp] theorem writeByte_powered (s : State) (a : Nat) (b : Byte) : (writeByte s a b).powered = s.powered := rfl

@[simp] theorem clearPoison_poison (s : State) (a : Nat) : (clearPoison s a).poison = s.poison.filter (· ≠ a) := rfl
@[simp] theorem clearPoison_ctxs (s : State) (a : Nat) : (clearPoison s a).ctxs = s.ctxs := rfl
@[simp] theorem clearPoison_groups (s : State) (a : Nat) : (clearPoison s a).groups = s.groups := rfl
@[simp] theorem clearPoison_frames (s : State) (a : Nat) : (clearPoison s a).frames = s.frames := rfl
@[simp] theorem clearPoison_cohorts (s : State) (a : Nat) : (clearPoison s a).cohorts = s.cohorts := rfl
@[simp] theorem clearPoison_launches (s : State) (a : Nat) : (clearPoison s a).launches = s.launches := rfl
@[simp] theorem clearPoison_vis (s : State) (a : Nat) : (clearPoison s a).vis = s.vis := rfl
@[simp] theorem clearPoison_mem (s : State) (a : Nat) : (clearPoison s a).mem = s.mem := rfl
@[simp] theorem clearPoison_dirty (s : State) (a : Nat) : (clearPoison s a).dirty = s.dirty := rfl
@[simp] theorem clearPoison_exact (s : State) (a : Nat) : (clearPoison s a).exact = s.exact := rfl
@[simp] theorem clearPoison_keptBy (s : State) (a : Nat) : (clearPoison s a).keptBy = s.keptBy := rfl
@[simp] theorem clearPoison_sealed (s : State) (a : Nat) : (clearPoison s a).sealed = s.sealed := rfl
@[simp] theorem clearPoison_agenda (s : State) (a : Nat) : (clearPoison s a).agenda = s.agenda := rfl
@[simp] theorem clearPoison_cur (s : State) (a : Nat) : (clearPoison s a).cur = s.cur := rfl
@[simp] theorem clearPoison_time (s : State) (a : Nat) : (clearPoison s a).time = s.time := rfl
@[simp] theorem clearPoison_powered (s : State) (a : Nat) : (clearPoison s a).powered = s.powered := rfl

@[simp] theorem putBand_bands (s : State) (k : Nat) (b : Band) : (putBand s k b).bands = aput s.bands k b := rfl
@[simp] theorem putBand_ctxs (s : State) (k : Nat) (b : Band) : (putBand s k b).ctxs = s.ctxs := rfl
@[simp] theorem putBand_groups (s : State) (k : Nat) (b : Band) : (putBand s k b).groups = s.groups := rfl
@[simp] theorem putBand_frames (s : State) (k : Nat) (b : Band) : (putBand s k b).frames = s.frames := rfl
@[simp] theorem putBand_cohorts (s : State) (k : Nat) (b : Band) : (putBand s k b).cohorts = s.cohorts := rfl
@[simp] theorem putBand_launches (s : State) (k : Nat) (b : Band) : (putBand s k b).launches = s.launches := rfl
@[simp] theorem putBand_vis (s : State) (k : Nat) (b : Band) : (putBand s k b).vis = s.vis := rfl
@[simp] theorem putBand_mem (s : State) (k : Nat) (b : Band) : (putBand s k b).mem = s.mem := rfl
@[simp] theorem putBand_dirty (s : State) (k : Nat) (b : Band) : (putBand s k b).dirty = s.dirty := rfl
@[simp] theorem putBand_exact (s : State) (k : Nat) (b : Band) : (putBand s k b).exact = s.exact := rfl
@[simp] theorem putBand_keptBy (s : State) (k : Nat) (b : Band) : (putBand s k b).keptBy = s.keptBy := rfl
@[simp] theorem putBand_sealed (s : State) (k : Nat) (b : Band) : (putBand s k b).sealed = s.sealed := rfl
@[simp] theorem putBand_poison (s : State) (k : Nat) (b : Band) : (putBand s k b).poison = s.poison := rfl
@[simp] theorem putBand_agenda (s : State) (k : Nat) (b : Band) : (putBand s k b).agenda = s.agenda := rfl
@[simp] theorem putBand_cur (s : State) (k : Nat) (b : Band) : (putBand s k b).cur = s.cur := rfl
@[simp] theorem putBand_time (s : State) (k : Nat) (b : Band) : (putBand s k b).time = s.time := rfl
@[simp] theorem putBand_powered (s : State) (k : Nat) (b : Band) : (putBand s k b).powered = s.powered := rfl

@[simp] theorem putJob_jobs (s : State) (k : Nat) (j : Job) : (putJob s k j).jobs = aput s.jobs k j := rfl
@[simp] theorem putJob_ctxs (s : State) (k : Nat) (j : Job) : (putJob s k j).ctxs = s.ctxs := rfl
@[simp] theorem putJob_groups (s : State) (k : Nat) (j : Job) : (putJob s k j).groups = s.groups := rfl
@[simp] theorem putJob_frames (s : State) (k : Nat) (j : Job) : (putJob s k j).frames = s.frames := rfl
@[simp] theorem putJob_cohorts (s : State) (k : Nat) (j : Job) : (putJob s k j).cohorts = s.cohorts := rfl
@[simp] theorem putJob_launches (s : State) (k : Nat) (j : Job) : (putJob s k j).launches = s.launches := rfl
@[simp] theorem putJob_vis (s : State) (k : Nat) (j : Job) : (putJob s k j).vis = s.vis := rfl
@[simp] theorem putJob_mem (s : State) (k : Nat) (j : Job) : (putJob s k j).mem = s.mem := rfl
@[simp] theorem putJob_dirty (s : State) (k : Nat) (j : Job) : (putJob s k j).dirty = s.dirty := rfl
@[simp] theorem putJob_exact (s : State) (k : Nat) (j : Job) : (putJob s k j).exact = s.exact := rfl
@[simp] theorem putJob_keptBy (s : State) (k : Nat) (j : Job) : (putJob s k j).keptBy = s.keptBy := rfl
@[simp] theorem putJob_sealed (s : State) (k : Nat) (j : Job) : (putJob s k j).sealed = s.sealed := rfl
@[simp] theorem putJob_poison (s : State) (k : Nat) (j : Job) : (putJob s k j).poison = s.poison := rfl
@[simp] theorem putJob_agenda (s : State) (k : Nat) (j : Job) : (putJob s k j).agenda = s.agenda := rfl
@[simp] theorem putJob_cur (s : State) (k : Nat) (j : Job) : (putJob s k j).cur = s.cur := rfl
@[simp] theorem putJob_time (s : State) (k : Nat) (j : Job) : (putJob s k j).time = s.time := rfl
@[simp] theorem putJob_powered (s : State) (k : Nat) (j : Job) : (putJob s k j).powered = s.powered := rfl

@[simp] theorem putXfer_xfers (s : State) (k : Nat) (x : Xfer) : (putXfer s k x).xfers = aput s.xfers k x := rfl
@[simp] theorem putXfer_ctxs (s : State) (k : Nat) (x : Xfer) : (putXfer s k x).ctxs = s.ctxs := rfl
@[simp] theorem putXfer_groups (s : State) (k : Nat) (x : Xfer) : (putXfer s k x).groups = s.groups := rfl
@[simp] theorem putXfer_frames (s : State) (k : Nat) (x : Xfer) : (putXfer s k x).frames = s.frames := rfl
@[simp] theorem putXfer_cohorts (s : State) (k : Nat) (x : Xfer) : (putXfer s k x).cohorts = s.cohorts := rfl
@[simp] theorem putXfer_launches (s : State) (k : Nat) (x : Xfer) : (putXfer s k x).launches = s.launches := rfl
@[simp] theorem putXfer_vis (s : State) (k : Nat) (x : Xfer) : (putXfer s k x).vis = s.vis := rfl
@[simp] theorem putXfer_mem (s : State) (k : Nat) (x : Xfer) : (putXfer s k x).mem = s.mem := rfl
@[simp] theorem putXfer_dirty (s : State) (k : Nat) (x : Xfer) : (putXfer s k x).dirty = s.dirty := rfl
@[simp] theorem putXfer_exact (s : State) (k : Nat) (x : Xfer) : (putXfer s k x).exact = s.exact := rfl
@[simp] theorem putXfer_keptBy (s : State) (k : Nat) (x : Xfer) : (putXfer s k x).keptBy = s.keptBy := rfl
@[simp] theorem putXfer_sealed (s : State) (k : Nat) (x : Xfer) : (putXfer s k x).sealed = s.sealed := rfl
@[simp] theorem putXfer_poison (s : State) (k : Nat) (x : Xfer) : (putXfer s k x).poison = s.poison := rfl
@[simp] theorem putXfer_agenda (s : State) (k : Nat) (x : Xfer) : (putXfer s k x).agenda = s.agenda := rfl
@[simp] theorem putXfer_cur (s : State) (k : Nat) (x : Xfer) : (putXfer s k x).cur = s.cur := rfl
@[simp] theorem putXfer_time (s : State) (k : Nat) (x : Xfer) : (putXfer s k x).time = s.time := rfl
@[simp] theorem putXfer_powered (s : State) (k : Nat) (x : Xfer) : (putXfer s k x).powered = s.powered := rfl

@[simp] theorem modMgmt_mgmt (s : State) (f : Mgmt → Mgmt) : (modMgmt s f).mgmt = f s.mgmt := rfl
@[simp] theorem modMgmt_ctxs (s : State) (f : Mgmt → Mgmt) : (modMgmt s f).ctxs = s.ctxs := rfl
@[simp] theorem modMgmt_groups (s : State) (f : Mgmt → Mgmt) : (modMgmt s f).groups = s.groups := rfl
@[simp] theorem modMgmt_frames (s : State) (f : Mgmt → Mgmt) : (modMgmt s f).frames = s.frames := rfl
@[simp] theorem modMgmt_cohorts (s : State) (f : Mgmt → Mgmt) : (modMgmt s f).cohorts = s.cohorts := rfl
@[simp] theorem modMgmt_launches (s : State) (f : Mgmt → Mgmt) : (modMgmt s f).launches = s.launches := rfl
@[simp] theorem modMgmt_vis (s : State) (f : Mgmt → Mgmt) : (modMgmt s f).vis = s.vis := rfl
@[simp] theorem modMgmt_mem (s : State) (f : Mgmt → Mgmt) : (modMgmt s f).mem = s.mem := rfl
@[simp] theorem modMgmt_dirty (s : State) (f : Mgmt → Mgmt) : (modMgmt s f).dirty = s.dirty := rfl
@[simp] theorem modMgmt_exact (s : State) (f : Mgmt → Mgmt) : (modMgmt s f).exact = s.exact := rfl
@[simp] theorem modMgmt_keptBy (s : State) (f : Mgmt → Mgmt) : (modMgmt s f).keptBy = s.keptBy := rfl
@[simp] theorem modMgmt_sealed (s : State) (f : Mgmt → Mgmt) : (modMgmt s f).sealed = s.sealed := rfl
@[simp] theorem modMgmt_poison (s : State) (f : Mgmt → Mgmt) : (modMgmt s f).poison = s.poison := rfl
@[simp] theorem modMgmt_agenda (s : State) (f : Mgmt → Mgmt) : (modMgmt s f).agenda = s.agenda := rfl
@[simp] theorem modMgmt_cur (s : State) (f : Mgmt → Mgmt) : (modMgmt s f).cur = s.cur := rfl
@[simp] theorem modMgmt_time (s : State) (f : Mgmt → Mgmt) : (modMgmt s f).time = s.time := rfl
@[simp] theorem modMgmt_powered (s : State) (f : Mgmt → Mgmt) : (modMgmt s f).powered = s.powered := rfl

@[simp] theorem laterOnce_ctxs (s : State) (i : Instr) : (laterOnce s i).ctxs = s.ctxs := by
  unfold laterOnce; split <;> rfl
@[simp] theorem laterOnce_groups (s : State) (i : Instr) : (laterOnce s i).groups = s.groups := by
  unfold laterOnce; split <;> rfl
@[simp] theorem laterOnce_frames (s : State) (i : Instr) : (laterOnce s i).frames = s.frames := by
  unfold laterOnce; split <;> rfl
@[simp] theorem laterOnce_cohorts (s : State) (i : Instr) : (laterOnce s i).cohorts = s.cohorts := by
  unfold laterOnce; split <;> rfl
@[simp] theorem laterOnce_launches (s : State) (i : Instr) : (laterOnce s i).launches = s.launches := by
  unfold laterOnce; split <;> rfl
@[simp] theorem laterOnce_vis (s : State) (i : Instr) : (laterOnce s i).vis = s.vis := by
  unfold laterOnce; split <;> rfl
@[simp] theorem laterOnce_mem (s : State) (i : Instr) : (laterOnce s i).mem = s.mem := by
  unfold laterOnce; split <;> rfl
@[simp] theorem laterOnce_dirty (s : State) (i : Instr) : (laterOnce s i).dirty = s.dirty := by
  unfold laterOnce; split <;> rfl
@[simp] theorem laterOnce_exact (s : State) (i : Instr) : (laterOnce s i).exact = s.exact := by
  unfold laterOnce; split <;> rfl
@[simp] theorem laterOnce_keptBy (s : State) (i : Instr) : (laterOnce s i).keptBy = s.keptBy := by
  unfold laterOnce; split <;> rfl
@[simp] theorem laterOnce_sealed (s : State) (i : Instr) : (laterOnce s i).sealed = s.sealed := by
  unfold laterOnce; split <;> rfl
@[simp] theorem laterOnce_poison (s : State) (i : Instr) : (laterOnce s i).poison = s.poison := by
  unfold laterOnce; split <;> rfl
@[simp] theorem laterOnce_cur (s : State) (i : Instr) : (laterOnce s i).cur = s.cur := by
  unfold laterOnce; split <;> rfl
@[simp] theorem laterOnce_time (s : State) (i : Instr) : (laterOnce s i).time = s.time := by
  unfold laterOnce; split <;> rfl
@[simp] theorem laterOnce_powered (s : State) (i : Instr) : (laterOnce s i).powered = s.powered := by
  unfold laterOnce; split <;> rfl

@[simp] theorem setPoison_ctxs (s : State) (a : Nat) : (setPoison s a).ctxs = s.ctxs := by
  unfold setPoison; split <;> rfl
@[simp] theorem setPoison_groups (s : State) (a : Nat) : (setPoison s a).groups = s.groups := by
  unfold setPoison; split <;> rfl
@[simp] theorem setPoison_frames (s : State) (a : Nat) : (setPoison s a).frames = s.frames := by
  unfold setPoison; split <;> rfl
@[simp] theorem setPoison_cohorts (s : State) (a : Nat) : (setPoison s a).cohorts = s.cohorts := by
  unfold setPoison; split <;> rfl
@[simp] theorem setPoison_launches (s : State) (a : Nat) : (setPoison s a).launches = s.launches := by
  unfold setPoison; split <;> rfl
@[simp] theorem setPoison_vis (s : State) (a : Nat) : (setPoison s a).vis = s.vis := by
  unfold setPoison; split <;> rfl
@[simp] theorem setPoison_mem (s : State) (a : Nat) : (setPoison s a).mem = s.mem := by
  unfold setPoison; split <;> rfl
@[simp] theorem setPoison_dirty (s : State) (a : Nat) : (setPoison s a).dirty = s.dirty := by
  unfold setPoison; split <;> rfl
@[simp] theorem setPoison_exact (s : State) (a : Nat) : (setPoison s a).exact = s.exact := by
  unfold setPoison; split <;> rfl
@[simp] theorem setPoison_keptBy (s : State) (a : Nat) : (setPoison s a).keptBy = s.keptBy := by
  unfold setPoison; split <;> rfl
@[simp] theorem setPoison_sealed (s : State) (a : Nat) : (setPoison s a).sealed = s.sealed := by
  unfold setPoison; split <;> rfl
@[simp] theorem setPoison_agenda (s : State) (a : Nat) : (setPoison s a).agenda = s.agenda := by
  unfold setPoison; split <;> rfl
@[simp] theorem setPoison_cur (s : State) (a : Nat) : (setPoison s a).cur = s.cur := by
  unfold setPoison; split <;> rfl
@[simp] theorem setPoison_time (s : State) (a : Nat) : (setPoison s a).time = s.time := by
  unfold setPoison; split <;> rfl
@[simp] theorem setPoison_powered (s : State) (a : Nat) : (setPoison s a).powered = s.powered := by
  unfold setPoison; split <;> rfl

@[simp] theorem amber_ctxs (s : State) (c d u a0 a1 a2 a3 : Nat) : (amber s c d u a0 a1 a2 a3).ctxs = s.ctxs := rfl
@[simp] theorem amber_groups (s : State) (c d u a0 a1 a2 a3 : Nat) : (amber s c d u a0 a1 a2 a3).groups = s.groups := rfl
@[simp] theorem amber_frames (s : State) (c d u a0 a1 a2 a3 : Nat) : (amber s c d u a0 a1 a2 a3).frames = s.frames := rfl
@[simp] theorem amber_cohorts (s : State) (c d u a0 a1 a2 a3 : Nat) : (amber s c d u a0 a1 a2 a3).cohorts = s.cohorts := rfl
@[simp] theorem amber_launches (s : State) (c d u a0 a1 a2 a3 : Nat) : (amber s c d u a0 a1 a2 a3).launches = s.launches := rfl
@[simp] theorem amber_vis (s : State) (c d u a0 a1 a2 a3 : Nat) : (amber s c d u a0 a1 a2 a3).vis = s.vis := rfl
@[simp] theorem amber_mem (s : State) (c d u a0 a1 a2 a3 : Nat) : (amber s c d u a0 a1 a2 a3).mem = s.mem := rfl
@[simp] theorem amber_dirty (s : State) (c d u a0 a1 a2 a3 : Nat) : (amber s c d u a0 a1 a2 a3).dirty = s.dirty := rfl
@[simp] theorem amber_exact (s : State) (c d u a0 a1 a2 a3 : Nat) : (amber s c d u a0 a1 a2 a3).exact = s.exact := rfl
@[simp] theorem amber_keptBy (s : State) (c d u a0 a1 a2 a3 : Nat) : (amber s c d u a0 a1 a2 a3).keptBy = s.keptBy := rfl
@[simp] theorem amber_sealed (s : State) (c d u a0 a1 a2 a3 : Nat) : (amber s c d u a0 a1 a2 a3).sealed = s.sealed := rfl
@[simp] theorem amber_poison (s : State) (c d u a0 a1 a2 a3 : Nat) : (amber s c d u a0 a1 a2 a3).poison = s.poison := rfl
@[simp] theorem amber_agenda (s : State) (c d u a0 a1 a2 a3 : Nat) : (amber s c d u a0 a1 a2 a3).agenda = s.agenda := rfl
@[simp] theorem amber_cur (s : State) (c d u a0 a1 a2 a3 : Nat) : (amber s c d u a0 a1 a2 a3).cur = s.cur := rfl
@[simp] theorem amber_time (s : State) (c d u a0 a1 a2 a3 : Nat) : (amber s c d u a0 a1 a2 a3).time = s.time := rfl
@[simp] theorem amber_powered (s : State) (c d u a0 a1 a2 a3 : Nat) : (amber s c d u a0 a1 a2 a3).powered = s.powered := rfl

@[simp] theorem endRegion_groups (s : State) (k : Nat) : (endRegion s k).groups = s.groups := by
  simp [endRegion]
@[simp] theorem endRegion_frames (s : State) (k : Nat) : (endRegion s k).frames = s.frames := by
  simp [endRegion]
@[simp] theorem endRegion_cohorts (s : State) (k : Nat) : (endRegion s k).cohorts = s.cohorts := by
  simp [endRegion]
@[simp] theorem endRegion_launches (s : State) (k : Nat) : (endRegion s k).launches = s.launches := by
  simp [endRegion]
@[simp] theorem endRegion_vis (s : State) (k : Nat) : (endRegion s k).vis = s.vis := by
  simp [endRegion]
@[simp] theorem endRegion_mem (s : State) (k : Nat) : (endRegion s k).mem = s.mem := by
  simp [endRegion]
@[simp] theorem endRegion_dirty (s : State) (k : Nat) : (endRegion s k).dirty = s.dirty := by
  simp [endRegion]
@[simp] theorem endRegion_exact (s : State) (k : Nat) : (endRegion s k).exact = s.exact := by
  simp [endRegion]
@[simp] theorem endRegion_keptBy (s : State) (k : Nat) : (endRegion s k).keptBy = s.keptBy := by
  simp [endRegion]
@[simp] theorem endRegion_sealed (s : State) (k : Nat) : (endRegion s k).sealed = s.sealed := by
  simp [endRegion]
@[simp] theorem endRegion_poison (s : State) (k : Nat) : (endRegion s k).poison = s.poison := by
  simp [endRegion]
@[simp] theorem endRegion_cur (s : State) (k : Nat) : (endRegion s k).cur = s.cur := by
  simp [endRegion]
@[simp] theorem endRegion_time (s : State) (k : Nat) : (endRegion s k).time = s.time := by
  simp [endRegion]
@[simp] theorem endRegion_powered (s : State) (k : Nat) : (endRegion s k).powered = s.powered := by
  simp [endRegion]

@[simp] theorem takeTrap_groups (s : State) (k : Nat) (t : TrapInfo) : (takeTrap s k t).groups = s.groups := by
  simp [takeTrap]
@[simp] theorem takeTrap_frames (s : State) (k : Nat) (t : TrapInfo) : (takeTrap s k t).frames = s.frames := by
  simp [takeTrap]
@[simp] theorem takeTrap_cohorts (s : State) (k : Nat) (t : TrapInfo) : (takeTrap s k t).cohorts = s.cohorts := by
  simp [takeTrap]
@[simp] theorem takeTrap_launches (s : State) (k : Nat) (t : TrapInfo) : (takeTrap s k t).launches = s.launches := by
  simp [takeTrap]
@[simp] theorem takeTrap_vis (s : State) (k : Nat) (t : TrapInfo) : (takeTrap s k t).vis = s.vis := by
  simp [takeTrap]
@[simp] theorem takeTrap_mem (s : State) (k : Nat) (t : TrapInfo) : (takeTrap s k t).mem = s.mem := by
  simp [takeTrap]
@[simp] theorem takeTrap_dirty (s : State) (k : Nat) (t : TrapInfo) : (takeTrap s k t).dirty = s.dirty := by
  simp [takeTrap]
@[simp] theorem takeTrap_exact (s : State) (k : Nat) (t : TrapInfo) : (takeTrap s k t).exact = s.exact := by
  simp [takeTrap]
@[simp] theorem takeTrap_keptBy (s : State) (k : Nat) (t : TrapInfo) : (takeTrap s k t).keptBy = s.keptBy := by
  simp [takeTrap]
@[simp] theorem takeTrap_sealed (s : State) (k : Nat) (t : TrapInfo) : (takeTrap s k t).sealed = s.sealed := by
  simp [takeTrap]
@[simp] theorem takeTrap_poison (s : State) (k : Nat) (t : TrapInfo) : (takeTrap s k t).poison = s.poison := by
  simp [takeTrap]
@[simp] theorem takeTrap_cur (s : State) (k : Nat) (t : TrapInfo) : (takeTrap s k t).cur = s.cur := by
  simp [takeTrap]
@[simp] theorem takeTrap_time (s : State) (k : Nat) (t : TrapInfo) : (takeTrap s k t).time = s.time := by
  simp [takeTrap]
@[simp] theorem takeTrap_powered (s : State) (k : Nat) (t : TrapInfo) : (takeTrap s k t).powered = s.powered := by
  simp [takeTrap]

end Sys2Proof.Machine
end

