-- ==== Sys2Proof/Laws/Memory.lean ====
section
/-!
SUPPORT. Laws of byte memory: read after write, what the operations on lines leave alone, and that every memory
operation keeps the canonical form.
-/

namespace Sys2Proof.Machine

/-! ## Bytes -/

theorem readByte_writeByte (s : State) (pa a : Nat) (b : Byte) :
    readByte (writeByte s pa b) a = if a = pa then b else readByte s a := by
  simp only [readByte, writeByte_dirty, aget_aput]
  split_ifs <;> rfl

@[simp] theorem readByte_writeByte_same (s : State) (pa : Nat) (b : Byte) : readByte (writeByte s pa b) pa = b := by
  simp [readByte_writeByte]

theorem readByte_writeByte_ne (s : State) {pa a : Nat} (b : Byte) (h : a ≠ pa) :
    readByte (writeByte s pa b) a = readByte s a := by
  simp [readByte_writeByte, h]

theorem readByte_writeCells_ne (cells : List Host.Cell) (s : State) (a : Nat) (h : ∀ c ∈ cells, c.1 ≠ a) :
    readByte (writeCells s cells) a = readByte s a := by
  induction cells generalizing s with
  | nil => rfl
  | cons c r ih =>
    obtain ⟨x, b⟩ := c
    rw [writeCells, ih _ (fun d hd => h d (List.mem_cons_of_mem _ hd)), readByte_writeByte_ne]
    exact (h (x, b) List.mem_cons_self).symm

theorem readByte_writeCells_mem (cells : List Host.Cell) (s : State) (c : Host.Cell) (hc : c ∈ cells)
    (hn : (cells.map (·.1)).Nodup) : readByte (writeCells s cells) c.1 = c.2 := by
  induction cells generalizing s with
  | nil => cases hc
  | cons d r ih =>
    obtain ⟨x, b⟩ := d
    simp only [List.map_cons, List.nodup_cons, List.mem_map, not_exists, not_and] at hn
    rw [writeCells]
    rcases List.mem_cons.mp hc with rfl | hr
    · rw [readByte_writeCells_ne, readByte_writeByte_same]
      exact fun e he hx => hn.1 e he hx
    · exact ih _ hr hn.2

/-- The parts of a state that a read of memory depends on. -/
def memPart (s : State) : List Host.Cell × Amap Byte × Amap Byte × Amap (Nat × List Word) × Amap (Option Nat) × Nat :=
  (s.mem, s.dirty, s.exact, s.sealed, s.tolFmt, s.resets)

theorem memPart_foldl {β : Type} (f : State → β → State) (h : ∀ s b, memPart (f s b) = memPart s) (l : List β)
    (s : State) : memPart (l.foldl f s) = memPart s := by
  induction l generalizing s with
  | nil => rfl
  | cons b r ih => rw [List.foldl_cons, ih, h]

/-! ## What leaves memory alone -/

@[simp] theorem memPart_setCtx (s : State) (k : Nat) (c : Ctx) : memPart (setCtx s k c) = memPart s := rfl
@[simp] theorem memPart_modCtx (s : State) (k : Nat) (f : Ctx → Ctx) : memPart (modCtx s k f) = memPart s := rfl
@[simp] theorem memPart_modRegs (s : State) (k : Nat) (f : CtxRegs → CtxRegs) : memPart (modRegs s k f) = memPart s := rfl
@[simp] theorem memPart_modFrame (s : State) (k : Nat) (f : Frame → Frame) : memPart (modFrame s k f) = memPart s := rfl
@[simp] theorem memPart_modGroup (s : State) (k : Nat) (f : Group → Group) : memPart (modGroup s k f) = memPart s := rfl
@[simp] theorem memPart_modCohort (s : State) (k : Nat) (f : Cohort → Cohort) : memPart (modCohort s k f) = memPart s := rfl
@[simp] theorem memPart_later (s : State) (i : Instr) : memPart (later s i) = memPart s := rfl
@[simp] theorem memPart_laterOnce (s : State) (i : Instr) : memPart (laterOnce s i) = memPart s := by
  unfold laterOnce; split <;> rfl
@[simp] theorem memPart_clearPoison (s : State) (l : Nat) : memPart (clearPoison s l) = memPart s := rfl
@[simp] theorem memPart_setL2 (s : State) (l d : Nat) (x : L2State) (a : BitVec 44) :
    memPart (setL2 s l d x a) = memPart s := rfl
@[simp] theorem memPart_newL2 (s : State) (d : Nat) (f : Fill) (l : Nat) (x : L2State) (a : BitVec 44) :
    memPart (newL2 s d f l x a) = memPart s := rfl
@[simp] theorem memPart_windowShut (s : State) (k : Nat) : memPart (windowShut s k) = memPart s := rfl

@[simp] theorem memPart_rollback (s : State) (k : Nat) (b : Bool) : memPart (rollback s k b) = memPart s := by
  unfold rollback
  split
  · rfl
  · split
    · rfl
    · dsimp only; split_ifs <;> simp

@[simp] theorem memPart_rollbackLine (s : State) (x : Option Nat) (l : Nat) :
    memPart (rollbackLine s x l) = memPart s := by
  unfold rollbackLine; exact memPart_foldl _ (fun _ _ => memPart_rollback _ _ _) _ _

@[simp] theorem memPart_dropDie (s : State) (d l : Nat) : memPart (dropDie s d l) = memPart s := by
  have h : memPart (rollbackDie s d l) = memPart s := memPart_foldl _ (fun _ _ => memPart_rollback _ _ _) _ _
  exact h

@[simp] theorem memPart_dropL1 (s : State) (core l : Nat) : memPart (dropL1 s core l) = memPart s := by
  unfold dropL1
  exact memPart_foldl (fun s (p : Nat × Ctx) => rollback s p.1 true) (fun s p => memPart_rollback _ _ _) _ s

@[simp] theorem memPart_l1MakeRoom (s : State) (core l : Nat) : memPart (l1MakeRoom s core l) = memPart s := by
  unfold l1MakeRoom
  dsimp only
  split_ifs
  · rfl
  · split <;> simp

@[simp] theorem memPart_homeForget (s : State) (d l : Nat) : memPart (homeForget s d l) = memPart s := by
  unfold homeForget; split
  · rfl
  · dsimp only; split_ifs <;> rfl

@[simp] theorem memPart_endRegion (s : State) (k : Nat) : memPart (endRegion s k) = memPart s := by simp [endRegion]
@[simp] theorem memPart_takeTrap (s : State) (k : Nat) (t : TrapInfo) : memPart (takeTrap s k t) = memPart s := by
  simp [takeTrap]
@[simp] theorem memPart_writeV (s : State) (k : Nat) (h : BitVec 2) (v : List (Nat × Word)) :
    memPart (writeV s k h v) = memPart s := by unfold writeV; split <;> rfl
@[simp] theorem memPart_finish (s : State) (e : Env) (f : CtxRegs → CtxRegs) : memPart (finish s e f) = memPart s := rfl
@[simp] theorem memPart_writeD (s : State) (e : Env) (d : Spec) (v : Nat → Word) :
    memPart (writeD s e d v) = memPart s := by unfold writeD; split <;> simp
@[simp] theorem memPart_writeMask (s : State) (e : Env) (d : Spec) (b : Nat → Bool) :
    memPart (writeMask s e d b) = memPart s := rfl

theorem readByte_of_memPart {s t : State} (h : memPart t = memPart s) (a : Nat) : readByte t a = readByte s a := by
  simp only [memPart, Prod.mk.injEq] at h
  obtain ⟨h1, h2, -, h3, -, h5⟩ := h
  simp only [readByte, memByte, h1, h2, h3, h5]

theorem memoryWf_of_memPart {s t : State} (h : memPart t = memPart s) (hs : s.memoryWf = true) : t.memoryWf = true := by
  simp only [memPart, Prod.mk.injEq] at h
  obtain ⟨h1, h2, -⟩ := h
  simpa only [State.memoryWf, h1, h2] using hs

theorem wf_foldl {β : Type} (f : State → β → State) (h : ∀ s b, s.memoryWf = true → (f s b).memoryWf = true)
    (l : List β) {s : State} (hs : s.memoryWf = true) : (l.foldl f s).memoryWf = true := by
  induction l generalizing s with
  | nil => exact hs
  | cons b r ih => exact ih (h _ _ hs)

theorem memoryWf_iff (s : State) : s.memoryWf = true ↔ memWf s.mem = true ∧ arising s.dirty = true := by
  simp [State.memoryWf]

theorem wf_writeByte (s : State) (pa : Nat) (b : Byte) (h : s.memoryWf = true) : (writeByte s pa b).memoryWf = true := by
  rw [memoryWf_iff] at *; exact ⟨h.1, arising_aput _ _ h.2⟩

theorem wf_writeCells (cells : List Host.Cell) {s : State} (h : s.memoryWf = true) :
    (writeCells s cells).memoryWf = true := by
  induction cells generalizing s with
  | nil => exact h
  | cons c r ih => exact ih (wf_writeByte _ _ _ h)

theorem wf_writeBytes (bs : List Byte) (pa : Nat) {s : State} (h : s.memoryWf = true) :
    (writeBytes s pa bs).memoryWf = true := by
  induction bs generalizing s pa with
  | nil => exact h
  | cons c r ih => exact ih _ (wf_writeByte _ _ _ h)

theorem wf_writeBackLine (s : State) (line : Nat) (h : s.memoryWf = true) : (writeBackLine s line).memoryWf = true := by
  rw [memoryWf_iff] at *
  exact ⟨memWf_foldl_asetD _ h.1, arising_filter _ h.2⟩

theorem wf_dropWriteBack (s : State) (line : Nat) (h : s.memoryWf = true) : (dropWriteBack s line).memoryWf = true := by
  rw [memoryWf_iff] at *; exact ⟨h.1, arising_filter _ h.2⟩

theorem wf_writeBack (s : State) (line : Nat) (h : s.memoryWf = true) : (writeBack s line).memoryWf = true := by
  have key : ∀ t : State, t.memoryWf = true → ({ t with tolFmt := aerase t.tolFmt line } : State).memoryWf = true :=
    fun t ht => ht
  unfold writeBack
  dsimp only
  apply key
  split_ifs
  · exact wf_dropWriteBack s line h
  · exact wf_writeBackLine s line h

theorem wf_dropLine (s : State) (line : Nat) (h : s.memoryWf = true) : (dropLine s line).memoryWf = true :=
  wf_writeBack _ line (memoryWf_of_memPart (s := s) (memPart_rollbackLine s none line) h)

theorem wf_evictDie (s : State) (die line : Nat) (h : s.memoryWf = true) : (evictDie s die line).memoryWf = true := by
  have h' : (homeForget (dropDie s die line) die line).memoryWf = true := memoryWf_of_memPart (s := s) (by simp) h
  unfold evictDie
  dsimp only
  split_ifs
  exacts [wf_writeBack _ _ h', h']

theorem wf_makeRoom (s : State) (die : Nat) (f : Fill) (line : Nat) (h : s.memoryWf = true) :
    (makeRoom s die f line).memoryWf = true := by
  have h' : (sfMakeRoom s line).memoryWf = true := by
    unfold sfMakeRoom; split; exacts [wf_dropLine _ _ h, h]
  unfold makeRoom l2MakeRoom
  split; exacts [wf_evictDie _ _ _ h', h']

/-- The regained bytes are modified data again: the overlay keeps its form. -/
theorem wf_regainKept (s : State) (line die : Nat) (h : s.memoryWf = true) : (regainKept s line die).memoryWf = true := by
  have key : ∀ (l : Amap Byte) (m : Amap Byte), arising m = true → arising (l.foldl (fun m p => aput m p.1 p.2) m) = true := by
    intro l
    induction l with
    | nil => intro m hm; exact hm
    | cons p r ih => intro m hm; exact ih _ (arising_aput _ _ hm)
  rw [memoryWf_iff] at *
  exact ⟨h.1, key _ _ h.2⟩

/-- A copy taken for reading: what memory holds is as it was once there is room. -/
theorem memPart_takeShared (s : State) (die : Nat) (agents : BitVec 44) (f : Fill) (line : Nat) :
    memPart (takeShared s die agents f line) = memPart s
      ∨ memPart (takeShared s die agents f line) = memPart (makeRoom s die f line) := by
  unfold takeShared
  split
  · exact .inl (by simp)
  · refine .inr ?_
    generalize makeRoom s die f line = t
    dsimp only
    split
    · rfl
    · rw [memPart_newL2]
      split_ifs
      · split
        · split_ifs <;> rfl
        · rfl
      · rfl

theorem wf_takeShared (s : State) (die : Nat) (agents : BitVec 44) (f : Fill) (line : Nat) (h : s.memoryWf = true) :
    (takeShared s die agents f line).memoryWf = true := by
  rcases memPart_takeShared s die agents f line with e | e
  exacts [memoryWf_of_memPart e h, memoryWf_of_memPart e (wf_makeRoom s die f line h)]

/-- A line taken for writing: what memory holds is as it was once there is room and what the die kept is back. -/
theorem wf_coreShared (s : State) (core : Nat) (f : Fill) (line : Nat) (h : s.memoryWf = true) :
    (coreShared s core f line).memoryWf = true := by
  unfold coreShared
  split_ifs
  · exact wf_takeShared _ _ _ _ _ (memoryWf_of_memPart (memPart_l1MakeRoom s core line) h)
  · exact wf_takeShared _ _ _ _ _ h

theorem memPart_takeOwned (s : State) (die : Nat) (agents : BitVec 44) (f : Fill) (line : Nat) :
    memPart (takeOwned s die agents f line)
      = memPart (regainKept { roomToOwn s die f line with hostOwn := (roomToOwn s die f line).hostOwn.filter (· ≠ line) }
          line die) := by
  have key : ∀ (b : Bool) (s1 s2 t : State), memPart s1 = memPart t → memPart s2 = memPart t →
      memPart (if b then s1 else s2) = memPart t := by
    intro b s1 s2 t h1 h2; cases b <;> simp [h1, h2]
  unfold takeOwned
  dsimp only
  exact key _ _ _ _ rfl rfl

theorem wf_roomToOwn (s : State) (die : Nat) (f : Fill) (line : Nat) (h : s.memoryWf = true) :
    (roomToOwn s die f line).memoryWf = true := by
  unfold roomToOwn; split_ifs; exacts [h, wf_makeRoom _ _ _ _ h]

theorem wf_takeOwned (s : State) (die : Nat) (agents : BitVec 44) (f : Fill) (line : Nat) (h : s.memoryWf = true) :
    (takeOwned s die agents f line).memoryWf = true :=
  memoryWf_of_memPart (memPart_takeOwned s die agents f line) (wf_regainKept _ _ _ (wf_roomToOwn s die f line h))

theorem wf_ownLine (s : State) (x : Option Nat) (die : Nat) (agents : BitVec 44) (f : Fill) (line : Nat)
    (h : s.memoryWf = true) : (ownLine s x die agents f line).memoryWf = true :=
  wf_takeOwned _ _ _ _ _ (memoryWf_of_memPart (memPart_rollbackLine _ _ _) h)

theorem wf_coreOwn (s : State) (x core : Option Nat) (f : Fill) (line : Nat) (h : s.memoryWf = true) :
    (coreOwn s x core f line).memoryWf = true := wf_ownLine _ _ _ _ _ _ h

theorem memWf_foldl_line (s : State) (line : Nat) (l : List Nat) {m : List Host.Cell} (h : memWf m = true) :
    memWf (l.foldl (fun m k => asetD m memDefault (128 * line + k) (memByte s (128 * line + k))) m) = true := by
  induction l generalizing m with
  | nil => exact h
  | cons k r ih => exact ih (memWf_asetD _ _ h)

theorem wf_unsealLine (s : State) (line : Nat) (h : s.memoryWf = true) : (unsealLine s line).memoryWf = true := by
  unfold unsealLine
  split_ifs
  · rw [memoryWf_iff] at *; exact ⟨memWf_foldl_line _ _ _ h.1, h.2⟩
  · exact h

theorem wf_noteKey (s : State) (vi line : Nat) (h : s.memoryWf = true) : (noteKey s vi line).memoryWf = true := by
  have h' := wf_unsealLine s line h
  unfold noteKey
  dsimp only
  split_ifs
  exacts [h', h']

theorem wf_noteWrite (s : State) (line : Nat) (c : Option Nat) (b : Bool) (h : s.memoryWf = true) :
    (noteWrite s line c b).memoryWf = true := by
  unfold noteWrite
  split <;> (try split_ifs) <;> exact h

theorem wf_performCells (s : State) (x core : Option Nat) (vi : Nat) (f : Nat → Fill) (cells : List Host.Cell)
    (marks : List LineMark) (lane : Bool) (h : s.memoryWf = true) :
    (performCells s x core vi f cells marks lane).memoryWf = true := by
  have h1 := wf_foldl (fun s l => noteKey (coreOwn s x core (f l) l) vi l)
    (fun s l hs => wf_noteKey _ _ _ (wf_coreOwn _ _ _ _ _ hs)) (cellLines cells) h
  have h2 := wf_foldl (fun s l => noteWrite s l (markTol marks l) false)
    (fun s l hs => wf_noteWrite _ _ _ _ hs) (cellLines cells) h1
  have h3 := wf_writeCells cells h2
  unfold performCells
  dsimp only
  split_ifs
  · exact wf_foldl _ (fun s l hs => by split_ifs; exacts [hs, hs]) _ h3
  · exact h3

theorem wf_engineWrite (s : State) (die agent vi : Nat) (f : Fill) (pa : Nat) (bytes : List Byte) (tol : Bool)
    (h : s.memoryWf = true) : (engineWrite s die agent vi f pa bytes tol).memoryWf = true := by
  unfold engineWrite
  exact wf_writeCells _ (wf_foldl _ (fun s l hs => wf_noteWrite _ _ _ _ (wf_noteKey _ _ _ (wf_ownLine _ _ _ _ _ _ hs))) _ h)

theorem wf_writeWindow (s : State) (base off : Nat) (bytes : List Byte) (h : s.memoryWf = true) :
    (writeWindow s base off bytes).memoryWf = true := by
  unfold writeWindow
  dsimp only
  have h1 := wf_foldl (fun s (c : Host.Cell) =>
      ({ unsealLine s (lineOf c.1) with lineKey := aput s.lineKey (lineOf c.1) 0 } : State))
    (fun s c hs => wf_unsealLine s _ hs) ((List.range bytes.length).map (fun k => (base + (off + k) % windowBytes, bytes.getD k 0))) h
  rw [memoryWf_iff] at h1 ⊢
  exact ⟨memWf_foldl_asetD _ h1.1, h1.2⟩

theorem wf_frameOut (s : State) (payload : List Byte) (h : s.memoryWf = true) : (frameOut s payload).memoryWf = true := by
  unfold frameOut
  dsimp only
  split
  · exact h
  · unfold keepFrame
    dsimp only
    split_ifs
    · exact wf_writeWindow _ _ _ _ h
    · exact h

/-! ## A byte that an operation leaves as it reads -/

/-- The byte's line is not sealed, no modified data of it may be dropped, and none of its values has been (09 R286; 15 R375;
23 R487). -/
def Steady (s : State) (a : Nat) : Prop :=
  aget s.sealed (a / 128) = none ∧ (∀ c, aget s.tolFmt (a / 128) ≠ some (some c)) ∧ aget s.exact a = none

/-- In a canonical memory a steady byte stays steady and reads as before. -/
def Left (s t : State) (a : Nat) : Prop :=
  s.memoryWf = true → Steady s a → t.memoryWf = true ∧ Steady t a ∧ readByte t a = readByte s a

theorem Left.refl (s : State) (a : Nat) : Left s s a := fun h hs => ⟨h, hs, rfl⟩
theorem Left.trans {s t u : State} {a : Nat} (h : Left s t a) (g : Left t u a) : Left s u a := by
  intro hw hs
  obtain ⟨h1, h2, h3⟩ := h hw hs
  obtain ⟨g1, g2, g3⟩ := g h1 h2
  exact ⟨g1, g2, g3.trans h3⟩

theorem left_of_memPart {s t : State} (h : memPart t = memPart s) (a : Nat) : Left s t a := by
  intro hw hs
  refine ⟨memoryWf_of_memPart h hw, ?_, readByte_of_memPart h a⟩
  simp only [memPart, Prod.mk.injEq] at h
  obtain ⟨-, -, h3, h4, h5, -⟩ := h
  simpa only [Steady, h3, h4, h5] using hs

theorem left_foldl {β : Type} (f : State → β → State) (a : Nat) (l : List β)
    (h : ∀ s, ∀ b ∈ l, Left s (f s b) a) (s : State) : Left s (l.foldl f s) a := by
  induction l generalizing s with
  | nil => exact Left.refl _ _
  | cons b r ih =>
    rw [List.foldl_cons]
    exact (h s b List.mem_cons_self).trans (ih (fun s c hc => h s c (List.mem_cons_of_mem _ hc)) _)

/-- A write to another address, or outside a sealed line, leaves a steady byte. -/
theorem left_writeByte (s : State) (pa a : Nat) (b : Byte) (h : a ≠ pa) : Left s (writeByte s pa b) a :=
  fun hw hs => ⟨wf_writeByte _ _ _ hw, ⟨hs.1, hs.2.1, by rw [writeByte_exact, aget_aerase_ne _ h]; exact hs.2.2⟩,
    readByte_writeByte_ne _ _ h⟩

theorem left_writeCells (cells : List Host.Cell) (s : State) (a : Nat) (h : ∀ c ∈ cells, c.1 ≠ a) :
    Left s (writeCells s cells) a := by
  induction cells generalizing s with
  | nil => exact Left.refl _ _
  | cons c r ih =>
    obtain ⟨x, b⟩ := c
    exact (left_writeByte s x a b (h (x, b) List.mem_cons_self).symm).trans
      (ih _ (fun d hd => h d (List.mem_cons_of_mem _ hd)))

theorem aget_filter_key {α : Type} (m : Amap α) (p : Nat → Bool) (k : Nat) :
    aget (m.filter (fun q => p q.1)) k = if p k then aget m k else none := by
  induction m with
  | nil => simp
  | cons q r ih =>
    obtain ⟨j, w⟩ := q
    by_cases hj : p j
    · rw [List.filter_cons_of_pos (by simpa using hj)]
      simp only [aget, ih]
      split_ifs <;> simp_all
    · rw [List.filter_cons_of_neg (by simpa using hj), ih]
      simp only [aget]
      split_ifs <;> simp_all

theorem keys_nodup {α : Type} {m : Amap α} (h : arising m = true) : (m.map (·.1)).Nodup := by
  induction m with
  | nil => simp
  | cons q r ih =>
    obtain ⟨j, w⟩ := q
    have h' := (arising_cons j w r).mp h
    simp only [List.map_cons, List.nodup_cons, List.mem_map, not_exists, not_and]
    exact ⟨fun x hx hxj => absurd (h'.1 x hx) (by omega), ih h'.2⟩

theorem mem_of_aget {α : Type} {m : Amap α} {k : Nat} {v : α} (h : aget m k = some v) : (k, v) ∈ m := by
  induction m with
  | nil => simp at h
  | cons q r ih =>
    obtain ⟨j, w⟩ := q
    simp only [aget] at h
    split_ifs at h with hk
    · simp_all
    · exact List.mem_cons_of_mem _ (ih h)

/-- A line that is encrypted anew changes neither the bytes nor the state of any cache. -/
theorem rekeyLine_exact (s : State) (line : Nat) : (rekeyLine s line).exact = s.exact := by
  unfold rekeyLine; split <;> (try split_ifs) <;> rfl
theorem rekeyLine_tolFmt (s : State) (line : Nat) : (rekeyLine s line).tolFmt = s.tolFmt := by
  unfold rekeyLine; split <;> (try split_ifs) <;> rfl

/-- It seals nothing. -/
theorem rekeyLine_sealed (s : State) (line : Nat) {l : Nat} (h : aget s.sealed l = none) :
    aget (rekeyLine s line).sealed l = none := by
  unfold rekeyLine
  split
  · split_ifs
    · exact h
    · by_cases e : l = line
      · simp [e]
      · exact (aget_aerase_ne _ e).trans h
  · exact h

theorem left_writeBackLine (s : State) (line a : Nat) : Left s (writeBackLine s line) a := by
  intro hw hs
  have hk : aget (rekeyLine s line).sealed (a / 128) = none := rekeyLine_sealed s line hs.1
  refine ⟨wf_writeBackLine _ _ hw, ⟨hk, ?_, ?_⟩, ?_⟩
  · intro c; show aget (rekeyLine s line).tolFmt _ ≠ _; rw [rekeyLine_tolFmt]; exact hs.2.1 c
  · show aget (rekeyLine s line).exact _ = _; rw [rekeyLine_exact]; exact hs.2.2
  have hd : arising s.dirty = true := ((memoryWf_iff s).mp hw).2
  have hseal : (aget s.sealed (a / 128)).isSome = false := by simp [hs.1]
  have hkeep : (aget (rekeyLine s line).sealed (a / 128)).isSome = false := by simp [hk]
  simp only [readByte, memByte, writeBackLine, hseal, hkeep, Bool.false_eq_true, if_false]
  have hf : aget (s.dirty.filter (fun p => decide (lineOf p.1 ≠ line))) a
      = if decide (lineOf a ≠ line) = true then aget s.dirty a else none :=
    aget_filter_key s.dirty (fun k => decide (lineOf k ≠ line)) a
  rw [hf]
  by_cases hl : lineOf a = line
  · simp only [hl, ne_eq, not_true_eq_false, decide_false, Bool.false_eq_true, if_false]
    cases hb : aget s.dirty a with
    | none =>
      refine agetD_foldl_asetD_ne _ _ _ _ (fun p hp hpa => ?_)
      have hp' := (List.mem_filter.mp hp).1
      rw [← hpa] at hb
      have : ∀ (m : Amap Byte), p ∈ m → aget m p.1 ≠ none := by
        intro m hm
        induction m with
        | nil => cases hm
        | cons q r ih =>
          obtain ⟨j, w⟩ := q
          simp only [aget]
          split_ifs with hk
          · simp
          · rcases List.mem_cons.mp hm with rfl | hm
            · exact absurd rfl hk
            · exact ih hm
      exact this _ hp' hb
    | some b =>
      refine agetD_foldl_asetD_mem _ _ _ (a, b) ?_ ?_
      · exact List.mem_filter.mpr ⟨mem_of_aget hb, by simpa using hl⟩
      · exact keys_nodup (arising_filter _ hd)
  · simp only [hl, ne_eq, not_false_eq_true, decide_true, if_true]
    cases hb : aget s.dirty a with
    | some b => rfl
    | none =>
      refine agetD_foldl_asetD_ne _ _ _ _ (fun p hp hpa => ?_)
      have := (List.mem_filter.mp hp).2
      simp only [decide_eq_true_eq] at this
      exact hl (hpa ▸ this)

/-- A key that a map does not hold is the key of none of its entries. -/
theorem ne_of_aget_none {α : Type} {m : Amap α} {a : Nat} (h : aget m a = none) {p : Nat × α} (hp : p ∈ m) : p.1 ≠ a := by
  induction m with
  | nil => cases hp
  | cons q r ih =>
    obtain ⟨j, w⟩ := q
    simp only [aget] at h
    split_ifs at h with hk
    rcases List.mem_cons.mp hp with rfl | hm
    · exact fun e => hk e.symm
    · exact ih h hm

theorem aget_foldl_aput_ne {α : Type} (l m : Amap α) (a : Nat) (h : ∀ p ∈ l, p.1 ≠ a) :
    aget (l.foldl (fun m p => aput m p.1 p.2) m) a = aget m a := by
  induction l generalizing m with
  | nil => rfl
  | cons p r ih =>
    rw [List.foldl_cons, ih _ (fun q hq => h q (List.mem_cons_of_mem _ hq)), aget_aput_ne _ _ (h p List.mem_cons_self).symm]

/-- Dropping the write-back of another line leaves a steady byte. -/
theorem left_dropWriteBack (s : State) (line a : Nat) (hl : lineOf a ≠ line) : Left s (dropWriteBack s line) a := by
  intro hw hs
  refine ⟨wf_dropWriteBack _ _ hw, ⟨hs.1, hs.2.1, ?_⟩, ?_⟩
  · show aget ((dirtyOf s line).foldl (fun m p => aput m p.1 p.2) s.exact) a = none
    rw [aget_foldl_aput_ne _ _ _ (fun p hp e => hl ?_)]
    · exact hs.2.2
    · simpa [dirtyOf, ← e] using (List.mem_filter.mp hp).2
  · have hf : aget (s.dirty.filter (fun p => decide (lineOf p.1 ≠ line))) a = aget s.dirty a := by
      have := aget_filter_key s.dirty (fun k => decide (lineOf k ≠ line)) a
      simpa [hl] using this
    simp only [readByte, memByte, dropWriteBack, hf]
    rfl

theorem left_writeBack (s : State) (line a : Nat) : Left s (writeBack s line) a := by
  have erase : ∀ t : State, Left t { t with tolFmt := aerase t.tolFmt line } a := by
    intro t hw hs
    refine ⟨hw, ⟨hs.1, fun c => ?_, hs.2.2⟩, rfl⟩
    by_cases h : a / 128 = line
    · simp [h]
    · rw [aget_aerase_ne _ h]; exact hs.2.1 c
  unfold writeBack
  dsimp only
  split
  · next code hc =>
    split_ifs
    · intro hw hs
      have hl : lineOf a ≠ line := fun hl => hs.2.1 code (by rw [← hc, ← hl]; rfl)
      exact ((left_dropWriteBack s line a hl).trans (erase _)) hw hs
    · exact (left_writeBackLine s line a).trans (erase _)
  · simp only [Bool.false_eq_true, if_false]
    exact (left_writeBackLine s line a).trans (erase _)

theorem left_dropLine (s : State) (line a : Nat) : Left s (dropLine s line) a :=
  (left_of_memPart (t := { rollbackLine s none line with
    l2 := (rollbackLine s none line).l2.filter (fun p => p.1 / 8 ≠ line), sf := aerase (rollbackLine s none line).sf line
    keptBy := (rollbackLine s none line).keptBy.filter (fun k => k / 8 ≠ line) }) (memPart_rollbackLine s none line) a).trans
    (left_writeBack _ line a)

theorem left_evictDie (s : State) (die line a : Nat) : Left s (evictDie s die line) a := by
  have h : Left s (homeForget (dropDie s die line) die line) a := left_of_memPart (by simp) a
  unfold evictDie
  dsimp only
  split_ifs
  exacts [h.trans (left_writeBack _ _ _), h]

theorem left_makeRoom (s : State) (die : Nat) (f : Fill) (line a : Nat) : Left s (makeRoom s die f line) a := by
  have h : Left s (sfMakeRoom s line) a := by unfold sfMakeRoom; split; exacts [left_dropLine _ _ _, Left.refl _ _]
  unfold makeRoom l2MakeRoom
  split; exacts [h.trans (left_evictDie _ _ _ _), h]

theorem left_takeShared (s : State) (die : Nat) (agents : BitVec 44) (f : Fill) (line a : Nat) :
    Left s (takeShared s die agents f line) a := by
  rcases memPart_takeShared s die agents f line with e | e
  exacts [left_of_memPart e a, (left_makeRoom s die f line a).trans (left_of_memPart e a)]

theorem left_coreShared (s : State) (core : Nat) (f : Fill) (line a : Nat) : Left s (coreShared s core f line) a := by
  unfold coreShared
  split_ifs
  · exact (left_of_memPart (memPart_l1MakeRoom s core line) a).trans (left_takeShared _ _ _ _ _ _)
  · exact left_takeShared _ _ _ _ _ _

/-- Values that a die has kept are none of a steady byte. -/
theorem left_regainKept (s : State) (line die a : Nat) : Left s (regainKept s line die) a := by
  intro hw hs
  refine ⟨wf_regainKept _ _ _ hw, hs, ?_⟩
  have hd : aget (regainKept s line die).dirty a = aget s.dirty a := by
    refine aget_foldl_aput_ne _ _ _ (fun p hp => ?_)
    split_ifs at hp
    · exact ne_of_aget_none hs.2.2 (List.mem_filter.mp hp).1
    · cases hp
  unfold readByte
  rw [hd]
  rfl

theorem left_takeOwned (s : State) (die : Nat) (agents : BitVec 44) (f : Fill) (line a : Nat) :
    Left s (takeOwned s die agents f line) a := by
  have h : Left s (roomToOwn s die f line) a := by
    unfold roomToOwn; split_ifs; exacts [Left.refl _ _, left_makeRoom _ _ _ _ _]
  exact ((h.trans (left_of_memPart rfl a)).trans (left_regainKept _ line die a)).trans
    (left_of_memPart (memPart_takeOwned s die agents f line) a)

theorem left_ownLine (s : State) (x : Option Nat) (die : Nat) (agents : BitVec 44) (f : Fill) (line a : Nat) :
    Left s (ownLine s x die agents f line) a :=
  (left_of_memPart (memPart_rollbackLine s x line) a).trans (left_takeOwned _ _ _ _ _ _)

theorem wf_wholeLine (s : State) (line : Nat) (h : s.memoryWf = true) : (wholeLine s line).memoryWf = true := by
  have key : ∀ (l : List Nat) (m : Amap Byte), arising m = true →
      arising (l.foldl (fun m k => aput m (128 * line + k) (readByte s (128 * line + k))) m) = true := by
    intro l
    induction l with
    | nil => intro m hm; exact hm
    | cons p r ih => intro m hm; exact ih _ (arising_aput _ _ hm)
  unfold wholeLine
  generalize List.range 128 = ks
  split_ifs
  · exact h
  · rw [memoryWf_iff] at *; exact ⟨h.1, key _ _ h.2⟩

/-- A line that is made whole in its cache reads as before, whatever becomes of memory. -/
theorem readByte_wholeLine (s : State) (line a : Nat) : readByte (wholeLine s line) a = readByte s a := by
  have key : ∀ (l : List Nat) (m : Amap Byte), (aget m a).getD (memByte s a) = readByte s a →
      (aget (l.foldl (fun m k => aput m (128 * line + k) (readByte s (128 * line + k))) m) a).getD (memByte s a)
        = readByte s a := by
    intro l
    induction l with
    | nil => intro m hm; exact hm
    | cons k r ih =>
      intro m hm
      refine ih _ ?_
      rw [aget_aput]
      split_ifs with h
      · rw [h]; rfl
      · exact hm
  unfold wholeLine
  generalize List.range 128 = ks
  split_ifs
  · rfl
  · have h := key ks s.dirty (by unfold readByte; split <;> simp_all)
    have e : ∀ t : State, readByte t a = (aget t.dirty a).getD (memByte t a) := fun t => by unfold readByte; split <;> simp_all
    rw [e]
    exact h

theorem left_unsealLine (s : State) (line a : Nat) : Left s (unsealLine s line) a := by
  unfold unsealLine
  split_ifs with hl
  · intro hw hs
    have hne : a / 128 ≠ line := by
      intro h; rw [← h, hs.1] at hl; simp at hl
    refine ⟨?_, ⟨?_, hs.2⟩, ?_⟩
    · rw [memoryWf_iff] at *; exact ⟨memWf_foldl_line _ _ _ hw.1, hw.2⟩
    · show aget (aerase s.sealed line) (a / 128) = none
      rw [aget_aerase_ne _ hne]; exact hs.1
    · have key : ∀ (l : List Nat) (m : List Host.Cell), (∀ k ∈ l, k < 128) →
          agetD (l.foldl (fun m k => asetD m memDefault (128 * line + k) (memByte s (128 * line + k))) m) memDefault a
            = agetD m memDefault a := by
        intro l
        induction l with
        | nil => intro m _; rfl
        | cons k r ih =>
          intro m hk
          rw [List.foldl_cons, ih _ (fun j hj => hk j (List.mem_cons_of_mem _ hj)), agetD_asetD_ne]
          have := hk k List.mem_cons_self
          omega
      have hk := key (List.range 128) s.mem (fun k hk => List.mem_range.mp hk)
      have he : (aget (aerase s.sealed line) (a / 128)).isSome = false := by rw [aget_aerase_ne _ hne, hs.1]; rfl
      have h0 : (aget s.sealed (a / 128)).isSome = false := by rw [hs.1]; rfl
      unfold readByte
      dsimp only
      split
      · rfl
      · unfold memByte at hk ⊢
        simp only [he, h0, Bool.false_eq_true, if_false]
        exact hk
  · exact Left.refl _ _

theorem left_noteKey (s : State) (vi line a : Nat) : Left s (noteKey s vi line) a := by
  have h := left_unsealLine s line a
  unfold noteKey
  dsimp only
  split_ifs
  exacts [h.trans (left_of_memPart rfl a), h]

/-- A write with no tolerant format marks no line as one whose data may be dropped. -/
theorem left_noteWrite_none (s : State) (line : Nat) (b : Bool) (a : Nat) : Left s (noteWrite s line none b) a := by
  have mark : Left s { s with tolFmt := aput s.tolFmt line none } a := by
    intro hw hs
    refine ⟨hw, ⟨hs.1, fun c => ?_, hs.2.2⟩, rfl⟩
    show aget (aput s.tolFmt line none) (a / 128) ≠ _
    rw [aget_aput]
    split_ifs
    · simp
    · exact hs.2.1 c
  unfold noteWrite
  split
  all_goals first | exact mark | (split_ifs <;> first | exact mark | exact Left.refl _ _) | simp_all

theorem left_performCells (s : State) (x core : Option Nat) (vi : Nat) (f : Nat → Fill) (cells : List Host.Cell)
    (lane : Bool) (a : Nat) (h : ∀ c ∈ cells, c.1 ≠ a) : Left s (performCells s x core vi f cells [] lane) a := by
  unfold performCells
  dsimp only [markTol, List.filter_nil, List.findSome?_nil]
  refine Left.trans (left_foldl _ a (cellLines cells) (fun s l _ =>
    (left_ownLine s x (writerDie core l) (writerAgents s core l) (f l) l a).trans (left_noteKey _ vi l a)) s) ?_
  refine Left.trans (left_foldl _ a (cellLines cells) (fun s l _ => left_noteWrite_none s l false a) _) ?_
  refine Left.trans (left_writeCells cells _ a h) ?_
  split_ifs
  · exact left_of_memPart (memPart_foldl _ (fun s l => by split_ifs <;> rfl) _ _) a
  · exact Left.refl _ _

end Sys2Proof.Machine
end

