-- ==== Sys2Proof/Laws/Numbers.lean ====
section
/-!
SUPPORT. Containers of a register word and integers of a type, as bit vectors.
-/

namespace Sys2Proof.Machine

open Sys2Proof.Claims

/-- The element widths. -/
theorem elemBits_cases (f : Nat) : elemBits f = 32 ∨ elemBits f = 16 ∨ elemBits f = 8 := by
  unfold elemBits
  split
  · exact .inr (.inl rfl)
  · split
    · exact .inr (.inr rfl)
    · exact .inl rfl

/-- A container as a number. -/
theorem elem_eq (f : Nat) (w : Word) (j : Nat) : elem f w j = (el (elemBits f) j w).toNat := by
  simp only [elem, el, BitVec.extractLsb'_toNat, Nat.shiftRight_eq_div_pow]

/-- A word made of containers, by width. -/
theorem mapElems_32 {f : Nat} (g : Nat → Nat) (h : elemBits f = 32) : (mapElems f g).toNat = g 0 % 2 ^ 32 := by
  have r : List.range 1 = [0] := by decide
  simp only [mapElems, nc, h, Nat.reduceDiv, r, List.foldl, Nat.mul_zero, Nat.pow_zero, Nat.mul_one, Nat.zero_add,
    BitVec.toNat_ofNat, Nat.mod_mod]
theorem mapElems_16 {f : Nat} (g : Nat → Nat) (h : elemBits f = 16) :
    (mapElems f g).toNat = g 0 % 2 ^ 16 + g 1 % 2 ^ 16 * 2 ^ 16 := by
  have r : List.range 2 = [0, 1] := by decide
  simp only [mapElems, nc, h, Nat.reduceDiv, r, List.foldl, Nat.mul_zero, Nat.pow_zero, Nat.mul_one, Nat.zero_add,
    BitVec.toNat_ofNat]
  omega
theorem foldl_range4 (h : Nat → Nat) : (List.range 4).foldl (fun acc j => acc + h j) 0 = h 0 + h 1 + h 2 + h 3 := by
  have r : List.range 4 = [0, 1, 2, 3] := by decide
  rw [r]
  simp only [List.foldl_cons, List.foldl_nil, Nat.zero_add]
theorem mapElems_8 {f : Nat} (g : Nat → Nat) (h : elemBits f = 8) :
    (mapElems f g).toNat = g 0 % 2 ^ 8 + g 1 % 2 ^ 8 * 2 ^ 8 + g 2 % 2 ^ 8 * 2 ^ 16 + g 3 % 2 ^ 8 * 2 ^ 24 := by
  unfold mapElems nc
  rw [h, show 32 / 8 = 4 from rfl, foldl_range4 (fun j => (g j % 2 ^ 8) * 2 ^ (8 * j)), show 8 * 0 = 0 from rfl,
    show 8 * 1 = 8 from rfl, show 8 * 2 = 16 from rfl, show 8 * 3 = 24 from rfl, Nat.pow_zero, Nat.mul_one,
    BitVec.toNat_ofNat]
  omega

/-- A container of a word made of containers. -/
theorem el_mapElems (f : Nat) (g : Nat → Nat) (j : Nat) (hj : j < nc f) :
    el (elemBits f) j (mapElems f g) = BitVec.ofNat (elemBits f) (g j) := by
  apply BitVec.eq_of_toNat_eq
  simp only [el, BitVec.extractLsb'_toNat, BitVec.toNat_ofNat, Nat.shiftRight_eq_div_pow]
  unfold nc at hj
  rcases elemBits_cases f with h | h | h
  · rw [mapElems_32 g h, h]
    rw [h] at hj
    obtain rfl : j = 0 := by omega
    simp
  · rw [mapElems_16 g h, h]
    rw [h] at hj
    rcases (by omega : j = 0 ∨ j = 1) with rfl | rfl
    · rw [Nat.mul_zero]; omega
    · rw [Nat.mul_one]; omega
  · rw [mapElems_8 g h, h]
    rw [h] at hj
    rcases (by omega : j = 0 ∨ j = 1 ∨ j = 2 ∨ j = 3) with rfl | rfl | rfl | rfl
    · rw [Nat.mul_zero]; omega
    · rw [Nat.mul_one]; omega
    · rw [show 8 * 2 = 16 from rfl]; omega
    · rw [show 8 * 3 = 24 from rfl]; omega

/-- The integer that a container holds. -/
theorem intVal_eq (f : Nat) (w : Word) (j : Nat) :
    intVal f (elem f w j) = intOf (fmtSigned f) (el (elemBits f) j w) := by
  rw [elem_eq]
  generalize el (elemBits f) j w = x
  unfold intVal intOf
  simp only [Nat.mod_eq_of_lt x.isLt]
  by_cases hs : fmtSigned f = true
  · simp only [hs, Bool.true_and, decide_eq_true_eq, if_true, BitVec.toInt_eq_toNat_cond]
    have hx := x.isLt
    rcases elemBits_cases f with h | h | h <;> revert x <;> rw [h] <;> intro x <;> simp only [Nat.reducePow, Nat.reduceSub] <;>
      intro hx <;> split <;> split <;> first | rfl | omega
  · simp only [Bool.not_eq_true] at hs
    simp [hs]

/-- Wrapping an integer to the width of the type. -/
theorem ofNat_wrapBits (f : Nat) (x : Int) : BitVec.ofNat (elemBits f) (wrapBits f x) = BitVec.ofInt (elemBits f) x := by
  apply BitVec.eq_of_toNat_eq
  simp only [wrapBits, BitVec.toNat_ofNat, BitVec.toNat_ofInt]
  rw [Nat.mod_eq_of_lt]
  have h := Int.emod_lt_of_pos x (b := ((2 ^ elemBits f : Nat) : Int)) (by exact_mod_cast Nat.two_pow_pos _)
  have h0 := Int.emod_nonneg x (b := ((2 ^ elemBits f : Nat) : Int)) (by exact_mod_cast Nat.pos_iff_ne_zero.1 (Nat.two_pow_pos _))
  omega

end Sys2Proof.Machine
end

