-- ==== Sys2Proof/Laws/Registers.lean ====
section
/-!
SUPPORT. What the issue of an instruction and its common endings can do, said once: the state that the effect runs on, and
what writing a destination register, a mask or nothing leaves.
-/

namespace Sys2Proof.Machine

open Sys2Proof.Claims

/-! ## Issue -/

/-- The parts of the environment are where the state has them. -/
theorem envOf_parts {s : State} {e : Env} (h : envOf s = some e) :
    e.key = s.cur ∧ aget s.ctxs e.key = some e.c ∧ aget s.frames (frameKeyOf e.key) = some e.fr
    ∧ aget s.groups e.c.group = some e.g ∧ aget s.cohorts e.fr.tag = some e.co
    ∧ aget s.launches e.co.launch = some e.la ∧ e.norm = normalSet e.c.r ∧ e.word = e.c.r.xwords.head?
    ∧ e.exec = (match e.word with | some w => e.norm &&& maskOf e.c.r (xwMask w) | none => e.norm) := by
  unfold envOf at h
  split at h
  · next c fr hc hf =>
    split at h
    · next g co hg hco =>
      split at h
      · next la hla =>
        obtain rfl := Option.some.inj h
        exact ⟨rfl, hc, hf, hg, hco, hla, rfl, rfl, rfl⟩
      · cases h
    · cases h
  · cases h

/-- The lanes that execute lie in the normal set. -/
theorem exec_le_norm {s : State} {e : Env} (h : envOf s = some e) (l : Nat) :
    e.exec.getLsbD l = true → e.norm.getLsbD l = true := by
  obtain ⟨-, -, -, -, -, -, -, -, hx⟩ := envOf_parts h
  rw [hx]
  split
  · simp only [BitVec.getLsbD_and, Bool.and_eq_true]; exact fun h => h.1
  · exact id

/-- An instruction that nothing stands in the way of acts. -/
theorem issue_acts {i : Instr} {q : Req} {act : Env → State → State} {s : State} {e : Env}
    (he : envOf s = some e) (hb : blocked i q e s = none) :
    issue i q act s
      = .next (act (openedEnv q s e) (setCtx s e.key (openedEnv q s e).c)) := by
  have hk : (openedEnv q s e).key = e.key := by unfold openedEnv; split <;> rfl
  simp only [issue, he, hb]

section Opened
variable (q : Req) (s : State) (e : Env)
@[simp] theorem openedEnv_key : (openedEnv q s e).key = e.key := by unfold openedEnv; split <;> rfl
@[simp] theorem openedEnv_fr : (openedEnv q s e).fr = e.fr := by unfold openedEnv; split <;> rfl
@[simp] theorem openedEnv_g : (openedEnv q s e).g = e.g := by unfold openedEnv; split <;> rfl
@[simp] theorem openedEnv_co : (openedEnv q s e).co = e.co := by unfold openedEnv; split <;> rfl
@[simp] theorem openedEnv_la : (openedEnv q s e).la = e.la := by unfold openedEnv; split <;> rfl
@[simp] theorem openedEnv_norm : (openedEnv q s e).norm = e.norm := by unfold openedEnv; split <;> rfl
@[simp] theorem openedEnv_exec : (openedEnv q s e).exec = e.exec := by unfold openedEnv; split <;> rfl
@[simp] theorem openedEnv_word : (openedEnv q s e).word = e.word := by unfold openedEnv; split <;> rfl
@[simp] theorem openedEnv_sib : (openedEnv q s e).sib = e.sib := by unfold openedEnv; split <;> rfl
end Opened

/-- A stalling instruction opens no region. -/
theorem openedEnv_stall {q : Req} (h : q.stall = true ∨ q.bare = true) (s : State) (e : Env) :
    openedEnv q s e = e := by
  unfold openedEnv
  rcases h with h | h <;> simp [h]

/-- The context with the region that the instruction runs in. -/
theorem openedEnv_c {q : Req} (h : q.stall = false) (hb : q.bare = false) (s : State) (e : Env) :
    ∃ r, (openedEnv q s e).c
      = { e.c with r := { e.c.r with ovt := ovtInForce s e }, region := some r } := by
  unfold openedEnv
  simp only [h, hb, Bool.or_self, Bool.false_eq_true, if_false]
  unfold opened ovtInForce
  cases hr : e.c.region with
  | none => exact ⟨_, rfl⟩
  | some r => exact ⟨_, by simp only [hr]; rfl⟩

/-! ## Register reads after writes -/

@[simp] theorem getLsbD_setBit (m : LaneMask) (l k : Nat) (b : Bool) (hl : l < 64) :
    (setBit m l b).getLsbD k = if k = l then b else m.getLsbD k := by
  unfold setBit
  by_cases hk : k = l
  · subst hk; cases b <;> simp [hl]
  · by_cases hk64 : k < 64
    · have h1 : (1#64 <<< l).getLsbD k = false := by
        simp only [BitVec.getLsbD_shiftLeft, hk64, decide_true, Bool.true_and, BitVec.getLsbD_one]
        by_cases hlt : k < l
        · simp [hlt]
        · have : k - l ≠ 0 := by omega
          simp [hlt, this]
      cases b <;>
        simp only [if_true, Bool.false_eq_true, if_false, BitVec.getLsbD_or, BitVec.getLsbD_and, BitVec.getLsbD_not, h1, hk,
          hk64, decide_true, Bool.not_false, Bool.and_true, Bool.or_false]
    · have h2 : m.getLsbD k = false := BitVec.getLsbD_of_ge m k (by omega)
      cases b <;> simp [hk, h2, hk64]

theorem mem_lanesOf {m : LaneMask} {l : Nat} : l ∈ lanesOf m ↔ l < 64 ∧ m.getLsbD l = true := by
  simp [lanesOf]

/-- Bits after a fold of `setBit` over lanes. -/
theorem getLsbD_foldl_setBit (ls : List Nat) (f : Nat → Bool) (hl : ∀ l ∈ ls, l < 64) (m : LaneMask) (k : Nat) :
    (ls.foldl (fun m l => setBit m l (f l)) m).getLsbD k = if k ∈ ls then f k else m.getLsbD k := by
  induction ls generalizing m with
  | nil => simp
  | cons a r ih =>
    rw [List.foldl_cons, ih (fun l h => hl l (List.mem_cons_of_mem _ h)),
      getLsbD_setBit _ _ _ _ (hl a List.mem_cons_self)]
    by_cases hk : k = a
    · subst hk; simp
    · simp [hk]

/-- The lanes that an extension word clears. -/
theorem mem_zeroLanes {e : Env} {l : Nat} : l ∈ zeroLanes e ↔ l < 64 ∧ Cleared e l := by
  unfold zeroLanes Cleared
  cases hw : e.word with
  | none => simp
  | some w =>
    by_cases hz : xwZero w = true
    · simp only [hz, if_true, mem_lanesOf, BitVec.getLsbD_and, BitVec.getLsbD_not]
      constructor
      · rintro ⟨h, h2⟩
        simp only [h, decide_true, Bool.true_and, Bool.and_eq_true, Bool.not_eq_true'] at h2
        exact ⟨h, w, rfl, hz, h2.1, h2.2⟩
      · rintro ⟨h, w', hw', -, h1, h2⟩
        exact ⟨h, by simp only [h, h1, h2, decide_true, Bool.not_false, Bool.and_true]⟩
    · simp only [hz, Bool.false_eq_true, if_false, List.not_mem_nil, false_iff]
      rintro ⟨-, w', hw', hz', -⟩
      cases hw'; exact hz hz'

/-- A mask after a lane-wise merge. -/
theorem getLsbD_mergeMask (e : Env) (old : LaneMask) (bit : Nat → Bool) (l : Nat) (hl : l < 64) :
    (e.exec.getLsbD l = true → (mergeMask e old bit).getLsbD l = bit l)
    ∧ (Cleared e l → (mergeMask e old bit).getLsbD l = false)
    ∧ (e.exec.getLsbD l = false → ¬ Cleared e l → (mergeMask e old bit).getLsbD l = old.getLsbD l) := by
  have h : (mergeMask e old bit).getLsbD l
      = if l ∈ zeroLanes e then false else if l ∈ lanesOf e.exec then bit l else old.getLsbD l := by
    unfold mergeMask
    rw [getLsbD_foldl_setBit (zeroLanes e) (fun _ => false) (fun l h => (mem_zeroLanes.1 h).1),
      getLsbD_foldl_setBit (lanesOf e.exec) bit (fun l h => (mem_lanesOf.1 h).1)]
  refine ⟨fun hx => ?_, fun hc => ?_, fun hx hc => ?_⟩
  · have : l ∉ zeroLanes e := by
      rw [mem_zeroLanes]; rintro ⟨-, w, -, -, -, h0⟩; rw [hx] at h0; cases h0
    rw [h, if_neg this, if_pos (mem_lanesOf.2 ⟨hl, hx⟩)]
  · rw [h, if_pos (mem_zeroLanes.2 ⟨hl, hc⟩)]
  · rw [h, if_neg (fun h' => hc (mem_zeroLanes.1 h').2), if_neg (fun h' => by
      have := (mem_lanesOf.1 h').2; rw [hx] at this; cases this)]

/-! ## Writes of v words -/

/-- The map after a fold of `asetD` over pairs with distinct keys. -/
theorem agetD_foldl_pairs (ps : List (Nat × Word)) (m : Amap Word) (k : Nat)
    (hu : ∀ p ∈ ps, ∀ q ∈ ps, p.1 = q.1 → p.2 = q.2) :
    (∀ w, (k, w) ∈ ps → agetD (ps.foldl (fun m p => asetD m 0 p.1 p.2) m) 0 k = w)
    ∧ ((∀ p ∈ ps, p.1 ≠ k) → agetD (ps.foldl (fun m p => asetD m 0 p.1 p.2) m) 0 k = agetD m 0 k) := by
  induction ps generalizing m with
  | nil => simp
  | cons a r ih =>
    have hr := ih (asetD m 0 a.1 a.2) (fun p hp q hq => hu p (List.mem_cons_of_mem _ hp) q (List.mem_cons_of_mem _ hq))
    refine ⟨fun w hw => ?_, fun hn => ?_⟩
    · rw [List.foldl_cons]
      by_cases hin : ∃ w', (k, w') ∈ r
      · obtain ⟨w', hw'⟩ := hin
        rw [hr.1 w' hw']
        exact (hu (k, w) hw (k, w') (List.mem_cons_of_mem _ hw') rfl).symm
      · rw [hr.2 (fun p hp h => hin ⟨p.2, by rw [← h]; exact hp⟩)]
        rcases List.mem_cons.1 hw with h | h
        · rw [← h]; exact agetD_asetD_same _ _ _ _
        · exact absurd ⟨w, h⟩ hin
    · rw [List.foldl_cons, hr.2 (fun p hp => hn p (List.mem_cons_of_mem _ hp))]
      exact agetD_asetD_ne _ _ _ (fun h => hn a List.mem_cons_self h.symm)

/-- Poison marks after words are written over `halves`. -/
theorem agetD_foldl_halves (halves : BitVec 2) (ps : List (Nat × Word)) (m : Amap (BitVec 2)) (k : Nat) :
    agetD (ps.foldl (fun m p => asetD m 0 p.1 (agetD m 0 p.1 &&& ~~~halves)) m) 0 k
      = if ∃ w, (k, w) ∈ ps then agetD m 0 k &&& ~~~halves else agetD m 0 k := by
  induction ps generalizing m with
  | nil => simp
  | cons a r ih =>
    rw [List.foldl_cons, ih]
    by_cases ha : a.1 = k
    · subst ha
      have h1 : ∃ w, (a.1, w) ∈ a :: r := ⟨a.2, List.mem_cons_self⟩
      rw [if_pos h1, agetD_asetD_same]
      split
      · rw [BitVec.and_assoc, BitVec.and_self]
      · rfl
    · rw [agetD_asetD_ne _ _ _ (fun h => ha h.symm)]
      have : (∃ w, (k, w) ∈ a :: r) ↔ ∃ w, (k, w) ∈ r := by
        constructor
        · rintro ⟨w, hw⟩
          rcases List.mem_cons.1 hw with h | h
          · exact absurd (by rw [← h]) ha
          · exact ⟨w, h⟩
        · rintro ⟨w, hw⟩; exact ⟨w, List.mem_cons_of_mem _ hw⟩
      simp only [this]

/-! ## The common endings -/

/-- What a region-opening instruction runs on: the context and frame that its effect finds. -/
structure Acting (s : State) (e : Env) (s1 : State) (e1 : Env) : Prop where
  key   : e1.key = e.key
  fr    : e1.fr = e.fr
  norm  : e1.norm = e.norm
  exec  : e1.exec = e.exec
  word  : e1.word = e.word
  state : ∃ r, e1.c = { e.c with r := { e.c.r with ovt := ovtInForce s e }, region := some r }
            ∧ s1 = setCtx s e.key e1.c
  ctx   : aget s.ctxs e.key = some e.c
  frame : aget s.frames (frameKeyOf e.key) = some e.fr

theorem acting {q : Req} {s : State} {e : Env} (he : envOf s = some e) (h : q.stall = false) (hb : q.bare = false) :
    Acting s e (setCtx s e.key (openedEnv q s e).c) (openedEnv q s e) := by
  obtain ⟨-, hc, hf, -⟩ := envOf_parts he
  obtain ⟨r, hr⟩ := openedEnv_c h hb s e
  exact ⟨by simp, by simp, by simp, by simp, by simp, ⟨r, hr, rfl⟩, hc, hf⟩

/-- A write of v words is a change of the region record and of the frame's words. -/
theorem writeV_eq {s : State} {key : Nat} {c : Ctx} {f : Frame} (hc : aget s.ctxs key = some c)
    (hf : aget s.frames (frameKeyOf key) = some f) (halves : BitVec 2) (vals : List (Nat × Word)) :
    writeV s key halves vals = { s with
      ctxs := aput s.ctxs key (shadowV c f (vals.map (·.1)))
      frames := aput s.frames (frameKeyOf key) { f with
        v := vals.foldl (fun m p => asetD m 0 p.1 p.2) f.v
        vpoison := vals.foldl (fun m p => asetD m 0 p.1 (agetD m 0 p.1 &&& ~~~halves)) f.vpoison } } := by
  unfold writeV
  simp only [hc, hf]
  rfl

/-- Old values go into the region record only. -/
theorem shadowV_region {c : Ctx} {r : Region} (h : c.region = some r) (f : Frame) (ks : List Nat) :
    ∃ r', shadowV c f ks = { c with region := some r' } := by
  unfold shadowV
  rw [h]
  exact ⟨_, rfl⟩

/-- The state after the registers of one context and the words of its frame are replaced. -/
theorem onlyRegs_of {s t : State} {e : Env} {c : Ctx} {f : Frame} {r : Region}
    (hx : t = { s with ctxs := t.ctxs, frames := t.frames })
    (hk : ∀ k, k ≠ e.key → aget t.ctxs k = aget s.ctxs k)
    (hfk : ∀ k, k ≠ frameKeyOf e.key → aget t.frames k = aget s.frames k)
    (hc : aget t.ctxs e.key = some c) (hcr : c = { e.c with r := c.r, region := some r })
    (hf : aget t.frames (frameKeyOf e.key) = some f) (hfr : f = { e.fr with v := f.v, vpoison := f.vpoison }) :
    OnlyRegs s t e := by
  refine ⟨hx, hk, hfk, ⟨c, hc, ?_, ?_⟩, ⟨f, hf, hfr⟩, fun pa => ?_⟩
  · rw [show c.region = some r by rw [hcr]]; exact hcr
  · rw [show c.region = some r by rw [hcr]]; rfl
  · rw [hx]; rfl

/-- Going to the next slot after a change `g` of the registers: nothing else changes. -/
theorem finish_only {s s1 : State} {e e1 : Env} (ha : Acting s e s1 e1) (g : CtxRegs → CtxRegs) :
    OnlyRegs s (finish s1 e1 g) e
    ∧ regsOf (finish s1 e1 g) e.key = some (advance (g { e.c.r with ovt := ovtInForce s e }))
    ∧ SameV s (finish s1 e1 g) := by
  obtain ⟨r, hr, hs⟩ := ha.state
  have hctx : (finish s1 e1 g).ctxs = amod s1.ctxs e.key (fun c => { c with r := advance (g c.r) }) := by
    rw [← ha.key]; rfl
  have hget : aget (finish s1 e1 g).ctxs e.key
      = some { e1.c with r := advance (g e1.c.r) } := by
    rw [hctx, aget_amod, hs, if_pos rfl]
    simp
  have hfr : (finish s1 e1 g).frames = s.frames := by rw [hs]; rfl
  refine ⟨onlyRegs_of (r := r) (f := e.fr) ?_ ?_ ?_ hget ?_ ?_ rfl, ?_, ?_⟩
  · rw [hs]; rfl
  · intro k hk
    rw [hctx, aget_amod_ne _ _ hk, hs]
    exact aget_aput_ne _ _ hk
  · intro k _; rw [hfr]
  · rw [hr]
  · rw [hfr]; exact ha.frame
  · simp only [regsOf, hget, Option.map_some, hr]
  · intro key n lane
    simp only [vReg, vPoison, hfr, and_self]

/-- Nothing is written but the PC and the prefix state. -/
theorem finish_id {s s1 : State} {e e1 : Env} (ha : Acting s e s1 e1) :
    OnlyRegs s (finish s1 e1 id) e ∧ regsOf (finish s1 e1 id) e.key = some (stepped s e)
    ∧ SameV s (finish s1 e1 id) := finish_only ha id

/-- Keys of the words of one v register. -/
theorem mem_laneWords {e : Env} {n : Nat} {val : Nat → Word} {k : Nat} {w : Word} :
    (k, w) ∈ laneWords e n val ↔
      (∃ l, l < 64 ∧ e.exec.getLsbD l = true ∧ k = 64 * n + l ∧ w = val l)
      ∨ (∃ l, l < 64 ∧ Cleared e l ∧ k = 64 * n + l ∧ w = 0) := by
  simp only [laneWords, List.mem_append, List.mem_map, mem_lanesOf, mem_zeroLanes, Prod.mk.injEq]
  constructor
  · rintro (⟨l, ⟨h1, h2⟩, rfl, rfl⟩ | ⟨l, ⟨h1, h2⟩, rfl, rfl⟩)
    · exact .inl ⟨l, h1, h2, rfl, rfl⟩
    · exact .inr ⟨l, h1, h2, rfl, rfl⟩
  · rintro (⟨l, h1, h2, rfl, rfl⟩ | ⟨l, h1, h2, rfl, rfl⟩)
    · exact .inl ⟨l, ⟨h1, h2⟩, rfl, rfl⟩
    · exact .inr ⟨l, ⟨h1, h2⟩, rfl, rfl⟩

theorem cleared_not_exec {e : Env} {l : Nat} (h : Cleared e l) : e.exec.getLsbD l = false := by
  obtain ⟨-, -, -, -, h⟩ := h; exact h

theorem laneWords_functional {e : Env} {n : Nat} {val : Nat → Word} :
    ∀ p ∈ laneWords e n val, ∀ q ∈ laneWords e n val, p.1 = q.1 → p.2 = q.2 := by
  rintro ⟨k, w⟩ hp ⟨k', w'⟩ hq hk
  simp only at hk ⊢
  subst hk
  rcases mem_laneWords.1 hp with ⟨l, h1, h2, h3, rfl⟩ | ⟨l, h1, h2, h3, rfl⟩ <;>
    rcases mem_laneWords.1 hq with ⟨l', h1', h2', h3', rfl⟩ | ⟨l', h1', h2', h3', rfl⟩ <;>
    (obtain rfl : l = l' := by omega) <;> first | rfl | skip
  · rw [cleared_not_exec h2'] at h2; cases h2
  · rw [cleared_not_exec h2] at h2'; cases h2'

/-- What writing destination D leaves (06 R148, 07 R175, R177; 18 R428). -/
theorem writeD_dest {s s1 : State} {e e1 : Env} (ha : Acting s e s1 e1) (d : Spec) (val : Nat → Word) :
    OnlyRegs s (writeD s1 e1 d val) e ∧ DestIs s (writeD s1 e1 d val) e d val := by
  have same : (∀ n, operandOf d ≠ .vreg n) → (∀ n, operandOf d ≠ .greg n) →
      OnlyRegs s (finish s1 e1 id) e ∧ DestIs s (finish s1 e1 id) e d val := by
    intro hv hg
    obtain ⟨h1, h2, h3⟩ := finish_id ha
    refine ⟨h1, fun n lane _ => ⟨fun h => absurd h.1 (hv n), fun h => absurd h.1 (hv n), fun _ => h3 e.key n lane⟩,
      _, h2, rfl, fun n => ?_, fun n => ?_, fun i => ?_⟩
    · rw [if_neg (hg n)]; rfl
    · rw [if_neg (hg n)]; rfl
    · have : ¬ (256 ≤ i ∧ operandOf d = .greg (i - 256)) := fun h => hg _ h.2
      simp only [this, decide_false, Bool.or_false]; rfl
  unfold writeD
  split
  · next n hd =>
    obtain ⟨r, hr, hs⟩ := ha.state
    have hc1 : aget s1.ctxs e1.key = some e1.c := by rw [hs, ha.key, setCtx_ctxs, aget_aput, if_pos rfl]
    have hf1 : aget s1.frames (frameKeyOf e1.key) = some e.fr := by rw [hs, ha.key]; exact ha.frame
    obtain ⟨r', hr'⟩ := shadowV_region (c := e1.c) (by rw [hr]) e.fr ((laneWords e1 n val).map (·.1))
    set t := finish (writeV s1 e1.key 3 (laneWords e1 n val)) e1 id with ht
    have hw : laneWords e1 n val = laneWords e n val := by
      simp only [laneWords, zeroLanes, ha.exec, ha.word, ha.norm]
    have hctx : t.ctxs = amod (aput s1.ctxs e.key (shadowV e1.c e.fr ((laneWords e1 n val).map (·.1)))) e.key
        (fun c => { c with r := advance c.r }) := by
      rw [ht, writeV_eq hc1 hf1, ← ha.key]; rfl
    have hfrm : t.frames = aput s.frames (frameKeyOf e.key) { e.fr with
        v := (laneWords e n val).foldl (fun m p => asetD m 0 p.1 p.2) e.fr.v
        vpoison := (laneWords e n val).foldl (fun m p => asetD m 0 p.1 (agetD m 0 p.1 &&& ~~~(3 : BitVec 2)))
          e.fr.vpoison } := by
      rw [ht, writeV_eq hc1 hf1, ← hw, ← ha.key, hs]; rfl
    have hget : aget t.ctxs e.key = some { e1.c with r := advance e1.c.r, region := some r' } := by
      rw [hctx, aget_amod, if_pos rfl, aget_aput, if_pos rfl, hr']; rfl
    have hgf := (congrArg (fun m => aget m (frameKeyOf e.key)) hfrm).trans
      ((aget_aput _ _ _ _).trans (if_pos rfl))
    refine ⟨onlyRegs_of (r := r') ?_ ?_ ?_ hget ?_ hgf rfl, ?_, ?_⟩
    · rw [ht, writeV_eq hc1 hf1, hs]; rfl
    · intro k hk
      rw [hctx, aget_amod_ne _ _ hk, aget_aput_ne _ _ hk, hs]
      exact aget_aput_ne _ _ hk
    · intro k hk; rw [hfrm]; exact aget_aput_ne _ _ hk
    · rw [hr]
    · intro m lane hl
      have hv : vReg t e.key m lane
          = agetD ((laneWords e n val).foldl (fun m p => asetD m 0 p.1 p.2) e.fr.v) 0 (64 * m + lane) := by
        simp only [vReg, hgf, vAt]
      have hp : vPoison t e.key m lane = (if ∃ w, (64 * m + lane, w) ∈ laneWords e n val then
          agetD e.fr.vpoison 0 (64 * m + lane) &&& ~~~(3 : BitVec 2) else agetD e.fr.vpoison 0 (64 * m + lane)) := by
        simp only [vPoison, hgf, vPoisonAt]
        exact agetD_foldl_halves 3 _ _ _
      have hz : ∀ x : BitVec 2, x &&& ~~~(3 : BitVec 2) = 0 := by decide
      have hsv : vReg s e.key m lane = agetD e.fr.v 0 (64 * m + lane) := by simp only [vReg, ha.frame, vAt]
      have hsp : vPoison s e.key m lane = agetD e.fr.vpoison 0 (64 * m + lane) := by
        simp only [vPoison, ha.frame, vPoisonAt]
      have hu := agetD_foldl_pairs (laneWords e n val) e.fr.v (64 * m + lane) laneWords_functional
      refine ⟨fun h => ?_, fun h => ?_, fun h => ?_⟩
      · obtain rfl : n = m := by have := hd.symm.trans h.1; cases this; rfl
        have hin : (64 * n + lane, val lane) ∈ laneWords e n val := mem_laneWords.2 (.inl ⟨lane, hl, h.2, rfl, rfl⟩)
        rw [hv, hp, hu.1 _ hin, if_pos ⟨_, hin⟩, hz]
        exact ⟨rfl, rfl⟩
      · obtain rfl : n = m := by have := hd.symm.trans h.1; cases this; rfl
        have hin : (64 * n + lane, (0 : Word)) ∈ laneWords e n val := mem_laneWords.2 (.inr ⟨lane, hl, h.2, rfl, rfl⟩)
        rw [hv, hp, hu.1 _ hin, if_pos ⟨_, hin⟩, hz]
        exact ⟨rfl, rfl⟩
      · have hout : ∀ w, (64 * m + lane, w) ∉ laneWords e n val := by
          intro w hw'
          rcases mem_laneWords.1 hw' with ⟨l, h1, h2, h3, -⟩ | ⟨l, h1, h2, h3, -⟩ <;>
            (obtain ⟨rfl, rfl⟩ : m = n ∧ lane = l := by constructor <;> omega) <;> exact h ⟨hd, by tauto⟩
        rw [hv, hp, hu.2 (fun p hp' heq => hout p.2 (by rw [← heq]; exact hp')), if_neg (fun ⟨w, hw'⟩ => hout w hw'),
          hsv, hsp]
        exact ⟨rfl, rfl⟩
    · refine ⟨advance e1.c.r, by simp only [regsOf, hget]; rfl, ?_, fun m => ?_, fun m => ?_, fun i => ?_⟩
      · rw [hr]; rfl
      · rw [if_neg (by rw [hd]; simp)]; rw [hr]; rfl
      · rw [if_neg (by rw [hd]; simp)]; rw [hr]; rfl
      · have : ¬ (256 ≤ i ∧ operandOf d = .greg (i - 256)) := fun h => by rw [hd] at h; simp at h
        simp only [this, decide_false, Bool.or_false, hr]; rfl
  · next n hd =>
    obtain ⟨h1, h2, h3⟩ := finish_only ha (fun r => putG r n (val 0))
    refine ⟨h1, fun m lane _ => ⟨fun h => ?_, fun h => ?_, fun _ => h3 e.key m lane⟩, _, h2, ?_, fun m => ?_, fun m => ?_,
      fun i => ?_⟩
    · rw [hd] at h; simp at h
    · rw [hd] at h; simp at h
    · unfold putG noteG stepped advance; split <;> rfl
    · rw [hd]
      have : gAt (advance (putG { e.c.r with ovt := ovtInForce s e } n (val 0))) m
          = agetD (asetD e.c.r.g 0 n (val 0)) 0 m := by
        unfold putG noteG gAt advance; split <;> rfl
      rw [this, agetD_asetD]
      by_cases hm : m = n
      · simp [hm]
      · rw [if_neg hm, if_neg (by simpa using fun h : n = m => hm h.symm)]; rfl
    · rw [hd]
      have : agetD (advance (putG { e.c.r with ovt := ovtInForce s e } n (val 0))).gpoison 0 m
          = agetD (aerase e.c.r.gpoison n) 0 m := by
        unfold putG noteG advance; split <;> rfl
      rw [this]
      by_cases hm : m = n
      · subst hm; simp [agetD]
      · rw [if_neg (by simpa using fun h : n = m => hm h.symm)]
        simp only [agetD, aget_aerase_ne _ hm]
    · rw [hd]
      have : (advance (putG { e.c.r with ovt := ovtInForce s e } n (val 0))).wroteG
          = if e.c.r.wroteG.contains (256 + n) then e.c.r.wroteG else (256 + n) :: e.c.r.wroteG := by
        unfold putG noteG advance; split <;> rfl
      rw [this]
      have hi : decide (256 ≤ i ∧ (Operand.greg n : Operand) = .greg (i - 256)) = (i == 256 + n) := by
        by_cases h : i = 256 + n
        · subst h; simp
        · have : ¬ (256 ≤ i ∧ (Operand.greg n : Operand) = .greg (i - 256)) := by
            rintro ⟨h1, h2⟩
            have := Operand.greg.inj h2
            omega
          rw [decide_eq_false this, beq_eq_false_iff_ne.2 h]
      rw [hi]
      split
      · next hc =>
        by_cases h : i = 256 + n
        · rw [h, hc]; rfl
        · rw [beq_eq_false_iff_ne.2 h, Bool.or_false]
      · rw [List.contains_cons, Bool.or_comm]
  · next hv hg => exact same hv hg

/-- What writing a mask lane by lane leaves (08 R216). -/
theorem writeMask_mask {s s1 : State} {e e1 : Env} (ha : Acting s e s1 e1) {d : Spec} (hd : kOf d ≠ 0)
    (bit : Nat → Bool) :
    OnlyRegs s (writeMask s1 e1 d bit) e ∧ MaskIs s (writeMask s1 e1 d bit) e (kOf d) bit := by
  unfold writeMask
  obtain ⟨h1, h2, h3⟩ := finish_only ha (fun r => putMask r (kOf d) (mergeMask e1 (maskOf r (kOf d)) bit))
  have hm : ∀ j, maskOf (advance (putMask { e.c.r with ovt := ovtInForce s e } (kOf d)
      (mergeMask e1 (maskOf { e.c.r with ovt := ovtInForce s e } (kOf d)) bit))) j
      = if j = kOf d then mergeMask e1 (maskOf e.c.r (kOf d)) bit else maskOf e.c.r j := by
    intro j
    by_cases hj : j = 0
    · subst hj; rw [if_neg (fun h => hd h.symm)]; simp only [maskOf, if_pos, advance, putMask]
    · by_cases hk : j = kOf d
      · rw [if_pos hk]
        simp only [maskOf, hj, if_false, advance, putMask]
        rw [hk, agetD_asetD_same]
      · rw [if_neg hk]
        simp only [maskOf, hj, if_false, advance, putMask]
        exact agetD_asetD_ne _ _ _ hk
  refine ⟨h1, h3, _, h2, rfl, fun j hj => ?_, fun lane hl => ?_⟩
  · rw [hm, if_neg hj]
  · rw [hm, if_pos rfl]
    have hb := getLsbD_mergeMask e1 (maskOf e.c.r (kOf d)) bit lane hl
    have hcl : Cleared e1 lane ↔ Cleared e lane := by
      simp only [Cleared, ha.word, ha.norm, ha.exec]
    rw [hcl, ha.exec] at hb
    exact hb

/-! ## Operands as the effect reads them -/

/-- Opening a region changes no register but the overflow table. -/
theorem openedEnv_r (q : Req) (s : State) (e : Env) : ∃ o, (openedEnv q s e).c.r = { e.c.r with ovt := o } := by
  unfold openedEnv
  split
  · exact ⟨e.c.r.ovt, rfl⟩
  · unfold opened
    cases e.c.region with
    | none => exact ⟨_, rfl⟩
    | some r => exact ⟨e.c.r.ovt, rfl⟩

section Reads
variable (q : Req) (s : State) (e : Env)
@[simp] theorem opWord_opened (rt : Nat) (imm : Word) (sp : Spec) (l : Nat) :
    opWord (openedEnv q s e) rt imm sp l = opWord e rt imm sp l := by
  obtain ⟨o, h⟩ := openedEnv_r q s e
  simp only [opWord, openedEnv_fr, h]; rfl
@[simp] theorem opPair_opened (sp : Spec) (l : Nat) : opPair (openedEnv q s e) sp l = opPair e sp l := by
  obtain ⟨o, h⟩ := openedEnv_r q s e
  simp only [opPair, openedEnv_fr, h]; rfl
@[simp] theorem maskOf_opened (k : Nat) : maskOf (openedEnv q s e).c.r k = maskOf e.c.r k := by
  obtain ⟨o, h⟩ := openedEnv_r q s e
  rw [h]; rfl
@[simp] theorem hAt_opened (k : Nat) : hAt (openedEnv q s e).c.r k = hAt e.c.r k := by
  obtain ⟨o, h⟩ := openedEnv_r q s e
  rw [h]; rfl
@[simp] theorem fmt_opened : (openedEnv q s e).c.r.fmt = e.c.r.fmt := by
  obtain ⟨o, h⟩ := openedEnv_r q s e
  rw [h]
@[simp] theorem pc_opened : (openedEnv q s e).c.r.pc = e.c.r.pc := by
  obtain ⟨o, h⟩ := openedEnv_r q s e
  rw [h]
@[simp] theorem m0_opened : (openedEnv q s e).c.r.m0 = e.c.r.m0 := by
  obtain ⟨o, h⟩ := openedEnv_r q s e
  rw [h]
@[simp] theorem satOf_opened (b : Bool) : satOf (openedEnv q s e) b = satOf e b := by
  simp only [satOf, openedEnv_word]
@[simp] theorem modeOf_opened : modeOf (openedEnv q s e) = modeOf e := by
  simp only [modeOf, openedEnv_word, fmt_opened]
@[simp] theorem op4Mask_opened : op4Mask (openedEnv q s e) = op4Mask e := by
  simp only [op4Mask, openedEnv_word, maskOf_opened]
theorem ovt_opened (h : q.stall = false) (hb : q.bare = false) : (openedEnv q s e).c.r.ovt = ovtInForce s e := by
  obtain ⟨r, hr⟩ := openedEnv_c h hb s e
  rw [hr]
end Reads

/-! ## Whole instructions -/

/-- An instruction whose effect is to write destination D. -/
theorem issue_writes {i : Instr} {q : Req} {s : State} {e : Env} (he : envOf s = some e) (hn : blocked i q e s = none)
    (d : Spec) (x : Env → State → Nat → Word) (hs : q.stall = false := by rfl) (hb : q.bare = false := by rfl) :
    ∃ t, issue i q (fun e s => writeD s e d (x e s)) s = .next t ∧ OnlyRegs s t e
      ∧ DestIs s t e d (x (openedEnv q s e) (setCtx s e.key (openedEnv q s e).c)) := by
  have h := writeD_dest (acting he hs hb) d (x (openedEnv q s e) (setCtx s e.key (openedEnv q s e).c))
  exact ⟨_, issue_acts he hn, h.1, h.2⟩

/-- An instruction whose effect is to write mask D lane by lane. -/
theorem issue_masks {i : Instr} {q : Req} {s : State} {e : Env} (he : envOf s = some e) (hn : blocked i q e s = none)
    {d : Spec} (hd : kOf d ≠ 0) (x : Env → Nat → Bool) (hs : q.stall = false := by rfl)
    (hb : q.bare = false := by rfl) :
    ∃ t, issue i q (fun e s => writeMask s e d (x e)) s = .next t ∧ OnlyRegs s t e
      ∧ MaskIs s t e (kOf d) (x (openedEnv q s e)) := by
  have h := writeMask_mask (acting he hs hb) hd (x (openedEnv q s e))
  exact ⟨_, issue_acts he hn, h.1, h.2⟩

/-- An instruction whose effect is a change of the registers of the context. -/
theorem issue_regs {i : Instr} {q : Req} {s : State} {e : Env} (he : envOf s = some e) (hn : blocked i q e s = none)
    (g : Env → CtxRegs → CtxRegs) (hs : q.stall = false := by rfl) (hb : q.bare = false := by rfl) :
    ∃ t, issue i q (fun e s => finish s e (g e)) s = .next t
      ∧ RegsAre s t e (advance (g (openedEnv q s e) { e.c.r with ovt := ovtInForce s e })) := by
  obtain ⟨h1, h2, h3⟩ := finish_only (acting he hs hb) (g (openedEnv q s e))
  exact ⟨_, issue_acts he hn, h1, h3, h2⟩

/-- An instruction that acts has a good encoding. -/
theorem encodingOk_of_acts {i : Instr} {q : Req} {s : State} {e : Env} (hn : blocked i q e s = none) :
    encodingOk i = true := by
  unfold blocked at hn
  by_contra h
  simp only [Bool.not_eq_true] at h
  split at hn
  · cases hn
  · simp [h] at hn

end Sys2Proof.Machine
end

