-- ==== Sys2Proof/Tests/Slice0.lean ====
section
/-!
SUPPORT. Tests: ill-formed terms that the checks refuse, slots written out from the spec's encoding tables, single steps
with results worked out from the spec, and for every obligation with hypotheses a state and operands that meet them.
-/

namespace Sys2Proof.Tests

open Sys2Proof.Machine Sys2Proof.Claims

set_option Elab.async false

/-! ## A small machine -/

/-- The cells of `n` bytes at `a` that hold `v`, without the zeros. -/
def cellsAt (a n v : Nat) : List Host.Cell :=
  ((List.range n).zip (natLe n v)).filterMap (fun p => if p.2 = 0 then none else some (a + p.1, p.2))

/-- A VI owned by node 9: page tables at 0x10000, ASID 7, every right, peers node 6 and this module. -/
def vi : Vi :=
  { Vi.reset with
    en := true, reshard := true, priv := true, peers := [(0, 0x80000006#32), (1, 0x80000005#32)]
    desc := 0xffffffffffffffffffffffffffffffff000000000000800000000000000100000000000000000000000000000000000000000000000000000000000001c00009#512 }

/-- A layout record: FP32, region and view of 32 x 4 elements, one band, at 1 GiB; its region record at 2 GiB. -/
def hrec : BitVec 1024 :=
  0x800000000000000040000000000000000000000000000000000000010000000400000020000400200000000100000004000000200000000000000010#1024

/-- The same for T8 elements with scales at 0x5000: 128 x 1. -/
def srec : BitVec 1024 :=
  at_ 1024 0 3 ||| at_ 1024 4 1 ||| at_ 1024 6 1 ||| at_ 1024 64 128 ||| at_ 1024 96 1 ||| at_ 1024 128 1
  ||| at_ 1024 160 128 ||| at_ 1024 176 1 ||| at_ 1024 192 128 ||| at_ 1024 224 1 ||| at_ 1024 256 1
  ||| at_ 1024 384 0x40000000 ||| at_ 1024 448 0x80000000 ||| at_ 1024 512 0x5000

/-- Page tables that map the first GiB plain, the second tensor, the third to region records, each to itself; a layout
record at 0x1000. -/
def mem0 : List Host.Cell :=
  [(0x1000, 0x10), (0x1008, 0x20), (0x100C, 0x04), (0x1010, 0x01), (0x1014, 0x20), (0x1016, 0x04), (0x1018, 0x20),
   (0x101C, 0x04), (0x1020, 0x01), (0x1033, 0x40), (0x103B, 0x80),
   (0x10000, 0x01), (0x10001, 0x10), (0x10002, 0x01), (0x11000, 0x2F), (0x11008, 0x27), (0x1100B, 0x40), (0x1100F, 0x10),
   (0x11010, 0x27), (0x11013, 0x80), (0x11017, 0x20)]

/-- The page tables alone. -/
def tables : List Host.Cell :=
  [(0x10000, 0x01), (0x10001, 0x10), (0x10002, 0x01), (0x11000, 0x2F), (0x11008, 0x27), (0x1100B, 0x40), (0x1100F, 0x10),
   (0x11010, 0x27), (0x11013, 0x80), (0x11017, 0x20)]

theorem test_memory_cells :
    (mem0 = cellsAt 0x1000 128 hrec.toNat ++ tables
    && vi.desc = at_ 512 0 9 ||| at_ 512 22 7 ||| at_ 512 256 0x10000 ||| at_ 512 320 0x8000 ||| at_ 512 384 0xFFFFFFFF
      ||| at_ 512 416 0xFFFFFFFF ||| at_ 512 448 0xFFFFFFFF ||| at_ 512 480 0xFFFFFFFF
    && hrec = at_ 1024 0 0 ||| at_ 1024 4 1 ||| at_ 1024 64 32 ||| at_ 1024 96 4 ||| at_ 1024 128 1 ||| at_ 1024 160 32
      ||| at_ 1024 176 4 ||| at_ 1024 192 32 ||| at_ 1024 224 4 ||| at_ 1024 256 1 ||| at_ 1024 384 0x40000000
      ||| at_ 1024 448 0x80000000) = true := by decide +kernel

/-- g registers: g4 = 0x2000, g6 = 0x3000, g8 = 16, g14 = 64 and g15 = 1, g16 names node 6, g18 = 0x1000, g20 this node,
g22 = 5 GiB. -/
def gregs : Amap Word :=
  [(4, 0x2000), (6, 0x3000), (8, 16), (14, 64), (15, 1), (16, 6), (18, 0x1000), (20, 5), (22, 0x40000000), (23, 1)]

def regs0 : CtxRegs :=
  { CtxRegs.start 0 3 gregs 0 0x00155555#32 with handles := [(0, hrec), (1, srec), (2, hrec), (3, hrec)] }

/-- A context with two live lanes, ready to issue. -/
def ctx0 : Ctx := { Ctx.start regs0 0 3 0 with arrived := false }

def launch0 : Launch :=
  { vi := 0, queue := 0, prio := 0, serial := false, seq := 0, pkt := onePacket, st := .running, satisfied := [],
    poisonSeen := [], boost := 0, next := 1, aborted := false, prev := none }

def cohort0 : Cohort :=
  { launch := 0, x := 0, y := 0, z := 0, core := 0, slot := 0, spBase := 0, accBase := 0, sp := [], acc := [],
    accPoison := [], bars := [], sibs := [], cluster := none, saved := false, saving := false }

def group0 : Group :=
  { core := 0, frame := 0, first := 0, width := 64, gid := 0, prod := true, slots := 0, split := none }

def frame0 : Frame :=
  { core := 0, phys := 0, tag := 0, no := 0, regBase := 0, v := [], vpoison := [], live := 3 }

/-- Core 0 with one group of one cohort; this module is node 5. -/
def m : State :=
  { State.reset with
    launches := [(0, launch0)], cohorts := [(0, cohort0)], frames := [(0, frame0)], groups := [(0, group0)]
    ctxs := [(0, ctx0)], vis := [(0, vi)], mem := mem0, mgmt := { Mgmt.reset with nodeId := 5 }, nextId := 10 }

/-- The machine with another context, other registers, another cohort, packet, frame or group. -/
def withCtx (f : Ctx → Ctx) (s : State) : State := { s with ctxs := [(0, f ctx0)] }
def withRegs (f : CtxRegs → CtxRegs) (s : State) : State := withCtx (fun c => { c with r := f c.r }) s
def withCohort (f : Cohort → Cohort) (s : State) : State := { s with cohorts := [(0, f cohort0)] }
def withPacket (p : BitVec 2048) (s : State) : State := { s with launches := [(0, { launch0 with pkt := p })] }

/-- A region without any content. -/
def region0 : Region :=
  { entry := regs0, vold := [], vpold := [], shadows := [], items := [], reads := [], granules := [], writes := [],
    nSt := 0, nCp := 0, nTl := 0, ended := false, nonspec := false, holds := false }

/-- The instruction acts in `s`, in an environment with property `p`. -/
def on (i : Instr) (s : State) (p : Env → Bool) : Bool :=
  match envOf s with
  | some e => (blocked i (request i s) e s).isNone && p e
  | none => false
def rdy (i : Instr) (s : State) : Bool := on i s (fun _ => true)
/-- The current context has an environment with property `p`. -/
def env (s : State) (p : Env → Bool) : Bool := match envOf s with | some e => p e | none => false

/-! ## Instructions -/

/-- Format A with 510 in every operand. -/
def fA : FmtA :=
  { imm := 0, u := false, sat := false, absB := false, absA := false, negB := false, negA := false, c := 510, b := 510,
    a := 510, d := 510, ty := 0 }
/-- v3 := f(v1), f(v1, v2), f(v1, v2, v4) in i32, and in f32. -/
def a1 : FmtA := { fA with d := 3, a := 1, ty := 9 }
def a2 : FmtA := { a1 with b := 2 }
def a3 : FmtA := { a2 with c := 4 }
def f1 : FmtA := { a1 with ty := 0 }
def f2 : FmtA := { a2 with ty := 0 }
def f3 : FmtA := { a3 with ty := 0 }
/-- Format M: v3, [g4]. -/
def fM : FmtM := { off := 0, hint := 0, shift := 0, idx := 510, base := 260, d := 3, ty := 9 }
/-- Format T: v3, h2 at (0, 0). -/
def fT : FmtT := { off1 := 0, off0 := 0, cnt := 0, c2 := 510, c1 := 510, c0 := 510, h := 2, d := 3, ty := 0 }
def fB : FmtB := { joff := 0, toff := 0, jslot := 0, tslot := 0, mask := 0, cond := 0 }
def fX : FmtX := { neg := false, seten := false, setslot := 0, waitm := 0, accrow := 0, bbase := 0, abase := 0, shape := 0 }
def fE : FmtE :=
  { ext := 0, cwreg := 0, cwen := false, dmask := 0, baren := false, nb := 0, s2 := 510, s1 := 510, s0 := 510, var := 0 }

/-! ## Ill-formed terms (06 R138, R139, R144, R149 to R156) -/

def illFormed (l : List Instr) : Bool := l.all (fun i => !i.wellFormed)

theorem test_ill_formed_alu :
    illFormed [.nop { fA with d := 0, a := 0, b := 0, c := 0, imm := 1 }, .add { a2 with c := 0 }, .add { a2 with ty := 0 },
      .add { a2 with imm := 1 }, .add { a2 with negA := true }, .add { a2 with u := true }, .sub { a2 with a := 384 },
      .mulhi { a2 with sat := true }, .and { a2 with ty := 7, b := 496 }, .mad { a3 with d := 511 }, .addc { a2 with c := 448 },
      .subb { a2 with c := 449, ty := 8 }, .abs { a1 with b := 1 }, .not { a1 with sat := true }, .bfx { a2 with ty := 8 },
      .bfi { a3 with ty := 7 }, .sel { a2 with c := 464 }, .icmp { a2 with d := 448, c := 0 }, .icmp { a2 with d := 449, c := 6 }]
    = true := by decide +kernel

theorem test_ill_formed_float :
    illFormed [.fadd { f2 with ty := 3 }, .fma { f3 with u := true, d := 3 }, .fmin { f2 with sat := true }, .fabs { f1 with negA := true },
      .fcmp { f2 with d := 449, c := 8 }, .fcls { f2 with d := 449, c := 0 }, .frnd { f1 with sat := true }, .cvt { f1 with c := 11 },
      .cvti { a2 with c := 3 }, .cvtf { f2 with c := 4 }, .pack { a2 with ty := 1, c := 1 }, .unpk { a1 with ty := 1, c := 2 },
      .qnt { a2 with ty := 3, c := 1 }, .rcp { f1 with absB := true }] = true := by decide +kernel

theorem test_ill_formed_lanes :
    illFormed [.shfl { a2 with a := 256 }, .xbp { a2 with a := 510 }, .shup { a2 with b := 2 }, .shdn { a2 with b := 510 },
      .qswp { a1 with b := 448 }, .qbc { a1 with b := 452 }, .vote { a1 with ty := 0, c := 3 }, .ballot { a1 with ty := 0, d := 448 },
      .lred { a1 with c := 8 }, .lscan { a1 with c := 16 }, .lred { f1 with c := 3 }, .lred { a1 with c := 1, sat := true },
      .xbld { a1 with ty := 0, c := 4 }, .mov { a1 with a := 390 }, .movi { fA with d := 3, a := 1 }, .rsr { fA with d := 256, a := 384 },
      .rsr { fA with d := 3, a := 401 }, .wsr { fA with d := 399, a := 256 }, .fmts { fA with a := 510 }, .fmtr { fA with d := 3, a := 1 },
      .rand { fA with d := 256 }, .mset { fA with d := 448, a := 256, c := 0 }, .mset { fA with d := 449, a := 257, c := 0 },
      .mpop { fA with d := 3, a := 464, c := 0 }] = true := by decide +kernel

theorem test_ill_formed_memory :
    illFormed [.ld { fM with base := 261 }, .ld { fM with shift := 5 }, .ld { fM with hint := 4 }, .ld { fM with ty := 11 },
      .ldsp { fM with hint := 1 }, .ldg { fM with base := 3 }, .st { fM with d := 510 }, .st { fM with ty := 5, d := 496 }, .stg fM,
      .stsp { fM with idx := 384 }, .prf { fM with ty := 0 }, .aadd { fM with ty := 8 }, .axchg { fM with ty := 1 }, .acas fM,
      .afadd fM, .redst { fM with ty := 9 }, .thnd { fM with ty := 0, d := 464 }, .waddr { fM with d := 448, idx := 1 },
      .cmnt { fM with d := 3 }, .tld { fT with cnt := 4 }, .tst { fT with d := 256 }, .tlds { fT with c0 := 511 },
      .stsh { fT with h := 1 }, .lyrd { fT with d := 256 }, .lypin { fT with d := 510 }, .lyunp fT, .lyadv { fT with cnt := 1, d := 448 }]
    = true := by decide +kernel

theorem test_ill_formed_control :
    illFormed [.wait { fA with a := 448 }, .nbinit { fA with d := 464, a := 448, b := 448 }, .nbarv { fA with a := 448, c := 1 },
      .nbwt { fA with a := 464, c := 0 }, .nbsync { fA with a := 448, c := 2 }, .ovtld { fA with a := 3 },
      .tlbinv { fA with a := 257, c := 1 }, .ambw { fA with a := 448 }, .bra { fB with cond := 5 }, .bra { fB with mask := 1 },
      .brm { fB with tslot := 5 }, .call { fB with joff := 1 }, .calli { fB with joff := 257 }, .ret { fB with toff := 1 },
      .exit { fB with mask := 1 }, .join { fB with jslot := 1 }, .rgn { fB with cond := 1 }, .wset { fB with cond := 4 },
      .trap { fB with tslot := 1 }, .brk { fB with joff := 1 }, .pblk { pat := 2, count := 0, mask := 1 },
      .xpfx { xw2 := 0, xw1 := 1, xw0 := 0xFF70, nw := 0 }, .xpfx { xw2 := 0, xw1 := 0, xw0 := 0xFF50, nw := 0 },
      .xpfx { xw2 := 0, xw1 := 0, xw0 := 0xFF70, nw := 3 }, .xpfx { xw2 := 0, xw1 := 0, xw0 := 0xC870, nw := 0 },
      .notAnInstruction 0xFF] = true := by decide +kernel

theorem test_ill_formed_engines :
    illFormed [.mma { fX with shape := 3 }, .mma { fX with abase := 2 }, .mmaz { fX with accrow := 32 }, .accz { fX with neg := true },
      .accrd { fX with abase := 20 }, .accwr { fX with bbase := 4 }, .mma { fX with setslot := 1 }, .cpy { fE with s1 := 261 },
      .cpy { fE with s1 := 260, dmask := 1 }, .cpyo { fE with s1 := 260, ext := 1048577 }, .cpym { fE with s1 := 260 },
      .cpy { fE with var := 1, s1 := 448, s2 := 382 }, .cpy { fE with s1 := 260, nb := 1 }, .cpyacc { fE with s1 := 260, ext := 0x1800000 },
      .cpyacs { fE with s1 := 1 }, .dzjob { fE with var := 2, s1 := 260 }, .fput { fE with s0 := 260, s1 := 262, s2 := 510 },
      .fget { fE with s0 := 261, s1 := 262, s2 := 448 }, .fsig { fE with s0 := 260, s1 := 262, s2 := 448, ext := 1 },
      .jnlaunch { fE with var := 1, s1 := 260 }, .jnrst { fE with s1 := 261 }, .jnrstStop { fE with s1 := 260 },
      .jnrstClose { fE with var := 2, s1 := 260, ext := 1 }, .jnst { fE with s0 := 261, s1 := 260 }] = true := by decide +kernel

theorem test_events_have_no_encoding :
    encode .hbmFrameBoundary = none ∧ Instr.wellFormed .hbmFrameBoundary = false := ⟨rfl, by decide⟩

/-! ## Slots written out from the spec (06 Tables 6-3 to 6-11; encodings of 01, 07 to 14, 18 to 20) -/

-- 01: `add.i32 v1, v0, 100`; 08 Table 8-18: `min.i32 v6, v10, 8` and `and.i32.u g12, g10, 15`
theorem test_decode_integer :
    decode 0x0000006400FF7FC000190001#96 = .ok (.add { a2 with d := 1, a := 0, b := 511, imm := 100 })
    ∧ decode 0x0000000000FF720140690701#96 = .ok (.min { a2 with d := 6, a := 10, b := 456 })
    ∧ decode 0x0000000020FF73E150C90B01#96 = .ok (.and { a2 with d := 268, a := 266, b := 463, u := true }) := ⟨rfl, rfl, rfl⟩

-- `icmp.lt.i32 m3, v0, v7`; `shfl.i32 v2, v1, v3, 999`; `vote.all v5, v2`; `ballot m3, v2`; `lred.add.i32 v4, v1`
theorem test_decode_compare_and_lanes :
    decode 0x00000000000101C01C391901#96 = .ok (.icmp { a2 with d := 451, a := 0, b := 7, c := 2 })
    ∧ decode 0x000003E700FF80C020290005#96 = .ok (.shfl { a3 with d := 2, a := 1, b := 3, c := 511, imm := 999 })
    ∧ decode 0x000000000000FF8040500505#96 = .ok (.vote { fA with d := 5, a := 2, c := 1 })
    ∧ decode 0x0000000000FF7F805C300605#96 = .ok (.ballot { fA with d := 451, a := 2 })
    ∧ decode 0x0000000000007F8020490705#96 = .ok (.lred { a1 with d := 4, a := 1, c := 0 }) := ⟨rfl, rfl, rfl, rfl, rfl⟩

-- `ld.n8 v3, [g4 + v1]`; `st.i32 [g6], v3`; `ldsp.i32 v2, sp[v1]`; `redst.f32 [g4 + v1 << 2], v5`; `thnd h2, [g4]`
theorem test_decode_memory :
    decode 0x000000000000006080360007#96 = .ok (.ld { fM with ty := 6, idx := 1 })
    ∧ decode 0x0000000000007FA0C0390107#96 = .ok (.st { fM with base := 262 })
    ∧ decode 0x000000000000007FC0290407#96 = .ok (.ldsp { fM with d := 2, base := 510, idx := 1 })
    ∧ decode 0x000000000001006080500408#96 = .ok (.redst { fM with d := 5, ty := 0, idx := 1, shift := 2 })
    ∧ decode 0x0000000000007FA09C200508#96 = .ok (.thnd { fM with d := 450, ty := 0 }) := ⟨rfl, rfl, rfl, rfl, rfl⟩

-- 09, 13: `tld.i16.x2 v4, h1, v1, g10`; `tst.i16 h1, 0, 0, v6`; `lypin h2, g8, g9, 16`; `lyunp h2, g8, g9`
theorem test_decode_coordinates :
    decode 0x000000001FF4280220470008#96 = .ok (.tld { fT with d := 4, ty := 7, h := 1, c0 := 1, c1 := 266, cnt := 1 })
    ∧ decode 0x000000000FF7038020670108#96 = .ok (.tst { fT with d := 6, ty := 7, h := 1, c0 := 448, c1 := 448 })
    ∧ decode 0x000000000FF426105D00010E#96 = .ok (.lypin { fT with d := 464, c0 := 264, c1 := 265 })
    ∧ decode 0x000000000FF426105FE0020E#96 = .ok (.lyunp { fT with d := 510, c0 := 264, c1 := 265 }) := ⟨rfl, rfl, rfl, rfl⟩

-- `wait 0, 0, 16, 255`; `nbinit nb1, 1, 4096`; `nbsync.cl`; `waddr.n32 sp[g12], g13`
theorem test_decode_barriers :
    decode 0xFF10000000FF7FBFDFE0000A#96 = .ok (.wait { fA with imm := 0xFF100000 })
    ∧ decode 0x0000100000FF7FF83C10010A#96 = .ok (.nbinit { fA with d := 449, a := 449, b := 511, imm := 4096 })
    ∧ decode 0x000000000000FFBFDFE0040A#96 = .ok (.nbsync { fA with c := 1 })
    ∧ decode 0x000000000000433FD0DA050A#96 = .ok (.waddr { fM with d := 269, ty := 10, base := 510, idx := 268 }) :=
  ⟨rfl, rfl, rfl, rfl⟩

-- 10: `cpy g8, g2, 4096, nb1`; `cpym.box g12, h1, g8, 32, 32, 0b1111, nb1`; `dzjob.mem g8, 17`
theorem test_decode_copies :
    decode 0x000040000008FFA05080000B#96 = .ok (.cpy { fE with s0 := 264, s1 := 258, baren := true, nb := 1, ext := 4096 })
    ∧ decode 0x0007C07C00F8C23830C1020B#96
      = .ok (.cpym { fE with var := 1, s0 := 268, s1 := 449, s2 := 264, baren := true, nb := 1, dmask := 15, ext := 0x1F01F })
    ∧ decode 0x0000004400007FA11FE1050B#96 = .ok (.dzjob { fE with var := 1, s1 := 264, ext := 17 }) := ⟨rfl, rfl, rfl⟩

-- 11 Table 11-7: `mma.t8 acc[0], v8, v12, wait 1, set d0`; `accrd` of v24, and of v20, which is no multiple of 8 (R322)
theorem test_decode_matrix :
    decode 0x00000000100200018080000C#96 = .ok (.mma { fX with abase := 8, bbase := 12, waitm := 1, seten := true })
    ∧ decode 0x00000000000200000180030C#96 = .ok (.accrd { fX with abase := 24, waitm := 1 })
    ∧ decode 0x00000000000200000140030C#96 = .error .forbiddenField := ⟨rfl, rfl, rfl⟩

-- 07: `bra` to the next line's slot 3; `brm m3` with target and join in the next line; `rgn`; `exit`; `pblk m1, 3, 0b011`;
-- `xpfx m2`; the all-zero slot
theorem test_decode_control :
    decode 0x00000000000000010300000D#96 = .ok (.bra { fB with toff := 1, tslot := 3 })
    ∧ decode 0x00000001000000011130010D#96 = .ok (.brm { fB with mask := 3, toff := 1, tslot := 1, joff := 1, jslot := 2 })
    ∧ decode 0x00000000000000000000060D#96 = .ok (.rgn fB) ∧ decode 0x50D#96 = .ok (.exit fB)
    ∧ decode 0x000321F0#96 = .ok (.pblk { pat := 3, count := 2, mask := 1 })
    ∧ decode 0x0FF720F1#96 = .ok (.xpfx { xw2 := 0, xw1 := 0, xw0 := 0x000FF72, nw := 0 })
    ∧ decode 0#96 = .ok (.nop { fA with d := 0, a := 0, b := 0, c := 0 }) := ⟨rfl, rfl, rfl, rfl, rfl, rfl, rfl⟩

-- 18, 20: `ovtld g3`; `tlbinv.page g6`; `cmnt.i32 [g6], 0`; `ambw g8, g9`; `jnrst.stop g6`; `jnst g10, g6`;
-- `fput g10, g6, g12, 256, cw g14`; `fsig g10, g16, g12`
theorem test_decode_system :
    decode 0x0000000000FF7FA07FE0000F#96 = .ok (.ovtld { fA with a := 259 })
    ∧ decode 0x000000000000FFA0DFE0010F#96 = .ok (.tlbinv { fA with a := 262, c := 1 })
    ∧ decode 0x0000000000007FA0DC09020F#96 = .ok (.cmnt { fM with d := 448, base := 262 })
    ∧ decode 0x0000000000FF42611FE0030F#96 = .ok (.ambw { fA with a := 264, b := 265 })
    ∧ decode 0x0000000000007FA0DFE10110#96 = .ok (.jnrstStop { fE with var := 1, s1 := 262 })
    ∧ decode 0x0000000000007FA0D0A00210#96 = .ok (.jnst { fE with s0 := 266, s1 := 262 })
    ∧ decode 0x000004021D004320D0A00310#96
      = .ok (.fput { fE with s0 := 266, s1 := 262, s2 := 268, cwen := true, cwreg := 270, ext := 256 })
    ∧ decode 0x000000000000432210A00510#96 = .ok (.fsig { fE with s0 := 266, s1 := 272, s2 := 268 }) :=
  ⟨rfl, rfl, rfl, rfl, rfl, rfl, rfl, rfl⟩

/-! ## Single steps (expected results from the rules and worked examples of 08, 11 and 13, or by hand from them) -/

/-- The next state of `i` has property `p`. -/
def after (i : Instr) (s : State) (p : State → Bool) : Bool :=
  match exec i s with
  | .next t => p t
  | _ => false
def vOf (t : State) (n lane : Nat) : Word :=
  match aget t.frames 0 with
  | some f => vAt f n lane
  | none => 0
def regsOf (t : State) : CtxRegs :=
  match aget t.ctxs 0 with
  | some c => c.r
  | none => regs0
/-- The machine with these v registers (at 64 times the register plus the lane). -/
def withV (l : Amap Word) (s : State) : State := { s with frames := [(0, { frame0 with v := l })] }
/-- The machine with v1, v2 and v4 of lane 0. -/
def abc (a b c : Word) : State := withV [(64, a), (128, b), (256, c)] m
/-- `i` puts `w` into v3 of lane 0, from v1 = `a`, v2 = `b` and v4 = `c`. -/
def gives (i : Instr) (a b c w : Word) : Bool := after i (abc a b c) (fun t => vOf t 3 0 = w)
/-- The instruction sets the bit of lane 0 of m3, which was 0. -/
def holds (i : Instr) (a b : Word) : Bool := after i (abc a b 0) (fun t => (maskOf (regsOf t) 3).getLsbD 0)

-- Table 8-4 and the examples below it
theorem test_integer_arithmetic :
    (gives (.add a2) 0x7FFFFFFF 1 0 0x80000000 && gives (.add { a2 with sat := true }) 0x7FFFFFFF 1 0 0x7FFFFFFF
    && gives (.add { a2 with ty := 5 }) 0xFF7F7F7F 0x01018001 0 0x0080FF80 && gives (.sub { a2 with ty := 6, sat := true }) 1 2 0 0
    && gives (.mul { a2 with ty := 7 }) 0x00030004 0x40000005 0 0xC0000014
    && gives (.mulhi { a2 with ty := 10 }) 0xFFFFFFFF 2 0 1 && gives (.mulhi a2) 0xFFFFFFFF 2 0 0xFFFFFFFF
    && gives (.mad a3) 5 7 0xFFFFFFFE 33) = true := by decide +kernel

theorem test_integer_selection :
    (gives (.min { a2 with ty := 5 }) 0x80 0x7F 0 0x80 && gives (.max { a2 with ty := 6 }) 0x80 0x7F 0 0x80
    && gives (.abs { a1 with ty := 8 }) 0xFFFF 0 0 0xFFFF && gives (.abs a1) 0xFFFFFFFE 0 0 2
    && gives (.neg a1) 0x80000000 0 0 0x80000000 && gives (.neg { a1 with sat := true }) 0x80000000 0 0 0x7FFFFFFF) = true := by
  decide +kernel

theorem test_integer_bits :
    (gives (.and a2) 0xF0 0x3C 0 0x30 && gives (.or a2) 0xF0 0x3C 0 0xFC && gives (.xor a2) 0xF0 0x3C 0 0xCC
    && gives (.not a1) 0xF0 0 0 0xFFFFFF0F && gives (.shl { a2 with ty := 7 }) 0x00018001 17 0 0x00010002
    && gives (.shr a2) 0x80000000 33 0 0x40000000 && gives (.sar a2) 0x80000000 33 0 0xC0000000
    && gives (.rotl { a2 with ty := 6 }) 0x81 1 0 0x03 && gives (.clz { a1 with ty := 8 }) 0x00010100 0 0 0x000F0007
    && gives (.popc a1) 0xF1 0 0 5 && gives (.brev a1) 0x3 0 0 0xC0000000) = true := by decide +kernel

-- R213, R214, R215, R216
theorem test_carries_and_fields :
    (after (.addc { a2 with c := 451 }) (abc 0xFFFFFFFF 1 0) (fun t => vOf t 3 0 = 0 && maskOf (regsOf t) 3 = 1)
    && after (.subb { a2 with c := 451 }) (abc 1 2 0) (fun t => vOf t 3 0 = 0xFFFFFFFF && maskOf (regsOf t) 3 = 1)
    && gives (.bfx a2) 0xF00 0x0408 0 0xFFFFFFFF && gives (.bfi { a3 with ty := 10 }) 0 0xFF 0x0408 0xF00
    && gives (.sel { a2 with c := 448 }) 7 8 0 7 && gives (.sel { a2 with c := 449 }) 7 8 0 8
    && holds (.icmp { a2 with d := 451, c := 2 }) 0xFFFFFFFF 0 && !holds (.icmp { a2 with d := 451, c := 2, ty := 10 }) 0xFFFFFFFF 0)
    = true := by decide +kernel

-- Table 8-9 and the text of R217, R218, R220
theorem test_float_arithmetic :
    (gives (.fadd f2) 0x7F800000 0xFF800000 0 0x7FC00000 && gives (.fadd f2) 0x7F7FFFFF 0x7F7FFFFF 0 0x7F800000
    && gives (.fadd { f2 with sat := true }) 0x3F400000 0x3F000000 0 0x3F800000 && gives (.fsub f2) 0x40400000 0x3F800000 0 0x40000000
    && gives (.fsub { f2 with sat := true }) 0x7FC00001 0x3F800000 0 0 && gives (.fmul f2) 0x00800000 0x3F000000 0 0x00400000
    && gives (.fma f3) 0 0x7F800000 0x7FC00001 0x7FC00000 && gives (.fma { f3 with negA := true }) 0x40000000 0x40400000 0x40E00000 0x3F800000)
    = true := by decide +kernel

theorem test_float_selection :
    (gives (.fmin f2) 0x7FC00000 0x3F800000 0 0x3F800000 && gives (.fmin f2) 0 0x80000000 0 0x80000000
    && gives (.fmax f2) 0x80000000 0 0 0 && gives (.fabs { f1 with ty := 1 }) 0xC0000000 0 0 0x40000000
    && gives (.fneg f1) 0xFF800001 0 0 0x7FC00000 && gives (.frnd f1) 0xBE99999A 0 0 0x80000000 && gives (.frnd f1) 0x40200000 0 0 0x40000000
    && holds (.fcmp { f2 with d := 451, c := 1 }) 0x7FC00000 0x7FC00000 && !holds (.fcmp { f2 with d := 451, c := 5 }) 0x7FC00000 0
    && holds (.fcls { f2 with d := 451 }) 0xFF800000 2 && holds (.fcls { f2 with d := 451 }) 0x00400000 0x40) = true := by
  decide +kernel

-- the examples of R223, R224, R226; R225
theorem test_conversions :
    (gives (.cvt { a1 with c := 0 }) 0x4F800000 0 0 0x7FFFFFFF && gives (.cvt { f1 with ty := 1, c := 0 }) 0x3F808000 0 0 0x3F80
    && gives (.cvti { a2 with ty := 7, c := 0 }) 0x40533333 8 0 845 && gives (.cvtf { f2 with c := 7 }) 845 8 0 0x40534000
    && gives (.pack { a2 with ty := 3, c := 1 }) 0x3FC00000 0xC0400000 0 0xD8480000
    && gives (.unpk { a1 with ty := 5, c := 2 }) 0x00800000 0 0 0xFFFFFF80
    && gives (.qnt { a2 with ty := 3, c := 0 }) 0x41400000 0x82 0 0x48) = true := by decide +kernel

-- Tables 8-11 and 8-12, R229, R230
theorem test_special_functions :
    (gives (.rcp f1) 0x40400000 0 0 0x3EAAAAAB && gives (.rcp f1) 0x80000000 0 0 0xFF800000 && gives (.rsq f1) 0x40800000 0 0 0x3F000000
    && gives (.sqrt f1) 0x40000000 0 0 0x3FB504F3 && gives (.exp2 f1) 0x40400000 0 0 0x41000000 && gives (.log2 f1) 0x41000000 0 0 0x40400000
    && gives (.sin f1) 0x3E800000 0 0 0x3F800000 && gives (.cos f1) 0x3F000000 0 0 0xBF800000 && gives (.tanh f1) 0x7F800000 0 0 0x3F800000)
    = true := by decide +kernel

/-- v1 holds 10 and 11 in lanes 0 and 1. -/
def pair : State := withV [(64, 10), (65, 11)] m

-- R232 to R237; only lanes 0 and 1 live
theorem test_lane_exchanges :
    (after (.shfl { a3 with b := 449, c := 455 }) pair (fun t => vOf t 3 0 = 11 && vOf t 3 1 = 11)
    && after (.shup { a3 with b := 449, c := 455 }) pair (fun t => vOf t 3 0 = 7 && vOf t 3 1 = 10)
    && after (.shdn { a3 with b := 449, c := 455 }) pair (fun t => vOf t 3 0 = 11 && vOf t 3 1 = 7)
    && after (.qswp { a1 with b := 449 }) pair (fun t => vOf t 3 0 = 11 && vOf t 3 1 = 10)
    && after (.qbc { a1 with b := 449 }) pair (fun t => vOf t 3 0 = 11 && vOf t 3 1 = 11)
    && after (.xbld { fA with d := 265, a := 449, c := 0, u := true }) m (fun t => gAt (regsOf t) 9 = 0x001F58D1)
    && after (.xbp { a3 with b := 511, c := 455, imm := 0x001F58D1 }) pair (fun t => vOf t 3 0 = 11 && vOf t 3 1 = 7)) = true := by
  decide +kernel

theorem test_lane_reductions :
    (after (.vote { a1 with ty := 0, c := 1 }) (withV [(64, 1)] m) (fun t => vOf t 3 0 = 0 && vOf t 3 1 = 0)
    && after (.vote { a1 with ty := 0, c := 0 }) (withV [(64, 1)] m) (fun t => vOf t 3 1 = 1)
    && after (.ballot { a1 with ty := 0, d := 451 }) (withV [(65, 1)] m) (fun t => maskOf (regsOf t) 3 = 2)
    && after (.lred { a1 with c := 0 }) pair (fun t => vOf t 3 0 = 21) && after (.lscan { a1 with c := 0 }) pair (fun t => vOf t 3 0 = 10)
    && after (.lscan { a1 with c := 8 }) pair (fun t => vOf t 3 0 = 0 && vOf t 3 1 = 10)) = true := by decide +kernel

-- 08 R238 to R246; 06 Table 6-12
theorem test_moves_and_masks :
    (after (.mov { fA with d := 259, a := 260 }) m (fun t => gAt (regsOf t) 3 = 0x2000)
    && after (.movi { fA with d := 3, a := 511, imm := 0x80000001 }) m (fun t => vOf t 3 1 = 0x80000001)
    && after (.rsr { fA with d := 3, a := 384 }) m (fun t => vOf t 3 0 = 0 && vOf t 3 1 = 1)
    && after (.fmts { fA with a := 511, imm := 0x33 }) m (fun t => (regsOf t).fmt = 0x33)
    && after (.wsr { fA with d := 397, a := 260 }) m (fun t => (regsOf t).seed = 0x2000)
    && after (.mset { fA with d := 451, a := 448, b := 450, c := 4 }) (withRegs (fun r => { r with masks := [(2, 1)] }) m)
      (fun t => maskOf (regsOf t) 3 = 2)
    && after (.mpop { fA with d := 3, a := 448, c := 0 }) m (fun t => vOf t 3 0 = 2)) = true := by decide +kernel

/-- A byte 0x85 at the address that g4 names. -/
def byteAt : State := writeByte m 0x2000 0x85

-- 09 Table 9-2, R261: eight bits, zero-extended under n8 and sign-extended under i8; the store is held by its region
theorem test_load_and_store :
    (after (.ld { fM with ty := 6 }) byteAt (fun t => vOf t 3 0 = 0x85 && vOf t 3 1 = 0x85)
    && after (.ld { fM with ty := 5 }) byteAt (fun t => vOf t 3 0 = 0xFFFFFF85)
    && after (.st fM) pair (fun t => t.mem = mem0 && t.dirty = []
      && (aget t.ctxs 0).any (fun c => c.region.any (fun r => r.nSt = 1 && r.items.length = 1)))) = true := by decide +kernel

-- 07 R186 (slot 3 of the next line), 18 Table 18-1
theorem test_control :
    (after (.bra { fB with toff := 1, tslot := 3 }) m (fun t => (regsOf t).pc = 0x43)
    && after (.trap { fB with toff := 7 }) m
      (fun t => (aget t.ctxs 0).any (fun c => c.fault.any (fun f => f.cause = 0x12 && f.code = 7)))) = true := by decide +kernel

-- 06 Table 6-20: the example line keeps its parity
def exampleLine : Line :=
  [0x206, 0xFF7FB0, 0, 0x190001, 0xFF7FC0, 0x64, 0x50D, 0, 0, 0, 0, 0, 0, 0, 0, 0x109].foldr
    (fun w acc => acc <<< 32 ||| BitVec.ofNat 512 w) 0

theorem test_line_parity :
    (parityOk exampleLine && !parityOk (exampleLine ^^^ 1)) = true := by decide +kernel

-- 03 and 06 (specifiers 507 and 479): T8 4096 is 0x7F and 2^-12 is 0x01, T6 3 is 0x1A
theorem test_numbers :
    (tMag 3 0x7F = 4096 * 4096 && tMag 3 1 = 1 && tMag 3 0x40 = 4096 && tMag 3 0x48 = 6144
    && roundTo 4 0 0 (.fin false 3 0) = 0x1A && constElem 4 507 = 0x1A
    && constElem 3 479 = 0x74) = true := by decide +kernel

/-- The product of 11: A is 1.0 in even and 1.5 in odd rows; B is 4096 at k = 0 and 2^-12 elsewhere. -/
def segExample : AccOp :=
  { kind := .mmaz, owners := [0], tag := 0, row := 0, shape := 0, fmt := 0x33, neg := false, ovt := 0x00155555
    a := (List.range 64).map (fun l => List.replicate 4 (if l % 2 = 0 then 0x40404040#32 else 0x48484848#32)), as_ := []
    b := List.replicate 64 [0x0101017F, 0x01010101, 0x01010101, 0x01010101], bs := [], setSlot := none }

-- 11, "one segment summed exactly"
theorem test_segments :
    (segWord segExample 0 5 = 0x45800008 && segWord segExample 1 5 = 0x45C0000B
    && accNew { segExample with kind := .mma } 0x45800008 0 5 = 0x46000008) = true := by decide +kernel

/-- The band of 13 Table 13-1 at 2x32/row, at the end of its epoch. -/
def bandExample : Band :=
  { bandOfRecord m 0 0 with
    order := 1, hyst := 0
    sums := [(1, 344), (2, 208), (3, 176), (4, 232), (9, 344), (10, 208), (11, 176), (12, 232)] }
/-- A layout record of INT16 with BR = 16 and BC = 32. -/
def geomExample : BitVec 1024 := at_ 1024 0 7 ||| at_ 1024 160 32 ||| at_ 1024 176 16

-- 13 Tables 13-1 and 13-4
theorem test_band_decision :
    (bandDecide bandExample geomExample = some 3 && bandDecide { bandExample with hyst := 255 } geomExample = none
    && squareOrder geomExample = 3) = true := by decide +kernel

/-! ## Witnesses: instructions of Format A (08; 06 R158; 07 R171; 10; 18) -/

/-- The wrapping integer instructions, in i32. -/
def aluInt : List Instr :=
  [.add a2, .sub a2, .mul a2, .mulhi a2, .mad a3, .min a2, .max a2, .abs a1, .neg a1, .and a2, .or a2, .xor a2, .not a1,
   .shl a2, .shr a2, .sar a2, .rotl a2, .clz a1, .popc a1, .brev a1]

theorem witness_integer_results_wrap : aluInt.all (fun i => rdy i m) = true := by decide +kernel

theorem witness_integer_results_saturate :
    ([Instr.add { a2 with sat := true }, .sub { a2 with sat := true }, .mul { a2 with sat := true },
      .mad { a3 with sat := true }, .abs { a1 with sat := true }, .neg { a1 with sat := true }].all
      (fun i => on i m (fun e => satOf e true))
    && on (.add a2) (withRegs (fun r => { r with xwords := [0x2FF70#28] }) m) (fun e => satOf e false)) = true := by
  decide +kernel

theorem witness_carry_and_borrow :
    (rdy (.addc { a2 with c := 449 }) m && rdy (.subb { a2 with c := 463, ty := 10 }) m) = true := by decide +kernel

theorem witness_bit_fields : (rdy (.bfx a2) m && rdy (.bfi { a3 with ty := 10 }) m) = true := by decide +kernel

theorem witness_compare_writes_mask :
    (rdy (.icmp { a2 with d := 449, c := 5 }) m && rdy (.fcmp { f2 with d := 463, c := 7 }) m
    && rdy (.fcls { f2 with d := 450 }) m) = true := by decide +kernel

/-- The time latch with a word kept. -/
def latched : State := withRegs (fun r => { r with latch := some 7 }) m

theorem witness_moves_and_reads :
    (rdy (.sel { a2 with c := 448 }) m && rdy (.mov a1) m && rdy (.movi { fA with d := 3, a := 511, imm := 5 }) m
    && rdy (.rsr { fA with d := 3, a := 384 }) m && rdy (.fmtr { fA with d := 3 }) m
    && [0, 1, 2, 3].all (fun c => rdy (.mpop { fA with d := 3, a := 449, c := c }) m)
    && on (.rsr { fA with d := 259, a := 395 }) m (fun e => movUniform { fA with d := 259 } || e.exec ≠ 0)
    && on (.rsr { fA with d := 3, a := 396 }) latched (fun e => e.exec ≠ 0)) = true := by decide +kernel

/-- No lane executes: the extension word's XMASK names m1, which is empty. -/
def noLane (c : Ctx) : Ctx := { c with r := { c.r with pblk := none, m0 := 0 } }

theorem witness_group_state_writes :
    ([Instr.wsr { fA with d := 397, a := 260 }, .fmts { fA with a := 448 }, .mset { fA with d := 449, a := 448, c := 0 }].all
      (fun i => on i (withCtx noLane m) (fun e => e.exec = 0))
    && on (.wsr { fA with d := 398, a := 260 }) m (fun e => e.exec ≠ 0)
    && on (.fmts { fA with a := 448 }) m (fun e => e.exec ≠ 0 && fmtBad (opWord e 9 0 448 0) = false)
    && on (.fmts { fA with a := 511, imm := 11 }) m (fun e => e.exec ≠ 0 && fmtBad (opWord e 9 11 511 0))
    && rdy (.mset { fA with d := 449, a := 260, c := 0 }) m && rdy (.mset { fA with d := 449, a := 511, imm := 1, c := 0 }) m
    && [1, 2, 3, 4].all (fun c => rdy (.mset { fA with d := 463, a := 448, b := 449, c := c }) m)
    && rdy (.mset { fA with d := 463, a := 448, c := 5 }) m && rdy (.rand { fA with d := 3 }) m) = true := by decide +kernel

theorem witness_nop_and_prefixes :
    (rdy (.nop { fA with d := 0, a := 0, b := 0, c := 0 }) m && rdy (.pblk { pat := 3, count := 1, mask := 1 }) m
    && rdy (.xpfx { xw2 := 0, xw1 := 0, xw0 := 0xFF70, nw := 0 }) m
    && rdy (.xpfx { xw2 := 0xFF70, xw1 := 0xFF70, xw0 := 0xFF70, nw := 2 }) m) = true := by decide +kernel

theorem witness_float_results_round_once :
    ([Instr.fadd f2, .fsub f2, .fmul { f2 with ty := 1 }, .fma { f3 with ty := 2, sat := true }].all (fun i => rdy i m))
    = true := by decide +kernel

theorem witness_float_selections :
    ([Instr.fmin f2, .fmax f2, .fabs f1, .fneg { f1 with ty := 1 }, .frnd f1].all (fun i => rdy i m)) = true := by
  decide +kernel

/-- 1 + 2^-24, half way between 1 and the next FP32 value; and a value between two FP16 ones. -/
theorem witness_rounding_is_correct :
    (0 < (2 ^ 24 + 1 : Nat) ∧ 0x3F800000 + 1 < infBits 0) ∧ ieeeVal 0 0x3F800000 = .fin false 8388608 (-23)
    ∧ ieeeVal 0 (0x3F800000 + 1) = .fin false 8388609 (-23)
    ∧ numCmp (.fin false 8388608 (-23)) (.fin false (2 ^ 24 + 1) (-24)) ≠ .gt
    ∧ numCmp (.fin false (2 ^ 24 + 1) (-24)) (.fin false 8388609 (-23)) = .lt
    ∧ numAdd false (.fin false 8388608 (-23)) (.fin false 8388609 (-23)) ≠ .nan := by decide +kernel

theorem witness_conversions :
    (rdy (.cvt { f1 with c := 9 }) m && rdy (.cvti { a2 with c := 0 }) m && rdy (.cvtf { f2 with c := 9 }) m
    && rdy (.unpk { fA with d := 3, a := 1, ty := 5, c := 3 }) m && rdy (.qnt { a2 with ty := 3, c := 0 }) m
    && rdy (.pack { a2 with ty := 1, c := 0 }) m && rdy (.pack { a2 with ty := 4, c := 1 }) m
    && rdy (.pack { a2 with ty := 6, c := 0, d := 259, u := true, a := 260, b := 261 }) m) = true := by decide +kernel

theorem witness_special_functions :
    ([Instr.rcp f1, .rsq f1, .sqrt { f1 with ty := 1 }, .exp2 f1, .log2 f1, .sin { f1 with ty := 2 }, .cos f1, .tanh f1].all
      (fun i => rdy i m) && decide (0 < 1)) = true := by decide +kernel

-- the premises of the clauses on values, order and turns: 1 and 2, operands in order, an eighth of a turn
theorem witness_function_values :
    ([0, 1, 2].all (fun f => let x := roundTo f 0 0 (.fin false 1 (-3))
      (match ieeeVal f x with | .fin _ k _ => 0 < k | _ => false) && x < 2 ^ elemBits f
      && numCmp (.fin false 0 0) (ieeeVal f x) = .lt && numCmp (ieeeVal f x) (ieeeVal f (x + 1)) = .lt
      && (f = 0 || (specialFn 5 f 0 0 (ieeeVal f x) % signBit f ≠ 0 && ieeeVal f (specialFn 3 f 0 0 (ieeeVal f x)) ≠ .nan)))
    && functionOf (.rcp f1) = some (f1, 0)) = true := by decide +kernel

/-- Two arms of a split group: lane 0 went one way, lane 1 the other; the second has a region that wrote v1. -/
def arms : State :=
  { m with
    ctxs := [(0, { ctx0 with arm := .taken, live := 1, r := { regs0 with m0 := 1 } }),
             (65536, { ctx0 with arm := .fall, live := 2, r := { regs0 with m0 := 2 },
                                 region := some { region0 with vold := [(64 * 1 + 1, 5)] } })]
    groups := [(0, { group0 with split := some { jpc := 0, depth := 0, fmt := 0, mask := 3, lanesT := 1, lanesF := 2 } })] }

theorem witness_lane_moves :
    (on (.shfl { a3 with b := 448 }) m (fun e => inGroup e.g 0 && e.fr.live.getLsbD 0)
    && on (.shup { a3 with b := 449 }) m (fun e => e.g.first = 0)
    && on (.shdn { a3 with b := 511, imm := 62, c := 448 }) m (fun e => !e.fr.live.getLsbD 62)
    && rdy (.xbp a3) m && rdy (.qswp { a1 with b := 449 }) m && rdy (.qbc { a1 with b := 451 }) m
    && [0, 1, 2, 3].all (fun c => rdy (.xbld { fA with d := 3, a := 1, c := c }) m)
    && on (.shfl a3) arms (fun e => match e.sib with
      | some c => c.live.getLsbD 1 && (match c.region with | some r => aget r.vold (64 * 1 + 1) = some 5 | none => false)
      | none => false)
    && on (.shfl a3) arms (fun e => match e.sib with
      | some c => (match c.region with | some r => aget r.vold (64 * 2 + 1) = none | none => true)
      | none => false)) = true := by decide +kernel

theorem witness_votes_and_reductions :
    ([0, 1, 2].all (fun c => rdy (.vote { fA with d := 3, a := 1, c := c }) m)
    && on (.ballot { fA with d := 449, a := 1 }) m (fun e => e.c.r.pblk = none)
    && on (.ballot { fA with d := 449, a := 1 }) (withRegs (fun r => { r with pblk := some { left := 1, pat := 1, mask := 0 } }) m)
      (fun e => e.exec = 0)
    && [0, 1, 2, 3, 4, 5].all (fun c => on (.lred { a1 with c := c }) m (fun e => e.exec.getLsbD 0))
    && [0, 8, 13].all (fun c => on (.lscan { a1 with c := c }) m (fun e => e.exec.getLsbD 1))) = true := by decide +kernel

/-! ## Witnesses: memory (09; 16) -/

/-- The translated address of a lane. -/
def xl (s : State) (e : Env) (addr : Nat → Word64) (l : Nat) : Xlat :=
  match translate s (eCore e) (eVi e) (addr l) with
  | .ok x => x
  | .error _ => { pa := 0, pte := 0, level := 9, path := [] }

def canWrite (s : State) (e : Env) (a : Access) (size : Nat) (addr : Nat → Word64) : Bool :=
  (lanesOf e.exec).all (fun l => (addr l).toNat % size = 0 && (xl s e addr l).level ≠ 9
    && !pageRefuses (viOf s (eVi e)).desc a (xl s e addr l))

def canRead (s : State) (e : Env) (a : Access) (size : Nat) (addr : Nat → Word64) : Bool :=
  canWrite s e a size addr && (lanesOf e.exec).all (fun l => (readXlat (seen s e) (xl s e addr l) size).isSome
    && (linesRead (seen s e) (xl s e addr l) size).all (fun n => !isPoisoned s n))

/-- `L1Room`, computed. -/
def l1Room (s : State) (core : Nat) (lines : List Nat) : Bool := (l1Held s core).length + lines.length ≤ 2048

def roomFor (s : State) (die : Nat) (fl : Nat → Fill) (lines : List Nat) : Bool :=
  lines.all (fun l => ((aget s.sf l).isSome || (filterSet s l).length + lines.length ≤ 16)
    && (holdsL2 s l die || lines.length ≤ (freeWays s die (fl l) l).length))
/-- The fill of the lanes' lines, under a hint. -/
def laneFill (s : State) (e : Env) (hint : Nat) (x : Nat → Xlat) : Nat → Fill := xlatFill s (eVi e) hint ((lanesOf e.exec).map x)
def noHolder (s : State) (key : Nat) (lines : List Nat) : Bool :=
  s.ctxs.all (fun p => p.1 = key || lines.all (fun l => !holdsLine p.2 l))

/-- Format M with the v register pair v2 as base, at byte 0x2000. -/
def fG : FmtM := { fM with base := 2, off := 0x2000 }

/-- A load whose hypotheses hold, of lines that nothing holds. -/
def loads (i : Instr) (f : FmtM) (s : State) : Bool :=
  on i s (fun e =>
    let e1 := actEnv i s e
    let s1 := actState i s e
    let lines := distinct ((lanesOf e.exec).flatMap (fun l => linesRead (seen s1 e1) (xl s1 e1 (addrM e f) l) (sizeOf_ f.ty.toNat)))
    let fl := laneFill s e f.hint.toNat (xl s1 e1 (addrM e f))
    canRead s1 e1 .load (sizeOf_ f.ty.toNat) (addrM e f) && !loadWaits s1 e1 fl lines && roomFor s (eDie e) fl lines && l1Room s (eCore e) lines
      && lines ≠ [])

theorem witness_loads_read_memory :
    ([0, 5, 7, 9].all (fun ty => loads (.ld { fM with ty := ty }) { fM with ty := ty } m)
    && [1, 2, 3].all (fun h => loads (.ld { fM with hint := h }) { fM with hint := h } m)
    && loads (.ldg fG) fG m && loads (.ld { fM with base := 258 }) { fM with base := 258 } m) = true := by decide +kernel

/-- The context has stored the word at byte 0x2000; die 0 keeps values of line 64 whose write-back was dropped. -/
def stored : List Item := [.store (.mem [(0x2000, 1), (0x2001, 2), (0x2002, 3), (0x2003, 4)] [])]
def storedM : State := withCtx (fun c => { c with nSt := 1, region := some { region0 with items := stored, nSt := 1 } }) m
def keeping : State := { m with exact := [(0x2000, 7)], keptBy := [l2Key 64 0] }

-- 09 R264: the lane reads the word that its context has stored; 15 R375: and the value that its die keeps
theorem test_loads_see_own_stores :
    (after (.ld fM) storedM (fun t => vOf t 3 0 = 0x04030201) && after (.ld { fM with ty := 6 }) keeping (fun t => vOf t 3 0 = 7)
    && loads (.ld fM) fM storedM && loads (.ld fM) fM keeping && arising keeping.exact
    && env storedM (fun e => (pending e.c).length = 1)) = true := by decide +kernel

def stores (i : Instr) (f : FmtM) (s : State) (nonspec : Bool) : Bool :=
  on i s (fun e =>
    let e1 := actEnv i s e
    let s1 := actState i s e
    let lines := cellLines (cellsOf (lanesOf e.exec) (fun l => (xl s1 e1 (addrM e f) l).pa) f.ty.toNat (sizeOf_ f.ty.toNat)
      (opWord e f.ty.toNat 0 f.d))
    let fl := laneFill s e f.hint.toNat (xl s1 e1 (addrM e f))
    canWrite s1 e1 .store (sizeOf_ f.ty.toNat) (addrM e f) && e.exec ≠ 0 && isNonspec e1 = nonspec
      && !storeWaits s1 e1 fl lines && roomFor s (eDie e) fl lines && noHolder s e.key lines && lines ≠ [])

/-- The context runs in a non-speculative region. -/
def nonspec : State := withCtx (fun c => { c with region := some { region0 with nonspec := true } }) m

theorem witness_stores_wait_for_commit :
    ([4, 5, 9].all (fun ty => stores (.st { fM with ty := ty }) { fM with ty := ty } m false) && stores (.stg fG) fG m false
    && [4, 5, 9].all (fun ty => stores (.st { fM with ty := ty }) { fM with ty := ty } nonspec true)
    && stores (.stg fG) fG nonspec true) = true := by decide +kernel

/-- A prefetch form. -/
def fP : FmtM := { fM with d := 510, ty := 0 }
/-- Scratchpad forms: base g8 = 16; the last word of 1 MiB. -/
def fS : FmtM := { fM with base := 264 }
def fSlast : FmtM := { fM with base := 510, off := 1048572 }
def fSpast : FmtM := { fM with base := 510, off := 1048574 }
def fSodd : FmtM := { fM with base := 510, off := 18 }
/-- A context of another group of the cohort has committed stores to these words, not yet performed. -/
def lockedSp : State :=
  { m with
    ctxs := [(0, ctx0), (131072, { ctx0 with group := 1, drain := [.store (.scratch [(16, 1), (1048572, 1)])] })]
    groups := [(0, group0), (1, { group0 with first := 8 })] }

theorem witness_scratchpad_and_prefetch :
    ([fS, fSlast].all (fun f =>
      on (.ldsp f) m (fun e => (lanesOf e.exec).all (fun l => (addrM e f l).toNat + 4 ≤ pkSpBytes e.la.pkt
        && (addrM e f l).toNat % 4 = 0 && !scratchLock m [e.key] (eTag e) (addrM e f l).toNat 4) && pending e.c = [])
      && on (.ldsp f) lockedSp (fun e => e.exec.getLsbD 0 && scratchLock lockedSp [e.key] (eTag e) (addrM e f 0).toNat 4)
      && on (.stsp f) nonspec (fun e => e.exec ≠ 0 && !cellsLocked nonspec [e.key] (eTag e) (spCells e f) && isNonspec (actEnv (.stsp f) nonspec e))
      && on (.stsp f) m (fun e => (lanesOf e.exec).all (fun l => (addrM e f l).toNat + 4 ≤ pkSpBytes e.la.pkt
        && (addrM e f l).toNat % 4 = 0) && e.exec ≠ 0 && !isNonspec (actEnv (.stsp f) m e)))
    && [Instr.ldsp fSpast, .stsp fSpast].all (fun i => on i m (fun e => e.exec.getLsbD 0
      && pkSpBytes e.la.pkt < (addrM e fSpast 0).toNat + 4))
    && [Instr.ldsp fSodd, .stsp fSodd].all (fun i => on i m (fun e => (lanesOf e.exec).all (fun k =>
      (addrM e fSodd k).toNat + 4 ≤ pkSpBytes e.la.pkt) && (addrM e fSodd 0).toNat % 4 ≠ 0))
    && [0, 3].all (fun h =>
      let f := { fP with hint := h }
      on (.prf f) m (fun e =>
        let e1 := actEnv (.prf f) m e
        let s1 := actState (.prf f) m e
        let xs := prfXlats f e1 s1
        xs ≠ [] && roomFor m (eDie e) (prfFill f e1 s1 xs) (distinct (xs.map (fun x => lineOf x.pa)))
          && l1Room m (eCore e) (distinct (xs.map (fun x => lineOf x.pa)))))) = true := by
  decide +kernel

-- 16 R404, 09 R259: a non-speculative stsp writes at once; R262: past SPBYTES it is SCRATCH_RANGE of the lowest lane
theorem test_scratchpad :
    (after (.stsp fS) { nonspec with frames := [(0, { frame0 with v := [(193, 9)] })] } (fun t =>
      (aget t.cohorts 0).any (fun co => agetD co.sp 0 16 = 9))
    && after (.ldsp fSpast) m (fun t => (aget t.ctxs 0).any (fun c => c.fault.any (fun f => f.cause = 0x08 && f.lane = 0))))
    = true := by decide +kernel

/-- Page tables whose third page forbids reads and writes; a poisoned line 64. -/
def noRights : State := { m with mem := m.mem.filter (fun c => c.1 < 0x11010) ++ cellsAt 0x11010 8 0x80000021 }
def poisoned64 : State := { m with poison := [64] }
def fFar : FmtM := { fG with off := 0x80000000 }
/-- Alignment and translation hold in every lane; permission fails, or holds. -/
def trapsAt (s : State) (i : Instr) (f : FmtM) (acc : Access) (refused : Bool) : Bool :=
  on i s (fun e =>
    let s1 := actState i s e
    (lanesOf e.exec).all (fun k => (addrM e f k).toNat % 4 = 0 && (xl s1 e (addrM e f) k).level ≠ 9
      && pageRefuses (viOf s (eVi e)).desc acc (xl s1 e (addrM e f) k) = refused))

theorem witness_access_trap_order :
    ([Instr.ld { fM with off := 1 }, .st { fM with off := 1 }].all (fun i => on i m (fun e =>
      e.exec.getLsbD 0 && (addrM e { fM with off := 1 } 0).toNat % 4 ≠ 0))
    && [Instr.ldg { fG with off := 0x7000000000 }, .stg { fG with off := 0x7000000000 }].all (fun i => on i m (fun e =>
      (lanesOf e.exec).all (fun k => (addrM e { fG with off := 0x7000000000 } k).toNat % 4 = 0)
      && (translate (actState i m e) (eCore e) (eVi e) (addrM e { fG with off := 0x7000000000 } 0)).toOption = none))
    && trapsAt noRights (.ldg fFar) fFar .load true && trapsAt noRights (.stg fFar) fFar .store true
    && trapsAt poisoned64 (.ld fM) fM .load false && isPoisoned poisoned64 64
    && on (.ld fM) poisoned64 (fun e =>
      let s1 := actState (.ld fM) poisoned64 e
      !loadWaits s1 (actEnv (.ld fM) poisoned64 e) (laneFill poisoned64 e fM.hint.toNat (xl s1 e (addrM e fM)))
        (distinct ((lanesOf e.exec).flatMap (fun k => linesRead (seen s1 e) (xl s1 e (addrM e fM) k) 4))))) = true := by decide +kernel

-- 09 Table 9-7: PROTECTION, then POISON_CONSUMED
theorem test_access_traps :
    (after (.stg fFar) noRights (fun t => (aget t.ctxs 0).any (fun c => c.fault.any (fun f => f.cause = 0x0A)))
    && after (.ld fM) poisoned64 (fun t => (aget t.ctxs 0).any (fun c => c.fault.any (fun f => f.cause = 0x0D)))) = true := by
  decide +kernel

def atomics (i : Instr) (f : FmtM) (s : State) : Bool :=
  on i s (fun e =>
    let e1 := actEnv i s e
    let s1 := actState i s e
    let lines := distinct ((lanesOf e.exec).map (fun l => lineOf (xl s1 e1 (addrM e f) l).pa))
    let fl := laneFill s e f.hint.toNat (xl s1 e1 (addrM e f))
    (atomicNew e 0 0 i).isSome && canRead s1 e1 .atomic 4 (addrM e f) && !storeWaits s1 e1 fl lines
      && roomFor s (eDie e) fl lines && noHolder s e.key lines && lines ≠ [])

/-- A reduction store under way: two adds into one word. -/
def redOp0 : RedOp :=
  { owners := [0], tag := 0, ovt := 0, adds := [(0x2000, 0x3F800000, []), (0x2000, 0x3F800000, [])] }
def reducing : State := { m with redsts := [(4, redOp0), (5, { redOp0 with adds := [(0x2000, 1, [])] })] }

theorem witness_atomics_and_reduction_stores :
    ([Instr.aadd fM, .amin fM, .amax { fM with ty := 10 }, .aand fM, .aor fM, .axor fM, .axchg fM, .acas { fM with d := 4 },
      .afadd { fM with ty := 0 }].all (fun i => atomics i fM m)
    && on (.redst { fM with ty := 0 }) m (fun e => canWrite (actState (.redst { fM with ty := 0 }) m e) e .redst 4
      (addrM e { fM with ty := 0 }) && e.exec ≠ 0)
    && [4, 5].all (fun n => (aget reducing.redsts n).isSome)
    && !addWaits reducing 0 (lineOf 0x2000) [] && viOfTag reducing 0 = 0
    && roomFor reducing (homeOf (lineOf 0x2000)) (markFill reducing 0 []) [lineOf 0x2000]) = true := by decide +kernel

-- 15 R375: an atomic adds to the value written, though its write-back was dropped
theorem test_atomics_take_exact_values :
    after (.aadd fM) keeping (fun t => vOf t 3 0 = 7) = true := by decide +kernel

/-! ## Witnesses: handles and coordinates (09; 13) -/

/-- Where the elements of a run lie, as `Placed` says. -/
def spotAt (s : State) (e : Env) (h : BitVec 1024) (acc : Access) (kind : Nat) (p : Int × Int × Int) : Spot :=
  spotOf s (eCore e) (eVi e) h acc kind (recOrigin h 0 + p.1.toNat) (recOrigin h 1 + p.2.1.toNat)
    (recOrigin h 2 + p.2.2.toNat)

def runLanes (e : Env) (f : FmtT) : List (Nat × Nat) :=
  (lanesOf e.exec).flatMap (fun l => (List.range (2 ^ f.cnt.toNat)).map (fun k => (l, k)))

def placed (s : State) (e : Env) (f : FmtT) (h : BitVec 1024) (acc : Access) (kind : Nat)
    (p : Nat → Nat → Int × Int × Int) : Bool :=
  (runLanes e f).all (fun lk => inView h (p lk.1 lk.2) && (match spotAt s e h acc kind (p lk.1 lk.2) with
    | .place key _ _ _ _ ver => !bandBusy s key && !isStale s key ver
    | _ => false))

/-- The fill of their lines. -/
def runFill (s : State) (e : Env) (f : FmtT) (h : BitVec 1024) (acc : Access) (kind : Nat)
    (p : Nat → Nat → Int × Int × Int) : Nat → Fill :=
  xlatFill s (eVi e) 0 ((runLanes e f).filterMap (fun lk => match spotAt s e h acc kind (p lk.1 lk.2) with
    | .place _ _ x _ _ _ => some x
    | _ => none))

def runLine (s : State) (e : Env) (f : FmtT) (h : BitVec 1024) (acc : Access) (kind : Nat)
    (p : Nat → Nat → Int × Int × Int) : List Nat :=
  (runLanes e f).map (fun lk => match spotAt s e h acc kind (p lk.1 lk.2) with
    | .place _ _ x _ _ _ => lineOf x.pa
    | _ => 0)

/-- The record at 0x1000 into h0. -/
def fH : FmtM := { fM with d := 448, base := 274, ty := 0 }
def f_tld (n : BitVec 4) : FmtT := { fT with cnt := n }

/-- The store of 5 into element (0, 0) of h2, translated as `spotOf` says. -/
def elem00 (part : Nat) : ElemStore :=
  match spotOf m 0 0 hrec .tensorStore 6 0 0 0 with
  | .place key band x _ i v =>
    { part := part, hrec := hrec, x := 0, y := 0, z := 0, key := key, band := band, pa := x.pa, ix := i,
      mark := elemMark hrec x, ver := v, value := 5 }
  | .bad .. =>
    { part := part, hrec := hrec, x := 0, y := 0, z := 0, key := 0, band := 0, pa := 0, ix := 0,
      mark := { line := 0, pclass := 0, tol := none }, ver := 0, value := 5 }
/-- The context has stored it. -/
def ownElem : ElemStore := elem00 0
def storedElem : State :=
  withCtx (fun c => { c with nTl := 1, region := some { region0 with items := [.store (.coord [ownElem])], nTl := 1 } }) m

theorem witness_handles_and_coordinate_loads :
    (on (.thnd fH) m (fun e =>
      let f := fH
      let e1 := actEnv (.thnd f) m e
      let s1 := actState (.thnd f) m e
      let x := xl s1 e1 (addrM e f) 0
      (addrM e f 0).toNat % 128 = 0 && x.level ≠ 9 && !pageRefuses (viOf m (eVi e)).desc .thnd x
        && (match readXlat (seen s1 e1) x 128 with
          | some bytes => !recMalformed (BitVec.ofNat 1024 (leNat bytes)) && BitVec.ofNat 1024 (leNat bytes) = hrec
          | none => false)
        && (linesRead (seen s1 e1) x 128).all (fun n => !isPoisoned m n)
        && !loadWaits s1 e1 (xlatFill m 0 0 [x]) (linesRead (seen s1 e1) x 128)
        && roomFor m 0 (xlatFill m 0 0 [x]) (linesRead (seen s1 e1) x 128) && l1Room m 0 (linesRead (seen s1 e1) x 128))
    && [0, 2].all (fun n => on (.tld (f_tld n)) m (fun e =>
      let f := f_tld n
      let e1 := actEnv (.tld f) m e
      let s1 := actState (.tld f) m e
      let lines := distinct (runLine s1 e1 f hrec .tensorLoad 5 (runAt e f))
      let fl := runFill s1 e1 f hrec .tensorLoad 5 (runAt e f)
      hAt e.c.r f.h.toNat = some hrec && recFormat hrec = f.ty.toNat && placed s1 e1 f hrec .tensorLoad 5 (runAt e f)
        && lines.all (fun n => !isPoisoned m n) && !loadWaits s1 e1 fl lines && roomFor m 0 fl lines && l1Room m 0 lines && e.c.carried = []))
    && on (.tlds { fT with h := 1, ty := 3, cnt := 1 }) m (fun e =>
      let f : FmtT := { fT with h := 1, ty := 3, cnt := 1 }
      let s1 := actState (.tlds f) m e
      hAt e.c.r 1 = some srec && recFormat srec = 3 && recScales srec
        && (runLanes e f).all (fun lk => blockInView e f srec lk.1 lk.2
          && (let x := xl s1 e (fun l => blockVa e f srec l lk.2) lk.1
            x.level ≠ 9 && !pageRefuses (viOf m (eVi e)).desc .scale x && !pteCmpr x.pte
              && !loadWaits s1 (actEnv (.tlds f) m e) (xlatFill m 0 0 [x]) [lineOf x.pa] && roomFor m 0 (xlatFill m 0 0 [x]) [lineOf x.pa]
              && l1Room m 0 [lineOf x.pa]))
        && distinct ((runLanes e f).map (fun lk => lineOf (xl s1 e (fun l => blockVa e f srec l lk.2) lk.1).pa)) = [160])
    && env storedElem (fun e => pending e.c = [.coord [ownElem]] && ownElem.part < 2 && recFormat ownElem.hrec ≠ 4)) = true := by decide +kernel

-- 09 R264, R279: the element that the context has stored, not the 0 in memory
theorem test_loads_see_own_elements :
    after (.tld fT) storedElem (fun t => vOf t 3 0 = 5) = true := by decide +kernel

theorem witness_coordinate_stores_wait_for_commit :
    (on (.tst fT) m (fun e =>
      let e1 := actEnv (.tst fT) m e
      let s1 := actState (.tst fT) m e
      let lines := distinct (runLine s1 e1 fT hrec .tensorStore 6 (runAt e fT))
      let fl := runFill s1 e1 fT hrec .tensorStore 6 (runAt e fT)
      hAt e.c.r 2 = some hrec && placed s1 e1 fT hrec .tensorStore 6 (runAt e fT) && !isNonspec e1
        && !storeWaits s1 e1 fl lines && roomFor m 0 fl lines && noHolder m e.key lines)
    && on (.stsh { fT with off1 := 3 }) m (fun e =>
      let f : FmtT := { fT with off1 := 3 }
      let e1 := actEnv (.stsh f) m e
      let s1 := actState (.stsh f) m e
      let lines := distinct (runLine s1 e1 f hrec .tensorStore 6 (runAt e f)
        ++ runLine s1 e1 f hrec .tensorStore 6 (runTurned e f))
      let fl := runFill s1 e1 f hrec .tensorStore 6 (runAt e f)
      hAt e.c.r 2 = some hrec && hAt e.c.r 3 = some hrec && placed s1 e1 f hrec .tensorStore 6 (runAt e f)
        && placed s1 e1 f hrec .tensorStore 6 (runTurned e f) && !isNonspec e1
        && !storeWaits s1 e1 fl lines && roomFor m 0 fl lines && noHolder m e.key lines)) = true := by decide +kernel

/-! ## Witnesses: waiting and barriers (07 R171, R172; 10) -/

/-- `wait` with limits LD, ST, CP, TL. -/
def waitF (ld st cp tl : Nat) : FmtA := { fA with imm := BitVec.ofNat 32 (ld + 256 * st + 65536 * cp + 16777216 * tl) }

/-- A region that holds one copy; the context counts one copy and one store. -/
def counting : State :=
  withCtx (fun c => { c with nCp := 1, nSt := 1, region := some { region0 with nCp := 1 } }) m
def counting' : State := withCtx (fun c => { c with nCp := 1, nSt := 1, region := some region0 }) m

/-- The `wait` has ended its region, which has committed; and twenty copies after the arms of a split are one. -/
def waitOutside : State := withCtx (fun c => { c with status := .barEnd, nSt := 1 }) m
def twentyCopies : State := withCtx (fun c => { c with nCp := 20 }) m

theorem witness_wait_until_counts_fall :
    (rdy (.wait (waitF 0 0 0 0)) m && rdy (.wait (waitF 255 255 255 255)) m && rdy (.wait (waitF 255 255 0 255)) counting
    && rdy (.wait (waitF 255 255 1 255)) counting && rdy (.wait (waitF 255 0 255 255)) counting'
    && rdy (.wait (waitF 255 1 255 255)) counting' && outside waitOutside && !outside m && rdy (.wait (waitF 0 1 0 0)) waitOutside
    && rdy (.wait (waitF 0 0 0 0)) waitOutside && rdy (.wait (waitF 0 0 16 0)) twentyCopies) = true := by decide +kernel

-- 07 R171: a limit at its class maximum is no limit; R172: the wait that ended its region goes on outside it
theorem test_wait :
    (after (.wait (waitF 0 0 16 0)) twentyCopies (fun t => (regsOf t).pc = 1)
    && after (.wait (waitF 0 0 15 0)) twentyCopies (fun t => (regsOf t).pc = 0)
    && after (.wait (waitF 255 255 0 255)) counting (fun t => (aget t.ctxs 0).any (fun c => c.status = .barEnd))
    && after (.wait (waitF 0 1 0 0)) waitOutside (fun t => (aget t.ctxs 0).any (fun c => c.r.pc = 1 && c.region.isNone)))
    = true := by decide +kernel

def nbF (k : BitVec 9) : FmtA := { fA with a := 448 + k, c := 0, ty := 0 }
def nbCl : FmtA := { fA with c := 1, ty := 0 }
def initG (k : BitVec 9) : FmtA := { fA with d := 448 + k, a := 264, b := 256, ty := 0 }
/-- A packet with four barriers, and the packet of a cluster. -/
def fewBarriers : State := withPacket (onePacket &&& ~~~(at_ 2048 48 0x1F) ||| at_ 2048 48 4) m
def clusterPkt : BitVec 2048 := onePacket ||| at_ 2048 8 1
def inCluster : State :=
  { withPacket clusterPkt m with
    cohorts := [(0, { cohort0 with cluster := some 1, sibs := [(0, 0), (1, 1)] })] }

theorem witness_barrier_operations_are_held :
    ([fewBarriers].all (fun s =>
      [0, 3].all (fun k => on (.nbinit (initG k)) s (fun e => decide (kOf (initG k).d < pkNbar e.la.pkt)))
      && [4, 15].all (fun k => on (.nbinit (initG k)) s (fun e => decide (pkNbar e.la.pkt ≤ kOf (initG k).d ∧ kOf (initG k).d < 16)))
      && [0, 3].all (fun k => on (.nbarv (nbF k)) s (fun e => decide (kOf (nbF k).a < pkNbar e.la.pkt)))
      && [4, 15].all (fun k => on (.nbarv (nbF k)) s (fun e => decide (pkNbar e.la.pkt ≤ kOf (nbF k).a ∧ kOf (nbF k).a < 16)))
      && on (.nbarv nbCl) s (fun e => !pkCluster e.la.pkt))
    && on (.nbarv nbCl) inCluster (fun e => pkCluster e.la.pkt)) = true := by decide +kernel

/-- Barrier 1 expects two arrivals and waits in phase 0. -/
def bar1 : Barrier := { init := true, misuse := false, phase := false, em := 2, cm := 1, eb := 0, cb := 0 }
def barred : State := withCohort (fun c => { c with bars := [(1, bar1)] }) m
/-- A context that has arrived in phase 0, and one whose phase has passed. -/
def arrivedIn (p : Bool) (st : Status) : State :=
  { barred with ctxs := [(0, { ctx0 with r := { regs0 with pend := 2, arrph := if p then 2 else 0 }, status := st })] }

/-- A job, and a region that holds it. -/
def job0 : Job :=
  { kind := .linIn, owners := [0], group := 0, tag := 0, vi := 0, pc := 0, so := 16, addr := 0x2000, hrec := 0, c0 := 0, c1 := 0, c2 := 0
    cols := 0, rows := 0, len := 32, accRow := 0, cvt := 0, ovt := 0, dests := [], multi := false, bar := some 1, cw := some (64, 1)
    setSlot := some 2, core := 0, left := [0, 1], inflight := [], stale := [], uncounted := [], owned := [], dz := none, cwDone := [] }
def holdingJob : State :=
  { barred with ctxs := [(0, { ctx0 with nCp := 1, region := some { region0 with items := [.held (.job job0)], nCp := 1 } })] }

/-- The barrier has come back to the phase that the context waits to leave. -/
def wokenBar : State :=
  { barred with ctxs := [(0, { ctx0 with r := { regs0 with pend := 2 }, status := .waitBar 1 false, woken := true })] }

/-- The context waits for barrier 1 to leave phase 0. -/
def waitingBar : State := arrivedIn false (.waitBar 1 false)

theorem witness_barrier_waits :
    ((barOf barred 0 1).init && !(barOf barred 0 1).misuse && bar1.cm < bar1.em
    && on (.nbsync (nbF 1)) barred (fun e => e.c.status = .running)
    && on (.nbwt (nbF 1)) barred (fun e => (heldOf (regionItems e.c)).isEmpty)
    && on (.nbwt (nbF 1)) holdingJob (fun e => (heldOf (regionItems e.c)).length = 1 && holdsSignal e 1)
    && on (.nbwt (nbF 1)) barred (fun e => !holdsSignal e 1)
    && on (.nbwt (nbF 1)) wokenBar (fun e => e.c.woken && e.c.status = .waitBar 1 false && (barOf wokenBar 0 1).phase = false)
    && { bar1 with phase := true }.phase ≠ (barOf waitingBar 0 1).phase && tagOf waitingBar 0 = 0
    && (aget waitingBar.ctxs 0).any (fun c => c.status = .waitBar 1 false)
    && on (.nbwt (nbF 1)) (arrivedIn true .running) (fun e => (barOf barred 0 1).phase ≠ e.c.r.arrph.getLsbD 1)
    && on (.nbwt (nbF 1)) (arrivedIn false (.waitBar 1 false)) (fun e => e.c.status = .waitBar 1 false)
    && on (.nbwt (nbF 1)) (arrivedIn false (.waitBar 1 true)) (fun e => e.c.status = .waitBar 1 true)
    && on (.nbsync (nbF 1)) (arrivedIn true .barEnd) (fun e => e.c.status ≠ .running)
    && on (.nbsync (nbF 1)) (arrivedIn false .barEnd) (fun e => e.c.status ≠ .running)) = true := by decide +kernel

-- 10 R306: the first completion releases the wait, though a second one brings the phase back
theorem test_barrier_completes_twice :
    (let flips (s : State) := putBar s 0 1 { barOf s 0 1 with phase := !(barOf s 0 1).phase }
    (barOf (flips (flips waitingBar)) 0 1).phase = false
    && after (.nbwt (nbF 1)) (flips (flips waitingBar)) (fun t => (regsOf t).pc = 1 && (regsOf t).pend = 0)
    && after (.nbwt (nbF 1)) waitingBar (fun t => (regsOf t).pc = 0)) = true := by decide +kernel

def fW (off : BitVec 40) : FmtM := { fM with base := 510, off := off, d := 448, ty := 10 }

/-- The context has stored 7 into scratchpad word 0 and not yet performed it. -/
def ownWord : State :=
  withCtx (fun c => { c with nSt := 1, region := some { region0 with items := [.store (.scratch [(0, 7)])], nSt := 1 } }) m

theorem witness_completion_words_are_awaited :
    (on (.waddr (fW 1048576)) m (fun e => pkSpBytes e.la.pkt < (addrM e (fW 1048576) 0).toNat + 4)
    && on (.waddr (fW 1048570)) m (fun e => (addrM e (fW 1048570) 0).toNat % 4 ≠ 0)
    && on (.waddr (fW 1048572)) m (fun e => (opWord e 9 0 (fW 0).d 0).toNat ≤ 0)
    && rdy (.waddr { fW 0 with ty := 9, d := 260 }) m
    && on (.waddr { fW 0 with d := 260 }) m (fun e => 0 < (opWord e 9 0 260 0).toNat && !holdsWrite e 0
      && !scratchLock m [e.key] (eTag e) 0 4)
    && on (.waddr { fW 0 with d := 260 }) ownWord (fun e => pending e.c = [.scratch [(0, 7)]])
    && on (.waddr (fW 16)) lockedSp (fun e => scratchLock lockedSp [e.key] (eTag e) 16 4)
    && on (.waddr { fW 64 with d := 260 }) holdingJob (fun e => holdsWrite e 64 && 0 < (opWord e 9 0 260 0).toNat)) = true := by
  decide +kernel

-- 10 R310: reached, not reached, not reached by a difference below 2^31, and reached by the context's own store
theorem test_completion_words :
    (after (.waddr (fW 0)) m (fun t => (regsOf t).pc = 1) && after (.waddr { fW 0 with d := 260 }) m (fun t => (regsOf t).pc = 0)
    && after (.waddr { fW 0 with ty := 9, d := 260 }) m (fun t => (regsOf t).pc = 0)
    && after (.waddr { fW 0 with d := 271 }) ownWord (fun t => (regsOf t).pc = 1)) = true := by decide +kernel

/-! ## Witnesses: copies (10) -/

/-- A linear copy of 4096 bytes between scratchpad byte 16 and byte 0x2000 of memory. -/
def fLin : FmtE := { fE with ext := 4096, s0 := 264, s1 := 260 }
/-- A box copy of 4 x 1 elements of h2 to scratchpad byte 16, from corner (g0, g1, g2) = (0, 0, 0). -/
def fBox : FmtE := { fE with var := 1, ext := 3, s0 := 264, s1 := 450, s2 := 256 }

def copyAllowed (e : Env) (f : FmtE) : Bool :=
  pkProdEn e.la.pkt && e.g.prod && (!f.baren || decide (f.nb.toNat < pkNbar e.la.pkt))
  && (!f.cwen || decide ((gAt e.c.r (f.cwreg.toNat - 256)).toNat % 4 = 0
    ∧ (gAt e.c.r (f.cwreg.toNat - 256)).toNat + 4 ≤ pkSpBytes e.la.pkt))

def linearOk (e : Env) (f : FmtE) : Bool :=
  let len := if isNone f.s2 then eLen f else (opWord e 9 0 f.s2 0).toNat
  f.var = 0 && (opWord e 9 0 f.s0 0).toNat % 16 = 0 && (opPair e f.s1 0).toNat % 16 = 0 && len % 16 = 0
    && decide ((opWord e 9 0 f.s0 0).toNat + len ≤ pkSpBytes e.la.pkt) && len ≠ 0

def boxOk (e : Env) (f : FmtE) : Bool :=
  match hAt e.c.r (kOf f.s1) with
  | none => false
  | some h =>
    let cols := (f.ext.extractLsb' 0 12).toNat + 1
    let rows := (f.ext.extractLsb' 12 12).toNat + 1
    let w := elemBits (recFormat h) / 8
    f.var ≠ 0 && !(recFormat h = 4 && recScales h) && decide (cols ≤ recDim h 0 ∧ rows ≤ recDim h 1 ∧ 0 < recDim h 2)
      && [0, 1, 2].all (fun k => gAt e.c.r (f.s2.toNat - 256 + k) = 0)
      && (opWord e 9 0 f.s0 0).toNat % 16 = 0 && cols * w % 16 = 0
      && decide ((opWord e 9 0 f.s0 0).toNat + rows * cols * w ≤ pkSpBytes e.la.pkt)

def copyForms : List (FmtE → Instr) := [.cpy, .cpyo]
/-- One accumulator row to memory byte 0x2000, to scratchpad byte 16; a DZ job on the card at 0x2000. -/
def fAcc : FmtE := { fE with s1 := 260 }
def fAcs : FmtE := { fE with s1 := 264 }
def fDz : FmtE := { fE with var := 1, s1 := 260, ext := 64 }

/-- With barrier 1 and the completion word at scratchpad byte 64. -/
def announced (f : FmtE) : FmtE := { f with baren := true, nb := 1, cwen := true, cwreg := 270 }

theorem witness_copies_are_held :
    (copyForms.all (fun c => [fLin, announced fLin].all (fun f => on (c f) m (fun e => copyAllowed e f && linearOk e f))
      && [fBox, announced fBox].all (fun f => on (c f) m (fun e => copyAllowed e f && boxOk e f)))
    && on (.cpym { fLin with dmask := 3 }) inCluster (fun e => copyAllowed e { fLin with dmask := 3 } && linearOk e fLin)
    && on (.cpym { fBox with dmask := 3 }) inCluster (fun e => boxOk e fBox)
    && [Instr.cpy fLin, .cpyo fLin, .cpym { fLin with dmask := 1 }, .cpyacc fAcc, .cpyacs fAcs, .dzjob fDz].all (fun i =>
      on i { m with groups := [(0, { group0 with prod := false })] } (fun e => !e.g.prod))) = true := by decide +kernel

theorem witness_accumulator_copies_and_dz_jobs_are_held :
    ([0, 1].all (fun v =>
      on (.cpyacc { fAcc with var := v }) m (fun e => pkProdEn e.la.pkt && e.g.prod && (opPair e fAcc.s1 0).toNat % 16 = 0)
      && on (.cpyacs { fAcs with var := v }) m (fun e => decide ((opWord e 9 0 fAcs.s1 0).toNat + 256 ≤ pkSpBytes e.la.pkt)))
    && on (.cpyacc { fAcc with ext := 0xB00#30 ||| 2047#30 <<< 12 }) m (fun e =>
      (opWord e 9 0 fAcc.s0 0).toNat + 2048 ≤ 64 * pkAcct e.la.pkt && !e.g.slots.getLsbD 3)
    && on (.dzjob fDz) m (fun e => copyAllowed e fDz && (opPair e fDz.s1 0).toNat % 64 = 0)
    && on (.dzjob { fDz with var := 0, s0 := 264 }) m (fun e => copyAllowed e fDz
      && decide ((opWord e 9 0 264 0).toNat + 64 ≤ pkSpBytes e.la.pkt))) = true := by decide +kernel

/-! ## Witnesses: the matrix engine (11) -/

/-- The group with all 64 lanes live. -/
def mfull : State :=
  { m with ctxs := [(0, { Ctx.start { regs0 with m0 := BitVec.allOnes 64 } 0 (BitVec.allOnes 64) 0 with arrived := false })],
           frames := [(0, { frame0 with live := BitVec.allOnes 64 })] }

def matrixOk (e : Env) (f : FmtX) (rows : Nat) : Bool :=
  e.g.width = 64 && e.c.r.m0 = BitVec.allOnes 64 && decide (f.accrow.toNat + rows ≤ 64 * pkAcct e.la.pkt)
  && (!f.seten || !e.g.slots.getLsbD f.setslot.toNat)
def cleanRegs (e : Env) (regs : List Nat) : Bool :=
  regs.all (fun n => decide (n < pkVregs e.la.pkt) && (List.range 64).all (fun l => vPoisonAt e.fr n l = 0))

/-- The format register holds w. -/
def withFmt (w : Word) (s : State) : State :=
  { s with ctxs := s.ctxs.map (fun p => (p.1, { p.2 with r := { p.2.r with fmt := w } })) }
/-- A completed accumulator write stands first in its queue. -/
def accOp0 : AccOp :=
  { kind := .accz, owners := [0], tag := 0, row := 64, shape := 0, fmt := 0, neg := false, ovt := 0, a := [], as_ := []
    b := [], bs := [], setSlot := some 2 }

theorem witness_matrix_operations :
    ([0, 1, 2].all (fun sh => [0, 0x3000].all (fun scales =>
      [Instr.mma { fX with shape := sh, bbase := 16, seten := true, setslot := 7 },
       .mmaz { fX with shape := sh, bbase := 16, accrow := 1984 }].all
        (fun i => on i (withFmt (BitVec.ofNat 32 (17 * shapeFmt sh.toNat) ||| scales) mfull) (fun e =>
          matrixOk e { fX with accrow := 1984, seten := true, setslot := 7 } 64 && fmtFits sh.toNat e.c.r.fmt
          && cleanRegs e (productRegs { fX with shape := sh, bbase := 16 } e.c.r.fmt)))))
    && on (.accz { fX with accrow := 1984 }) mfull (fun e => matrixOk e { fX with accrow := 1984 } 64)
    && on (.accwr { fX with accrow := 2040, bbase := 248 }) mfull (fun e => matrixOk e { fX with accrow := 2040 } 8
      && cleanRegs e (eightRegs 248))
    && on (.accrd { fX with accrow := 2040, abase := 248 }) mfull (fun e => matrixOk e { fX with accrow := 2040 } 8
      && !ownRows e.c 2040 && !rowsPending mfull e 2040)
    && (agetD { m with accQ := [(0, [accOp0])] }.accQ [] 0).length = 1 && (aget m.cohorts accOp0.tag).isSome) = true := by
  decide +kernel

/-! ## Witnesses: control flow (07) -/

/-- A mask m1 with lane 0. -/
def oneLane : State := withRegs (fun r => { r with masks := [(1, 1)] }) m
def fB1 : FmtB := { fB with toff := 3, tslot := 4, mask := 1 }
def fB2 : FmtB := { fB with toff := 3, tslot := 4 }
/-- Return stacks: one entry, entries of two kinds, 31 and 32 entries; `calli` through g18. -/
def link0 : Amap Word64 := [(0, 64), (1, 64)]
def stacked (n : Nat) : State := withRegs (fun r => { r with rstack := List.replicate n link0 }) m
def twoLinks : State := withRegs (fun r => { r with rstack := [[(0, 64), (1, 128)]] }) m
def fCalli : FmtB := { fB with joff := 274 }
def badTarget : State := withRegs (fun r => { r with g := [(18, 5)] }) m

/-- A divergence entry of call depth 0. -/
def dEntry0 : DivEntry := { jpc := 0, depth := 0, mask := 3, epc := 64, emask := 2, fmt := 0, elsePhase := false }

theorem witness_branches_and_calls :
    ([0, 1, 2, 3, 4].all (fun c => rdy (.bra { fB1 with cond := c, mask := if c = 0 then 0 else 1 }) oneLane)
    && [0, 31].all (fun n => rdy (.call fB2) (stacked n) && rdy (.calli fCalli) (stacked n)) && rdy (.call fB2) (stacked 32)
    && rdy (.calli fCalli) (stacked 32)
    && on (.calli fCalli) badTarget (fun e => (opPair e (fCalli.joff.setWidth 9) 0).toNat % 64 = 5)
    && on (.ret fB) m (fun e => e.c.r.rstack = [])
    && on (.ret fB) (stacked 1) (fun e => e.c.r.rstack = [link0] && e.c.r.m0 ≠ 0 && e.c.r.dstack = []
      && [0, 1].all (fun l => agetD link0 0 l = 64))
    && on (.ret fB) (withRegs (fun r => { r with rstack := [link0], dstack := [{ dEntry0 with depth := 1 }] }) m) (fun e =>
      e.c.r.dstack.head?.map (·.depth) = some 1)
    && on (.ret fB) twoLinks (fun e => e.c.r.m0.getLsbD 0 && e.c.r.m0.getLsbD 1)) = true := by decide +kernel

def fJoin : FmtB := { fB with toff := 3, tslot := 4, joff := 5, jslot := 2, mask := 1 }
/-- A divergence entry that lane 1 waits in. -/
def dEntry : DivEntry := { jpc := 0, depth := 0, mask := 3, epc := 64, emask := 2, fmt := 0, elsePhase := false }
/-- The taken arm of `arms` as the current context, its divergence stack with n entries; the fall-through arm. -/
def armSplit : SplitRec := { jpc := 0, depth := 0, fmt := 0, mask := 7, lanesT := 3, lanesF := 4 }
def armRegs (n : Nat) : CtxRegs := { regs0 with m0 := 3, masks := [(1, 1)], dstack := List.replicate n dEntry }
def inArm (n : Nat) : State :=
  { arms with
    ctxs := [(0, { ctx0 with arm := .taken, live := 3, r := armRegs n }),
             (65536, { ctx0 with arm := .fall, live := 4, r := { regs0 with m0 := 4 } })]
    groups := [(0, { group0 with split := some armSplit })] }

/-- At the join of the split: the other arm still runs, or waits there. -/
def joining (st : Status) (cur : Nat) : State :=
  { arms with cur := cur,
              ctxs := [(0, { ctx0 with arm := .taken, live := 1, r := { regs0 with m0 := 1 }, status := st }),
                       (65536, { ctx0 with arm := .fall, live := 2, r := { regs0 with m0 := 2 } })] }

/-- The arm that waits at the join is about to halt. -/
def faultedArm : State :=
  modCtx (joining .parkedJoin 65536) 0 (fun c => { c with fault := some (plainTrap 0x15 0) })

theorem witness_divergence_and_joins :
    (on (.brm fJoin) m (fun e => (e.c.r.m0 &&& maskOf e.c.r 1) = 0)
    && rdy (.brm fJoin) (withRegs (fun r => { r with masks := [(1, 3)] }) m)
    && on (.brm fJoin) oneLane (fun e => e.c.arm = .whole && e.key % 65536 + 65536 * (2 * (e.g.first / 8)) = e.key)
    && on (.brm fJoin) (inArm 15) (fun e => e.c.arm ≠ .whole && decide (e.c.r.dstack.length < 16))
    && on (.brm fJoin) (inArm 16) (fun e => decide (16 ≤ e.c.r.dstack.length))
    && on (.join fB) m (fun e => e.c.r.dstack = [] && e.c.arm = .whole)
    && [dEntry, { dEntry with elsePhase := true }, { dEntry with emask := 8 }].all (fun d =>
      on (.join fB) (withRegs (fun r => { r with dstack := [d] }) m) (fun e => d.jpc = e.c.r.pc
        && d.depth = e.c.r.rstack.length))
    && on (.join fB) (joining .running 65536) (fun e => e.c.arm = .fall && (siblingOf (joining .running 65536) 65536 0).isSome)
    && on (.join fB) faultedArm (fun e => e.c.arm = .fall && (siblingOf faultedArm 65536 0).any (fun p =>
      p.2.status = .parkedJoin && p.2.fault.isSome))
    && on (.join fB) (joining .parkedJoin 65536) (fun e => e.c.arm = .fall
      && (match siblingOf (joining .parkedJoin 65536) 65536 0 with
        | some (k, sib) => k = 0 && sib.status = .parkedJoin && sib.arm = .taken
        | none => false))) = true := by decide +kernel

/-- A group of 16 lanes among others. -/
def narrow (w : Nat) (others : Amap Ctx) : State :=
  { m with groups := [(0, { group0 with width := w }), (1, { group0 with width := w, first := w })],
           ctxs := (0, ctx0) :: others }

theorem witness_boundaries_halts_and_widths :
    (rdy (.rgn fB) m && rdy (.trap { fB with toff := 7 }) m && rdy (.brk { fB with toff := 7 }) m
    && rdy (.wset { fB with cond := 3 }) (stacked 1)
    && on (.wset { fB with cond := 3 }) m (fun e => e.g.width = 64 && e.g.slots = 0 && e.c.nLd = 0 && e.c.nSt = 0)
    && [0, 1, 2].all (fun c => on (.wset { fB with cond := c }) m (fun e => (e.fr.live &&& laneWindow 0 (8 * 2 ^ c.toNat)) ≠ 0))
    && on (.wset { fB with cond := 2 }) (narrow 16 [(131072, { ctx0 with group := 1 })]) (fun e => e.g.width < 32)) = true := by
  decide +kernel

/-- A fabric operation on node 5, this module. -/
def fab0 : FabOp :=
  { op := 0, owners := [0], tag := 0, vi := 0, pc := 0, remote := 0x2000, node := 5, scratch := false, so := 0, addr := 0x2000
    len := 16, value := 7, bar := some 1, cw := some (64, 1), sent := true, failed := false, owned := [], left := [], data := [] }

/-- Groups of 16 lanes, of which two live in each; the second waits for the width of 32. -/
def fusing : State :=
  { narrow 16 [(262144, { ctx0 with group := 1, live := 0x30000, status := .parkedWset 32, r := { regs0 with m0 := 0x30000 } })] with
    frames := [(0, { frame0 with live := 0x30003 })] }

theorem witness_windows_fuse :
    (on (.wset { fB with cond := 2 }) fusing (fun e =>
      let win := windowCtxs fusing (frameKeyOf e.key) e.g.first 32
      e.g.width < 32 && win.map (·.1) = [0, 262144] && arising fusing.ctxs && e.c.arm = .whole && e.c.r.dstack = [] && e.c.r.rstack = []
      && e.c.nLd = 0 && e.c.nSt = 0 && e.c.nCp = 0 && e.c.nTl = 0 && e.g.slots = 0
      && win.all (fun p => p.1 = e.key || (p.2.status = .parkedWset 32 && p.2.r.pc = e.c.r.pc && p.2.fault.isNone))
      && win.all (fun p => win.all (fun p' => p.1 = p'.1 || groupLanes fusing p.2 &&& groupLanes fusing p'.2 = 0))
      && fusing.ctxs.all (fun p => p.2.group < fusing.nextId)
      && (win.map (fun p => (lanesOf p.2.live).headD 64)) = [0, 16])) = true := by decide +kernel

-- 07 R195: the two groups are one of 32 lanes
theorem test_windows_fuse :
    after (.wset { fB with cond := 2 }) fusing (fun t => t.ctxs.map (fun p => (p.1, p.2.live)) = [(0, 0x30003)]
      && t.groups.any (fun g => g.2.width = 32)) = true := by decide +kernel

theorem witness_lanes_exit :
    (on (.exit fB) (withCtx (fun c => { c with nCp := 1 }) m) (fun e => e.c.r.m0 = e.c.live)
    && [[], [(4, { fab0 with failed := true })], [(4, { fab0 with owners := [1] })]].all (fun l =>
      on (.exit fB) { m with fabs := l } (fun e => e.c.r.m0 = e.c.live && l.all (fun p => p.2.failed || !p.2.owners.contains e.key)))
    && on (.exit fB) { m with fabs := [(4, fab0)] } (fun e => fab0.owners.contains e.key)
    && on (.exit fB) m (fun e => e.c.nCp = 0 && m.fabs = [] && e.c.r.m0 = e.c.live && e.c.arm = .whole)
    && on (.exit fB) (withRegs (fun r => { r with m0 := 1, dstack := [{ dEntry with emask := 2 }] }) m) (fun e =>
      (2#64 &&& (e.c.live &&& ~~~e.c.r.m0)) ≠ 0)) = true := by decide +kernel

/-! ## Witnesses: layout, privileged, Junction and fabric instructions (13; 18; 20) -/

def recordOf (s : State) (e : Env) (h : BitVec 1024) (f : FmtT) (l : Nat) : Xlat :=
  xl s e (fun l => recordVa h (bandIndex h (recOrigin h 0 + (coord0 e f l).toNat)
    (recOrigin h 1 + (coord1 e f l).toNat) (recOrigin h 2 + (coord2 e f l).toNat))) l

def recordsOk (s : State) (e : Env) (f : FmtT) (h : BitVec 1024) (acc : Access) : Bool :=
  (lanesOf e.exec).all (fun l => inView h (runAt e f l 0) && (recordOf s e h f l).level ≠ 9
    && !pageRefuses (viOf s (eVi e)).desc acc (recordOf s e h f l) && !isPoisoned s (lineOf (recordOf s e h f l).pa))

theorem witness_layout_instructions :
    (on (.lyrd fT) m (fun e =>
      let s1 := actState (.lyrd fT) m e
      let e1 := actEnv (.lyrd fT) m e
      let lines := distinct ((distinct ((lanesOf e.exec).map (fun l => (recordOf s1 e hrec fT l).pa / 64))).map
        (fun k => lineOf (64 * k)))
      let fl := laneFill m e 0 (recordOf s1 e hrec fT)
      hAt e.c.r 2 = some hrec && recordsOk s1 e fT hrec .record && (storesOf (regionItems e.c)).isEmpty
        && (lanesOf e.exec).all (fun l => !layoutPending (bandAt s1 ((recordOf s1 e hrec fT l).pa / 64)) e.key
          && !bandBusy s1 ((recordOf s1 e hrec fT l).pa / 64))
        && !loadWaits s1 e1 fl lines && roomFor m (eDie e) fl lines && l1Room m (eCore e) lines && lines ≠ [])
    && [Instr.lypin { fT with d := 464 }, .lypin { fT with d := 264 }, .lyunp { fT with d := 510 }, .lyadv { fT with d := 448 }].all
      (fun i => on i m (fun e =>
        let s1 := actState i m e
        let e1 := actEnv i m e
        e.exec ≠ 0 && recordsOk s1 e fT hrec .recordPin && !isNonspec e1
          && orderLegal hrec (bandAt s1 ((recordOf s1 e hrec fT 0).pa / 64)).order && orderLegal hrec 0
          && (opWord e 9 0 464 0).getLsbD 4 && (opWord e 9 0 264 0).getLsbD 4))) = true := by decide +kernel

def fA0 : FmtA := { fA with ty := 0 }
def badTable : State := withRegs (fun r => { r with g := [(4, 0x00400000)] }) m
def fC : FmtM := { fM with base := 262, d := 448 }

theorem witness_privileged_instructions :
    (on (.ovtld { fA0 with a := 260 }) m (fun e => (opWord e 9 0 260 0).extractLsb' 22 10 = 0)
    && on (.ovtld { fA0 with a := 260 }) badTable (fun e => (opWord e 9 0 260 0).extractLsb' 22 10 ≠ 0)
    && rdy (.tlbinv { fA0 with c := 0 }) m && rdy (.tlbinv { fA0 with c := 1, a := 260 }) m
    && rdy (.ambw { fA0 with a := 260, b := 262 }) m
    && on (.cmnt fC) m (fun e =>
      let s1 := actState (.cmnt fC) m e
      let x := xl s1 e (addrM e fC) 0
      let line := lineOf x.pa
      let fl := xlatFill m (eVi e) 0 [x]
      (addrM e fC 0).toNat % 128 = 0 && x.level ≠ 9 && !pageRefuses (viOf m (eVi e)).desc .cmnt x && !lineMoving s1 line
        && !storeWaits s1 e fl [line] && roomFor m (eDie e) fl [line] && noHolder m e.key [line] && !pteLyrec x.pte
        && !bandHeld m (2 * line) && !bandHeld m (2 * line + 1))) = true := by decide +kernel

/-- The card or record at 0x1000, a misaligned one at 16. -/
def fJ (var : BitVec 4) : FmtE := { fE with var := var, s1 := 274 }
def jn : List Instr := [.jnlaunch (fJ 0), .jnrst (fJ 0), .jnrstStop (fJ 1), .jnrstClose (fJ 2)]
def jnBad : List Instr :=
  [.jnlaunch { fJ 0 with s1 := 264 }, .jnrst { fJ 0 with s1 := 264 }, .jnrstStop { fJ 1 with s1 := 264 },
   .jnrstClose { fJ 2 with s1 := 264 }]
def noReshard : State := { m with vis := [(0, { vi with reshard := false, priv := false })] }

theorem witness_junction_instructions :
    (jn.all (fun i => on i m (fun e => (viOf m (eVi e)).reshard && (opPair e 274 0).toNat % 256 = 0))
    && jnBad.all (fun i => on i m (fun e => (opPair e 264 0).toNat % 256 ≠ 0))
    && jn.all (fun i => on i noReshard (fun e => !(viOf noReshard (eVi e)).reshard))
    && on (.jnst { fJ 0 with s0 := 266 }) m (fun e =>
      let i : Instr := .jnst { fJ 0 with s0 := 266 }
      let e1 := actEnv i m e
      let s1 := actState i m e
      let x := xl s1 e (fun _ => opPair e 274 0) 0
      let lines := linesRead (seen s1 e1) x 8
      let fl := xlatFill m (eVi e) 0 [x]
      x.level ≠ 9 && (readXlat (seen s1 e1) x 8).isSome && !pageRefuses (viOf m (eVi e)).desc .load x
        && lines.all (fun n => !isPoisoned m n) && !loadWaits s1 e1 fl lines && roomFor m (eDie e) fl lines
        && l1Room m (eCore e) lines)) = true := by
  decide +kernel

/-- Remote 0x1000, local byte 0x2000 or scratchpad byte 16, 256 bytes, node 6; with a barrier and a completion word. -/
def fF : FmtE := { fE with ext := 256, s0 := 274, s1 := 260, s2 := 272 }
def fFs : FmtE := { fF with var := 1, s1 := 264 }
def fFsig : FmtE := { fF with ext := 0 }

def fabricAllowed (s : State) (e : Env) (f : FmtE) : Bool :=
  (opWord e 9 0 f.s2 0).extractLsb' 30 2 = 0
  && (viOf s (eVi e)).peers.any (fun p => decide (p.1 < 16) && p.2.getLsbD 31
    && p.2.extractLsb' 0 30 = (opWord e 9 0 f.s2 0).extractLsb' 0 30)
  && (!f.baren || decide (f.nb.toNat < pkNbar e.la.pkt))
  && (!f.cwen || decide ((gAt e.c.r (f.cwreg.toNat - 256)).toNat % 4 = 0
    ∧ (gAt e.c.r (f.cwreg.toNat - 256)).toNat + 4 ≤ pkSpBytes e.la.pkt))

theorem witness_fabric_operations_are_released :
    ([fF, fFs, announced fF, announced fFs, { fF with s2 := 276 }, { fFs with s2 := 276 }].all (fun f =>
      [Instr.fput f, .fget f].all (fun i => on i m (fun e => fabricAllowed m e f && (opPair e f.s0 0).toNat % 16 = 0
        && eLen f = 256 && (if f.var = 1 then (opWord e 9 0 f.s1 0).toNat else (opPair e f.s1 0).toNat) % 16 = 0)))
    && on (.fget { fF with s2 := 276 }) m (fun e => nodeOf (opWord e 9 0 276 0) = ownNode m)
    && on (.fget fF) m (fun e => nodeOf (opWord e 9 0 272 0) ≠ ownNode m)
    && [fFsig, { fFsig with var := 1 }, announced fFsig].all (fun f => on (.fsig f) m (fun e => fabricAllowed m e f
      && (opPair e f.s0 0).toNat % 8 = 0))) = true := by decide +kernel

/-! ## Witnesses: issue (06; 07), reset, decoding, steps -/

/-- What `issue_checks` asks of a context that has an environment. -/
def issues (i : Instr) (s : State) : Bool := env s (fun e => mayIssue e && !addsFirst (request i s) e s)
def underPblk : State := withRegs (fun r => { r with pblk := some { left := 3, pat := 1, mask := 1 } }) m
def oneWord : State := withRegs (fun r => { r with xwords := [0xFF70#28] }) m

theorem witness_issue_checks :
    (env (withCtx (fun c => { c with status := .parkedJoin }) m) (fun e => !mayIssue e)
    && [Instr.add fA, .exit { fB with cond := 1 }].all (fun i => !isEvent i && issues i m && !encodingOk i)
    && [Instr.mset { fA with d := 449, a := 448, c := 0 }, .bra fB].all (fun i => issues i oneWord && !(request i oneWord).word)
    && [Instr.bra fB, .add { a2 with u := true, d := 259, a := 260, b := 262 }].all (fun i => issues i underPblk && encodingOk i
      && env underPblk (fun e => (request i underPblk).vregs.all (fun n => decide (n < pkVregs e.la.pkt)))
      && (!(request i underPblk).gov || (request i underPblk).uniform))
    && [Instr.ovtld { fA0 with a := 260 }, .tlbinv { fA0 with c := 0 }, .ambw { fA0 with a := 260, b := 262 }, .cmnt fC].all
      (fun i => issues i noReshard && encodingOk i && env noReshard (fun e => !(viOf noReshard (eVi e)).priv))
    && issues (.notAnInstruction 0xFF) m) = true := by decide +kernel

/-- A v register, or g4, is poisoned in lane 1: its low half, or its high half only. -/
def poisonV (n : Nat) (h : BitVec 2) (s : State) : State := { s with frames := [(0, { frame0 with vpoison := [(64 * n + 1, h)] })] }
def poisonG (h : BitVec 2) : State := withRegs (fun r => { r with gpoison := [(4, h)] }) m
/-- v3 := v1 + g4, v1 + v2 with v2 poisoned, g3 := g4 + g6 on the uniform path. -/
def aG : FmtA := { a2 with b := 260 }
def aU : FmtA := { a2 with d := 259, a := 260, b := 262, u := true }
def binary (f : FmtA) : List Instr := [.add f, .sub f, .and f, .or f, .xor f]

/-- In lane l operand A holds poison `pa`, operand B `pb`, and no lower lane meets any. -/
def meetsPoison (s : State) (f : FmtA) (l : Nat) (pa pb : BitVec 2) : Bool :=
  (binary f).all (fun i => env s (fun e => issues i s && encodingOk i && (f.u || e.exec.getLsbD l)
    && (request i s).vregs.all (fun k => decide (k < pkVregs e.la.pkt))
    && (match e.sib with | some c => e.exec &&& c.live = 0 | none => true)
    && operandPoison e f.a l = pa && operandPoison e f.b l = pb
    && (List.range l).all (fun k => !e.exec.getLsbD k || (operandPoison e f.a k = 0 && operandPoison e f.b k = 0))))

theorem witness_poisoned_registers_trap :
    ([1, 2, 3].all (fun h => meetsPoison (poisonV 1 h m) a2 1 h 0 && meetsPoison (poisonV 2 h m) a2 1 0 h
      && meetsPoison (poisonG h) aG 0 0 h && meetsPoison (poisonG h) aU 0 h 0)
    && meetsPoison (poisonV 1 1 (inArm 0)) a2 1 1 0 && env (inArm 0) (fun e => e.sib.isSome)) = true := by decide +kernel

-- 18 R425: the record names the register, B when A is clean, and its high half
theorem test_register_poison :
    (after (.add a2) (poisonV 2 2 m) (fun t => (aget t.ctxs 0).any (fun c => c.fault.any (fun f =>
      f.cause = 0x0E && f.lane = 1 && f.code = 0x00010002)))
    && after (.add aU) (poisonG 1) (fun t => (aget t.ctxs 0).any (fun c => c.fault.any (fun f =>
      f.cause = 0x0E && f.lane = 0 && f.code = 260)))) = true := by decide +kernel

/-- A context of core 1 whose region has read, or written, line 64 (byte 0x2000), and wrote v2. -/
def otherRegion (rd : Bool) : Region :=
  { region0 with vold := [(130, 9)], reads := if rd then [64] else [], writes := if rd then [] else [64], nSt := 1 }
def twoCores (rd : Bool) : State :=
  { m with
    ctxs := [(0, ctx0), (1, { ctx0 with group := 1, nSt := 2, region := some (otherRegion rd) })]
    frames := [(0, frame0), (1, { frame0 with core := 1 })]
    groups := [(0, group0), (1, { group0 with core := 1 })] }

theorem witness_claims_roll_back_other_regions :
    ([true, false].all (fun rd => [(Instr.st fM, fM), (.stg fG, fG)].all (fun p =>
      on p.1 (twoCores rd) (fun e =>
        let s := twoCores rd
        let e1 := actEnv p.1 s e
        let s1 := actState p.1 s e
        let lines := cellLines (cellsOf (lanesOf e.exec) (fun l => (xl s1 e1 (addrM e p.2) l).pa) 9 4 (opWord e 9 0 p.2.d))
        let fl := laneFill s e 0 (xl s1 e1 (addrM e p.2))
        canWrite s1 e1 .store 4 (addrM e p.2) && !isNonspec e1 && !storeWaits s1 e1 fl lines && roomFor s (eDie e) fl lines
          && lines = [64] && arising (otherRegion rd).vold && (aget s.frames (frameKeyOf 1)).isSome && e.key = 0)))) = true := by
  decide +kernel

/-- The context holds the line at its PC, with the given word in slot 0. -/
def lineOfSlot (w : Slot) : Line := w.setWidth 512
def holding (w : Slot) : State := withCtx (fun c => { c with ibuf := some (0, lineOfSlot w) }) m
def quiet : State := withCtx (fun c => { c with status := .parkedJoin }) m
def mover (s : State) (p : Ctx → Bool) : Bool :=
  s.agenda = [] && movers s = [0] && (match aget s.ctxs 0 with
    | some c => p c && (match c.status with | .resuming _ => false | _ => true)
    | none => false)

theorem witness_steps_run_decoded_instructions :
    (mover (holding 0x64_00FF7FC0_00190001) (fun c => (match c.ibuf with
      | some b => b.1 = pcLine c.r.pc && (decode (lineSlot b.2 (pcSlot c.r.pc))).toOption.isSome
      | none => false))
    && mover (holding 0x00010000) (fun c => (match c.ibuf with
      | some b => b.1 = pcLine c.r.pc && (decode (lineSlot b.2 (pcSlot c.r.pc))).toOption.isNone
      | none => false))
    && mover m (fun c => c.ibuf = none)
    && movers { quiet with agenda := [.hbmFrameBoundary] } = [] && quiet.powered && movers quiet = [] && quiet.agenda = [])
    = true := by decide +kernel

theorem witness_steps_keep_memory_canonical : m.memoryWf = true ∧ (∃ t, step m = .next t) :=
  ⟨by decide +kernel, _, rfl⟩

theorem witness_decoding_inverts_encoding : (Instr.add a2).wellFormed = true := by decide

theorem witness_slots_have_one_meaning : ∃ i, decode 0xFF = .ok i := ⟨_, rfl⟩

/-! ## Witnesses: events of contexts, cohorts and launches (04; 06; 07; 16; 18) -/

/-- m with n bytes at a. -/
def withMem (a n v : Nat) (s : State) : State :=
  { s with mem := s.mem.filter (fun c => c.1 < a) ++ cellsAt a n v ++ s.mem.filter (fun c => a + n ≤ c.1) }

/-- What an engine reads, or writes, may be read, or written, now. -/
def canGet (s : State) (g : Eng) (acc : Access) (va : Word64) (n : Nat) : Bool :=
  match engRead s g acc va n with
  | .ok (bytes, lines) =>
    !engBlocked s g (engFill s g va n) lines false && roomFor s (engDie g) (engFill s g va n) lines && bytes.length = n
  | .error _ => false
def canPut (s : State) (g : Eng) (acc : Access) (va : Word64) (n : Nat) : Bool :=
  match engPlaces s g acc va n with
  | .ok places => !engBlocked s g (engFill s g va n) (placeLines places) true
    && roomFor s (engDie g) (engFill s g va n) (placeLines places) && places.length = n
  | .error _ => false
/-- A context may write the lines now. -/
def canDrain (s : State) (key core : Nat) (keys : List Nat) (f : Nat → Fill) (lines : List Nat) : Bool :=
  !writeWaits s key core keys f lines && roomFor s (dieOfCore core) f lines

/-- The bytes at the PC as a line: with the target bit of slot 0, without it, of odd parity, with a reserved bit set. -/
def target0 : State := withMem 61 1 1 (withCtx (fun c => { c with arrived := true }) m)
def notTarget : State := withCtx (fun c => { c with arrived := true }) m
def badLine : State := withMem 0 1 1 m
def reservedLine : State := withMem 63 1 1 m
/-- The line at the PC cannot be executed, or is poisoned, or another context of the core has read it. -/
def noExec : State := withMem 0x11000 1 0x27 m
def poisoned0 : State := { m with poison := [0] }
def reading0 : Region := { region0 with reads := [0] }
def readToo : State :=
  { m with ctxs := [(0, ctx0), (131072, { ctx0 with group := 1, region := some reading0 })]
           groups := [(0, group0), (1, { group0 with first := 8 })] }
/-- The first tests of a fetch pass up to the copy, whose parity the error breaks or leaves; `good` and `tgt` say what the line
that is used has. -/
def fetched (s : State) (noise : Line) (ok good tgt : Bool) : Bool :=
  env s (fun e =>
    let va := BitVec.ofNat 64 (pcLine e.c.r.pc)
    let x := xl s e (fun _ => va) 0
    let f := xlatFill s (eVi e) 0 [x]
    let n := lineOf x.pa
    let l := lineOfBytes (readBytes (seen s e) x.pa 64)
    let line := if parityOk (l ^^^ noise) then l ^^^ noise else l
    mayIssue e && x.level ≠ 9 && !pageRefuses (viOf s (eVi e)).desc .fetch x && !anyPoison s x.pa 64
      && !linesBusy (tlbFill s (eCore e) (eVi e) va x) e false f [n] && roomFor s (eDie e) f [n] && l1Room s (eCore e) [n]
      && parityOk (l ^^^ noise) = ok && parityOk line = good && (!e.c.arrived || lineTgt line (pcSlot e.c.r.pc) = tgt))
/-- Translated, and stopped by the page or by poison. -/
def fetchStopped (s : State) (page poison : Bool) : Bool :=
  env s (fun e =>
    let x := xl s e (fun _ => BitVec.ofNat 64 (pcLine e.c.r.pc)) 0
    let va := BitVec.ofNat 64 (pcLine e.c.r.pc)
    mayIssue e && x.level ≠ 9 && pageRefuses (viOf s (eVi e)).desc .fetch x = page && anyPoison s x.pa 64 = poison
      && !linesBusy (tlbFill s (eCore e) (eVi e) va x) e false (xlatFill s (eVi e) 0 [x]) [lineOf x.pa])
def lostPc : State := withRegs (fun r => { r with pc := 0x7000000000 }) m
def invalidating (vi ctx : Option Nat) : State := { m with tlbInvs := [(3, { asid := 7, page := none, vi := vi, ctx := ctx })] }

theorem witness_fetches_and_translations :
    (fetched m 0 true true true && fetched m 1 false true true && fetched target0 0 true true true
    && fetched notTarget 0 true true false && fetched badLine 0 false false true && fetched reservedLine 0 true true true
    && (lineOfBytes (readBytes reservedLine 0 64)).extractLsb' 497 15 ≠ 0 && (lineOfBytes (readBytes m 0 64)).extractLsb' 497 15 = 0
    && fetched readToo 1 false true true && coreOf 131072 = coreOf 0 && reading0.reads.contains 0
    && fetchStopped noExec true false && fetchStopped poisoned0 false true
    && env lostPc (fun e => mayIssue e
      && (translate lostPc 0 0 (BitVec.ofNat 64 (pcLine e.c.r.pc))).toOption = none)
    && (translate m 0 0 0x2000).toOption.isSome && (translate m 0 0 0x7000000000).toOption.isNone
    && [(some 0, none), (none, some 0)].all (fun p => (invalidating p.1 p.2).ctxs.all (fun q => storesOf q.2.drain = []))
    && [(some 0, none)].all (fun p =>
      { invalidating p.1 p.2 with ctxs := [(0, { ctx0 with drain := [.store (.scratch [])] })] }.ctxs.any (fun q =>
        asidOfCtx (invalidating p.1 p.2) q.1 = 7 && storesOf q.2.drain ≠ []))
    && (invalidating (some 0) none).redsts = [] && (invalidating (some 0) none).bands = [] && descAsid (viOf m 0).desc = 7) = true := by decide +kernel

/-- What a fetch traps with. -/
def fetchTraps (s : State) (noise : Line) (cause : Nat) : Bool :=
  after (.fetchLineArrival 0 noise) s (fun t => (aget t.ctxs 0).any (fun c => c.fault.any (fun f => f.cause = cause)))

-- 06 R130, R131, R133, Table 6-18; 16 R395
theorem test_fetch_traps :
    (fetchTraps noExec 0 0x0A && fetchTraps poisoned0 0 0x0D && fetchTraps badLine 0 0x0F && fetchTraps notTarget 0 0x02
    && fetchTraps reservedLine 0 0x01 && after (.fetchLineArrival 0 1) readToo (fun t =>
      (aget t.ctxs 131072).any (fun c => c.region = none && c.same = 1) && faultCount t (l1Bank 0 0) = 1
      && (aget t.ctxs 0).any (fun c => c.ibuf.isSome))) = true := by decide +kernel

/-- A store of one word at byte 0x2000. -/
def word0 : List Host.Cell := [(0x2000, 1), (0x2001, 2), (0x2002, 3), (0x2003, 4)]
def ended (items : List Item) (holds : Bool) : State :=
  { barred with ctxs := [(0, { ctx0 with nSt := 1, region := some { region0 with items := items, ended := true, holds := holds } })] }
def snap0 : Snap := { regs := regs0, v := [], vpoison := [] }
def info0 : TrapInfo := plainTrap 0x12 64
def el0 : ElemStore := elem00 0
/-- The key of the band of the region of `hrec`, and an operation on it. -/
def bk : Nat := 0x2000000
def op0 (kind : Nat) (x : Word) : LayoutOp := { kind := kind, band := bk, bandIx := 0, hrec := hrec, x := x, ctxs := [0], vi := 0 }

/-- Line 64 is owned by die 0. -/
def ownedL2 : Amap L2Line := [(l2Key 64 0, { st := .m, agents := 1, set := 0, way := 0, rank := 1 })]
def owning64 (s : State) : State :=
  { s with sf := [(64, { st := 2, owner := 0, sharers := 1, age := 0 })], l2 := ownedL2 }
/-- Stores, barrier operations, a job, a matrix write and layout operations in one region. -/
def manyItems : List Item :=
  [.store (.mem word0 []), .held (.barInit 2 3 0 snap0), .held (.barArrive 1 snap0), .held (.job { job0 with setSlot := none, left := [0] }),
   .store (.scratch [(5, 7)]), .store (.mem [(0x2003, 9)] []), .held (.acc accOp0), .store (.layout [op0 0 1, op0 1 0])]
def committing (items : List Item) : State := owning64 (ended items false)
def clustered : State :=
  { committing [.held (.barArrive 16 snap0)] with
    cohorts := [(0, { cohort0 with cluster := some 1 })], clusters := [(1, { bar1 with em := 1, cm := 0 })] }
/-- What `regions_commit_and_halt` asks of a list of items, whose stores go to lines that the die owns. -/
def releases (s : State) (items : List Item) : Bool :=
  (cellLines (memCellsOf items)).all (fun l => engineOwner s l = none && holdsL2 s l 0 && ownsL2 s l 0)
  && (match aget s.ctxs 0, aget s.cohorts 0 with
    | some c, some co => c.drain = [] && c.handed.isNone
        && (releaseAll 0 { bar := barOf s 0, pend := c.r.pend, arrph := c.r.arrph, shared := co.cluster.isSome,
                           acc := accOwned s 0 } items).isSome
    | _, _ => false)
/-- A barrier operation that fails, with its subcause. -/
def failing : List (Held × Nat) :=
  [(.barInit 15 0 0 snap0, 1), (.barInit 0 4096 0 snap0, 1), (.barInit 1 1 0 snap0, 1), (.barArrive 0 snap0, 2),
   (.barArrive 15 snap0, 2)]

theorem witness_regions_commit :
    ([[], [Item.store (.mem word0 [])]].all (fun items => [true, false].all (fun h => (aget (ended items h).ctxs 0).isSome
      && canDrain (ended items h) 0 0 [] (markFill (ended items h) 0 []) (cellLines word0)))
    && releases (committing manyItems) manyItems && releases clustered [.held (.barArrive 16 snap0)]
    && [0, 1].all (fun part =>
      let en : StoreEntry := .coord [{ el0 with part := part }]
      let s := ended [.store en] false
      !bandBusy s el0.key && !isStale s el0.key el0.ver && canDrain s 0 0 [] (markFill s 0 [el0.mark]) (entryLines s en))
    && failing.all (fun p =>
      let s := ended [.held p.1] false
      !accOwned s 0 && storesReady s 0 { region0 with items := [.held p.1] }
        && (releaseOne 0 { bar := barOf s 0, pend := 0, arrph := 0, shared := false, acc := false } p.1).isNone)) = true := by
  decide +kernel

-- 07 R200; 10 R292, R304, R307: the later store remains, barrier 1 has completed its phase, and each item is where it goes
theorem test_region_commit :
    (after (.regionCommit 0) (committing manyItems) (fun t =>
      readByte t 0x2002 = 3 && readByte t 0x2003 = 9 && (barOf t 0 1).phase && (barOf t 0 2).em = 3
      && (aget t.jobs 10).isSome && (agetD t.accQ [] 0).length = 1 && (bandAt t bk).queue.length = 2
      && (aget t.cohorts 0).any (fun co => agetD co.sp 0 5 = 7))
    && after (.regionCommit 0) (ended [.held (.barArrive 15 snap0)] false) (fun t => (aget t.ctxs 0).any (fun c =>
      c.fault.any (fun f => f.cause = 0x13 && f.sub = 2 && f.code = 15)))) = true := by decide +kernel

/-- A transfer between the same shards of this module: its card, at 0x3000, names meshes of one rank at 0x4000 and its
milestone record at 0x6000. -/
def card0 : BitVec 2048 :=
  at_ 2048 0 1 ||| at_ 2048 544 32 ||| at_ 2048 576 4 ||| at_ 2048 608 1 ||| at_ 2048 640 99 ||| at_ 2048 704 0x4000
  ||| at_ 2048 768 0x4000 ||| at_ 2048 832 0x6000
def leg0 : Leg :=
  { src := 0, dst := 0, node := 5, x0 := 0, y0 := 0, z0 := 0, ext0 := 32, ext1 := 4, sOrg := (0, 0, 0), dOrg := (0, 0, 0) }
def xfer0 : Xfer :=
  { vi := 0, die := 0, card := card0, ms := 0x6000, st := 1, cause := 0, legs := [], srcRec := 0, dstRec := 0, srank := none
    drank := none, fleg := 0, restarts := 0, again := false, marked := [], flying := [], noRec := false, hdr := true
    clear := none, owned := [] }
def jnOp (op : Nat) : JnOp := { op := op, ctx := 0, vi := 0, card := 0x3000 }
def jnState (op : Nat) (xs : Amap Xfer) : State :=
  withMem 0x3000 256 card0.toNat { ended [.held (.jn (jnOp op))] false with mem := tables, xfers := xs }
def jnEng0 : Eng := { core := 0, vi := 0, agent := agentJn, mine := [0] }

theorem witness_regions_release_transfers :
    ([(0, []), (0, [3]), (0, [1]), (0, [2]), (2, [2]), (3, [2]), (3, [5]), (1, [3]), (1, [4]), (1, [5])].all (fun p =>
      let s := jnState p.1 (p.2.map (fun st => (3, { xfer0 with st := st })))
      (viOf s 0).en && ((xferAt s 0 (tcMs card0)).map (fun q => (q.1, q.2.st))).toList = p.2.map (fun st => (3, st)))
    && canGet (modCtx (jnState 0 []) 0 (fun c => { c with region := none })) jnEng0 .load 0x3000 256
    && (tcMs card0).toNat % 256 = 0) = true := by decide +kernel

theorem witness_regions_read_cards :
    ((placesWait (modCtx (jnState 0 []) 0 (fun c => { c with region := none })) jnEng0 (tcMs card0) 256).isNone
    && (match engRead (jnState 0 []) jnEng0 .load 0x3000 256 with
      | .ok (bytes, _) => BitVec.ofNat 2048 (leNat bytes) = card0
      | .error _ => false)) = true := by decide +kernel

theorem witness_contexts_halt :
    (!stopped (withCtx (fun c => { c with fault := some info0 }) m) 0
    && env (withCtx (fun c => { c with fault := some info0 }) m) (fun e => e.c.region.isNone && e.c.status = .running)
    && (aget m.ctxs 0).isSome
    && env (withCtx (fun c => { c with region := some { region0 with holds := true } }) m) (fun e => e.c.region.isSome))
    = true := by decide +kernel

/-- A coordinate store under way: on its own core, or handed to the L2 by a core of die 1. -/
def draining (handed : Option Nat) (part : Nat) : State :=
  withCtx (fun c => { c with nTl := 1, drain := [.store (.coord [{ el0 with part := part }])], handed := handed }) m
/-- Core 0 has read ORDER and VERSION of band 0x80000000 / 64 when its VERSION was 1; an access at home carries that one. -/
def stale0 : State := { withCtx (fun c => { c with region := some region0 }) m with boc := [(bocKey bk 0, (0, 1))] }
def carrying : State := withCtx (fun c => { c with region := some region0, carried := [(bk, 1)] }) m
def rec0 : PendingRec := { vi := 0, ctxid := ctxidOf 0 ctx0, record := 1, second := false }
def writing : State := { m with mem := tables, recs := [(3, rec0)] }
/-- The slot still holds a record; the ring lies where no page is; the context is to run again. -/
def slotFull : State := withMem 0x8000 1 1 writing
def lostRing : State :=
  { writing with vis := [(0, { vi with desc := vi.desc ||| at_ 512 320 0x7000000000 })] }
def resuming : State := { writing with ctxs := [(0, { ctx0 with status := .resuming info0 })] }
def ringPlaces (s : State) (p : List (Nat × Bool) → Bool) : Bool :=
  match engPlaces s (inbEng 0) .hostWrite (descTrapBase (viOf s 0).desc) 256 with
  | .ok places => p places
  | .error _ => false

theorem witness_home_accesses_and_trap_records :
    ([none, some 36].all (fun h => [0, 1].all (fun part =>
      let s := draining h part
      let core := h.getD 0
      let en : StoreEntry := .coord [{ el0 with part := part }]
      env s (fun e => storeCore 0 e.c = core)
      && !bandBusy s el0.key && !isStale s el0.key el0.ver
      && canDrain s 0 core [el0.key] (markFill s 0 [el0.mark]) (entryLines s en)))
    && staleOf stale0 0 ≠ [] && isStale carrying bk 1 && staleOf carrying 0 = [] && !storesLeft writing rec0
    && canPut writing (inbEng 0) .hostWrite (descTrapBase (viOf writing 0).desc) 256
    && ringPlaces writing (fun p => !slotTaken writing p) && ringPlaces slotFull (slotTaken slotFull)
    && !storesLeft slotFull rec0 && env resuming (fun e => rec0.ctxid = ctxidOf 0 e.c)
    && (engPlaces lostRing (inbEng 0) .hostWrite (descTrapBase (viOf lostRing 0).desc) 256).toOption = none) = true := by
  decide +kernel

/-- Launches of queue 0: with no cohort, in a given state, of a given packet. -/
def launching (f : Launch → Launch) : State := { m with cohorts := [], ctxs := [], launches := [(0, f launch0)] }
def cmplPkt (a : Nat) : BitVec 2048 := onePacket ||| at_ 2048 11 1 ||| at_ 2048 320 a ||| at_ 2048 384 7
def waitPkt (a v : Nat) : BitVec 2048 := onePacket ||| at_ 2048 12 1 ||| at_ 2048 448 a ||| at_ 2048 512 v
/-- Two ready launches of queues 0 and 1; `lastSel` makes the pair of the first the next in turn. -/
def twoReady (prio : Nat) : State :=
  { m with cohorts := [], ctxs := []
           launches := [(0, { launch0 with st := .ready, prio := prio }), (1, { launch0 with st := .ready, queue := 1 })] }
def level (la : Launch) : Nat := min 3 (la.prio + la.boost)
def turn (s : State) (la : Launch) : Nat := (16 * la.vi + la.queue + 4096 - s.lastSel - 1) % 4096
/-- An aborted launch of a VI that has been disabled and has a transfer, and the same with another launch of the VI. -/
def abortedOff : State :=
  { launching (fun l => { l with aborted := true }) with vis := [(0, { vi with en := false })], xfers := [(3, { xfer0 with st := 2 })] }

theorem witness_launches_are_selected_and_complete :
    (cohortCtxs m 0 ≠ [] && cohortCtxs { m with ctxs := [] } 0 = [] && m.jobs = [] && m.redsts = [] && m.fabs = [] && m.accQ = []
    && [(4, { fab0 with failed := true })].all (fun p => p.2.tag = 0 && p.2.failed)
    && (closesWait abortedOff 0).isNone && !(viOf abortedOff 0).en && abortedOff.launches.length = 1
    && [launching id, launching (fun l => { l with aborted := true })].all (fun s => (aget s.launches 0).isSome && s.cohorts = [])
    && canPut (launching (fun l => { l with pkt := cmplPkt 0x2000 })) (inbEng 0) .copyOut (pkCmplAddr (cmplPkt 0x2000)) 8
    && pkCmplEn (cmplPkt 0x2000)
    && (engPlaces (launching id) (inbEng 0) .copyOut (pkCmplAddr (cmplPkt 0x7000000000)) 8).toOption = none
    && [0, 1].all (fun p => (viOf (twoReady p) 0).gang = (twoReady p).runGang && (twoReady p).switching.isNone
      && toRestore (twoReady p) = []
      && (match aget (twoReady p).launches 0, aget (twoReady p).launches 1 with
        | some a, some b => level b < level a || (level b = level a && turn (twoReady p) a < turn (twoReady p) b)
        | _, _ => false))
    && [0, 2].all (fun p => p + launch0.boost < 3)
    && [0, 1].all (fun v =>
      let s := launching (fun l => { l with st := .queued, pkt := waitPkt 0x2000 v })
      (headOf s 0 0).map (·.1) = some 0 && pkNwait (waitPkt 0x2000 v) = 1
        && canGet s (inbEng 0) .hostRead (pkWaitAddr (waitPkt 0x2000 v) 0) 8
        && (match engRead s (inbEng 0) .hostRead (pkWaitAddr (waitPkt 0x2000 v) 0) 8 with
          | .ok (b, _) => leNat b = 0
          | .error _ => false))
    && (match engRead m (inbEng 0) .hostRead 0x7000000000 8 with | .ok _ => false | .error p => p.1 ≠ 3)) = true := by
  decide +kernel

def placing (p : BitVec 2048) : State :=
  { State.reset with
    launches := [(0, { launch0 with st := .dispatching, next := 0, pkt := p })]
    vis := [(0, vi)], mem := mem0 }
def fourPkt : BitVec 2048 := clusterPkt ^^^ at_ 2048 128 1 ||| at_ 2048 128 4

theorem witness_cohorts_are_placed :
    ((dispatching (placing onePacket)).isSome && toRestore (placing onePacket) = [] && (placing onePacket).switching.isNone
    && decide (0 < pkCohorts onePacket) && !pkCluster onePacket && (coreFor (placing onePacket) onePacket).isSome
    && arising (placing onePacket).launches && (dispatching (placing fourPkt)).isSome && pkCohorts fourPkt = 4
    && pkCluster fourPkt && (clusterFor (placing fourPkt) fourPkt [0, 1, 2, 3]).isSome
    && arising (placing fourPkt).launches && toRestore (placing fourPkt) = []) = true := by decide +kernel

/-- A frame of 64 live lanes with its group at ENTRY. -/
def started (t : State) (core : Nat) : Bool :=
  (aget t.frames core).any (fun f => f.live = BitVec.allOnes 64 && f.v = [])
  && (aget t.ctxs core).any (fun c => c.r.pc = pkEntry onePacket && c.r.m0 = BitVec.allOnes 64 && c.status = .running)

-- 05 R117, R121, R122: a cohort takes the next tag; one whose tag an older cohort has lives beside it; a cluster starts whole
theorem test_cohorts_start :
    (after .cohortPlacement (placing onePacket) (fun t => t.genCtr = 1 && t.diePtr = 1 && started t 0)
    && after .cohortPlacement { placing onePacket with cohorts := [(0, { cohort0 with core := 0, slot := 1 })] } (fun t =>
      aget t.cohorts 0 = some { cohort0 with core := 0, slot := 1 } && (aget t.cohorts (2 ^ 32)).isSome)
    && after .clusterPlacement (placing fourPkt) (fun t => t.genCtr = 4 && t.clusters.length = 1
      && [0, 1, 2, 3].all (fun k => started t k && (aget t.cohorts k).any (fun co => co.sp = [] && co.sibs.length = 4))))
    = true := by decide +kernel

/-! ## Witnesses: messages and registers (04; 18; 20; 23) -/

/-- A message of node 9 to VI 0, with its opcode and the bits above bit 16. -/
def msg (op : Nat) (rest : BitVec 768) : HostMsg := { src := 9, bits := at_ 768 0 op ||| rest }
def fromOwner (s : State) (h : HostMsg) (op : Nat) : Bool :=
  msgOp h = op && s.bootOk && (viOf s (msgVi h)).en && h.src = descOwner (viOf s (msgVi h)).desc && rsvOk h

def lnMsg (a : Nat) : HostMsg := msg 1 (at_ 768 64 5 ||| at_ 768 128 a)
/-- The packet of `onePacket` lies at byte 0x3000, one of FORMAT 2 besides. -/
def packets : State := withMem 0x3000 256 onePacket.toNat (withMem 0x3100 256 (onePacket ^^^ 3).toNat { m with mem := tables })
def fullQueue : State := { m with launches := (List.range 256).map (fun k => (k, launch0)) }
def packetAt (s : State) (a : Nat) : Option (BitVec 2048) :=
  match engXlat s (inbEng 0) .hostRead (BitVec.ofNat 64 a) with
  | .ok x => (readXlat s x 256).map (fun b => BitVec.ofNat 2048 (leNat b))
  | .error _ => none
def haltedM : State := withCtx (fun c => { c with status := .halted info0 }) m
def tagged (st : LaunchState) : State := { m with launches := [(0, { launch0 with st := st, pkt := onePacket ||| at_ 2048 1984 77 })] }
def mrMsg (op a sz : Nat) : HostMsg := msg op (at_ 768 16 sz ||| at_ 768 64 a)
/-- MEM_WR of words 0 and 1 of the region record: ORDER 1, VERSION v. -/
def recordMsg (v : Nat) : HostMsg := msg 11 (at_ 768 64 0x80000000 ||| at_ 768 256 1 ||| at_ 768 288 v)

theorem witness_host_messages :
    ([1, 5, 6, 10, 11, 99].all (fun op => msgOp { src := 8, bits := at_ 768 0 op } = op
      && 8 ≠ descOwner (viOf m (msgVi { src := 8, bits := at_ 768 0 op })).desc)
    && [0x3000, 0x3001, 0x3100].all (fun a => fromOwner packets (lnMsg a) 1 && lnRsvOk (lnMsg a))
    && (queueOf fullQueue 0 0).length = 256 && (packetAt packets 0x3000) = some onePacket
    && canGet packets (inbEng 0) .hostRead 0x3000 256
    && (pkRows onePacket).all (fun b => !b) && pkWaits onePacket = []
    && ((packetAt packets 0x3100).map (fun p => (pkRows p).findIdx? id)) = some (some 0)
    && fromOwner haltedM (msg 5 (at_ 768 32 (ctxidOf 0 ctx0).toNat)) 5 && !stopped haltedM 0 && viOfCtx haltedM 0 = 0
    && (match ctxNamed haltedM (ctxidOf 0 ctx0) with | some (k, c) => k = 0 && c.status = .halted info0 | none => false)
    && (ctxNamed haltedM 0xFFFFFFFF).isNone && fromOwner haltedM (msg 5 (at_ 768 32 0xFFFFFFFF)) 5
    && [LaunchState.queued, .ready, .dispatching, .running].all (fun st => fromOwner (tagged st) (msg 6 (at_ 768 64 77)) 6
      && ((queueOf (tagged st) 0 0).find? (fun p => pkTag p.2.pkt = 77)).map (·.1) = some 0)
    && ((queueOf m 0 0).find? (fun p => pkTag p.2.pkt = 77)).isNone
    && [10, 11].all (fun op => [0, 3].all (fun sz => fromOwner m (mrMsg op 0x2000 sz) op
      && (match memCheck m (mrMsg op 0x2000 sz) (if op = 10 then .hostRead else .hostWrite) with
        | .ok x => !lineMoving m (lineOf x.pa) && !bandHeld m (x.pa / 64) && x.pa % memSize (mrMsg op 0x2000 sz) = 0
          && !pteLyrec x.pte && !engBlocked m (inbEng 0) (xlatFill m 0 0 [x]) [lineOf x.pa] (op = 11)
          && roomFor m 0 (xlatFill m 0 0 [x]) [lineOf x.pa]
        | .error _ => false))
      && [0, 1].all (fun v => fromOwner m (recordMsg v) 11 && memSize (recordMsg v) = 8
        && (match memCheck m (recordMsg v) .hostWrite with
          | .ok x => pteLyrec x.pte && x.pa = 64 * bk && !lineMoving m (lineOf x.pa)
            && !engBlocked m (inbEng 0) (xlatFill m 0 0 [x]) [lineOf x.pa] true
            && roomFor m 0 (xlatFill m 0 0 [x]) [lineOf x.pa]
          | .error _ => false))
      && (memCheck m (mrMsg op 0x2004 0) .hostRead).toOption.isNone && fromOwner m (mrMsg op 0x2004 0) op)) = true := by
  decide +kernel

-- 13 R361: a host that changes ORDER and leaves VERSION has it counted up; one that writes VERSION has its own
theorem test_record_writes :
    ([(0, 1), (7, 7)].all (fun p => after (.memWr (recordMsg p.1)) m (fun t =>
      (bandAt t bk).order = 1 && (bandAt t bk).version = BitVec.ofNat 32 p.2))) = true := by decide +kernel

/-- A message of management to a register; the node is the one that management has. -/
def mgmtMsg (op off : Nat) (w : Word) : HostMsg :=
  { src := Config.mgmtNode, bits := at_ 768 0 op ||| at_ 768 16 off ||| at_ 768 28 1 ||| at_ 768 32 w.toNat }
/-- What `FromManagement` asks beside the source. -/
def toMgmt (op off : Nat) (w : Word) : Bool :=
  msgOp (mgmtMsg op off w) = op && (mgmtMsg op off w).bits.getLsbD 28 && rsvOk (mgmtMsg op off w)
  && msgOff (mgmtMsg op off w) = off && (op = 7 || msgData (mgmtMsg op off w) = w)
def viMsg (off : Nat) (w : Word) : HostMsg := msg 8 (at_ 768 16 off ||| at_ 768 32 w.toNat)
def toVi (s : State) (off : Nat) (w : Word) : Bool :=
  fromOwner s (viMsg off w) 8 && !(viMsg off w).bits.getLsbD 28 && msgOff (viMsg off w) = off && msgData (viMsg off w) = w

/-- A register read of the owner of VI 0. -/
def viReadMsg (off : Nat) : HostMsg := msg 7 (at_ 768 16 off)
def readsVi (s : State) (off : Nat) : Bool :=
  fromOwner s (viReadMsg off) 7 && !(viReadMsg off).bits.getLsbD 28 && msgOff (viReadMsg off) = off

/-- The halt window selects the halted context, or one to which RESUME has come, with an index; or none. -/
def windowIn (st : Status) (hsel x : Word) : State :=
  { withCtx (fun c => { c with status := st }) m with vis := [(0, { vi with hsel := hsel, hidx := x })] }
def windowOn (x : Word) : State := windowIn (.halted info0) (ctxidOf 0 ctx0) x

theorem witness_reads_of_vis :
    ([(0x100, true), (0x108, true), (0x11C, false)].all (fun p => readsVi m p.1 && (viRead m 0 p.1).isSome = p.2)
    && readsVi m 0x128 && [0, 15].all (fun k => readsVi m (0x140 + 4 * k)) && readsVi m 0x104
    && [Status.halted info0, .resuming info0].all (fun st => let s := windowIn st (ctxidOf 0 ctx0) 0x104
      (ctxNamed s (viOf s 0).hsel).map (·.1) = some 0 && viOfCtx s 0 = 0)
    && (ctxNamed (windowIn (.halted info0) 0xFFFFFFFF 0) 0xFFFFFFFF).isNone
    && [(0x00000003, 0), (0x003F00FF, 0), (0x104, 1), (0x17F, 1), (0x203, 2), (0x0100020F, 2), (0x400, 4), (0x500, 5),
      (0x501, 5)].all (fun p => let s := windowOn (BitVec.ofNat 32 p.1)
        readsVi s 0x10C && (served s 0).map (·.1) = some 0 && hxValid s 0 (BitVec.ofNat 32 p.1)
        && hxKind (BitVec.ofNat 32 p.1) = p.2)
    && (aget (windowOn 0).frames 0).isSome && [0x110, 0x114].all (fun off => readsVi (windowOn 0) off)
    && [0x10C, 0x110, 0x114].all (fun off => readsVi m off) && (served m 0).isNone) = true := by decide +kernel

/-- The data and the REFUSED bit of the answer to a register read. -/
def reads (s : State) (off : Nat) (refused : Bool) (w : Word) : Bool :=
  after (.regWr (viReadMsg off)) s (fun t => t.outbox.any (fun o =>
    o.bits.getLsbD 16 = refused && o.bits.extractLsb' 32 32 = w && o.node = 9))

-- 18 R418, R419, Tables 18-6 to 18-8: HSTAT VALID, g4 and HPCLO of the halted context; HDATA with none selected
theorem test_halt_window :
    (reads (windowOn 0x104) 0x104 false 1 && reads (windowOn 0x104) 0x10C false 0x2000 && reads (windowOn 0) 0x110 false 0
    && reads m 0x10C true 0) = true := by decide +kernel

theorem witness_register_messages_of_vis :
    (toMgmt 7 0x014 0 && toMgmt 7 0xFFC 0 && (mgmtRead m 0xFFC).isNone && toVi m 0x100 5 && [0, 15].all (fun k => toVi m (0x140 + 4 * k) 0x80000007
      && toVi m (0x140 + 4 * k) 0xC0000007)
    && (served m 0).isNone && toVi m 0x10C 5
    && [0x104, 0x17F].all (fun x => (served (windowOn x) 0).map (·.1) = some 0 && hxValid (windowOn x) 0 x && hxKind x = 1)
    && [0x00000003, 0x000100FF, 0x003F0003].all (fun x => hxValid (windowOn x) 0 x && hxKind x = 0)
    && ctx0.live.getLsbD (hxLane 0x00010003) && !ctx0.live.getLsbD (hxLane 0x003F0003)
    && [0x110, 0x114].all (fun off => [4, 5].all (fun w => toVi (windowOn 0) off w))
    && [1, 2].all (fun w => toVi m 0x128 w && !(viOf m 0).ticBusy)
    && (viOf { m with vis := [(0, { vi with ticBusy := true })] } 0).ticBusy) = true := by decide +kernel

/-- VI 0 disabled; a slot table with a free slot, four Junction slots and none above 4; two gangs of 200 and 1000 µs. -/
def disabled : State := { State.reset with vis := [(0, { vi with en := false })] }
def noWays : State := { State.reset with vis := [(0, { vi with en := false, desc := 9 })] }
def slotCode (s : State) (i : Nat) : BitVec 3 := (agetD s.mgmt.slotShadow 0 (i / 8)).extractLsb' (3 * (i % 8)) 3
def badSlots (w : Word) : State := { m with mgmt := { m.mgmt with slotShadow := [(0, w)] } }
def gangTable (us : Nat) : State :=
  { m with mgmt := { m.mgmt with gsShadow := [(0, 0x000C8000), (1, BitVec.ofNat 32 (4096 * us + 1))], gscount := 2, savesize := 2 } }
def sliceUs (s : State) (k : Nat) : Nat := ((agetD s.mgmt.gsShadow 0 k).extractLsb' 12 20).toNat

/-- An enabled VI without launches, with a transfer that runs. -/
def closing : State := { m with launches := [], cohorts := [], ctxs := [], xfers := [(3, { xfer0 with st := 2 })] }

theorem witness_register_messages_of_management :
    (toMgmt 8 0x014 0x301 && toMgmt 8 0x014 0 && [0, 1, 2, 3].all (fun p => descWays (viOf disabled 0).desc p ≠ 0)
    && descWays (viOf noWays 0).desc 0 = 0 && disabled.launches = [] && disabled.mgmt.visel = 0 && (viOf m 0).en && m.xfers = []
    && arising m.launches && viRuns m 0 && !viRuns closing 0 && (closesWait closing 0).isNone && (viOf closing 0).en
    && toMgmt 8 0x01C 5 && !descBad 0 5 && toMgmt 8 0x028 1
    && (List.range 64).all (fun i => (slotCode m i).toNat ≤ 4) && 4 ≤ ((List.range 64).filter (fun i => slotCode m i = 4)).length
    && (List.range 64).any (fun i => slotCode m i = 0) && (List.range 64).any (fun i => 4 < (slotCode (badSlots 7) i).toNat)
    && ((List.range 64).filter (fun i => slotCode (badSlots 0) i = 4)).length < 4
    && { m with slotPend := some [] }.slotPend = some [] && toMgmt 8 0x044 1
    && [200, 1000000].all (fun us => [0, 1].all (fun k => 200 ≤ sliceUs (gangTable us) k && sliceUs (gangTable us) k ≤ 1000000
      && (agetD (gangTable us).mgmt.gsShadow 0 k).extractLsb' 4 8 = 0))
    && sliceUs (gangTable 200) 1 = 200 && (gangTable 200).mgmt.gscount = 2 && (gangTable 200).mgmt.savesize = 2
    && [0].all (fun k => sliceUs { m with mgmt := { m.mgmt with gsShadow := [(0, 0x000C7000)], gscount := 1, savesize := 1 } } k < 200))
    = true := by decide +kernel

/-- Ports that management has set: a long-haul one that is up, four long-haul ones and one that is not. -/
def fourLong : State :=
  { m with ports := [(0, { Port.reset with up := true, longHaul := true })]
      ++ [1, 2, 3, 5].map (fun n => (n, { Port.reset with longHaul := true })) }
def selecting (n : Nat) : State := { fourLong with mgmt := { m.mgmt with portsel := BitVec.ofNat 32 n } }

theorem witness_plain_management_writes :
    ([0x004, 0x010, 0x018, 0x020, 0x024, 0x030, 0x034, 0x038, 0x03C, 0x040, 0x060, 0x070, 0x084, 0x088, 0x08C, 0x090, 0x0A0, 0x0A8,
      0x0B8, 0x000, 0x008, 0x064, 0x068, 0x074, 0x07C, 0x0A4, 0x0BC].all (fun off => toMgmt 8 off 0xFFFFFFFF)
    && toMgmt 8 0x094 0 && toMgmt 8 0x094 1 && (portOf (selecting 0) 0).up && !(portOf (selecting 4) 4).up
    && 4 ≤ ((selecting 4).ports.filter (fun q => q.1 ≠ 4 && q.2.longHaul)).length
    && !(portOf (selecting 5) 5).up && toMgmt 8 0xFFC 1 && (mgmtRead m 0xFFC).isNone) = true := by decide +kernel

-- 23 Table 23-1: VISEL keeps 8 bits; a read-only register keeps its value; 20 R449: four long-haul ports, not five
theorem test_plain_management_writes :
    ((mgmtWrite m 0x010 0xFFFFFF12).any (fun t => t.mgmt.visel = 0x12)
    && (mgmtWrite m 0x008 5).any (fun t => mgmtRead t 0x008 = mgmtRead m 0x008)
    && (mgmtWrite (selecting 4) 0x094 1).isNone && (mgmtWrite (selecting 4) 0x094 0).isSome) = true := by decide +kernel

/-! ## Witnesses: gangs (04) -/

/-- Two gangs of 200 and 300 µs; the cohort's VI belongs to gang 0. -/
def twoGangs : Schedule := { entries := [(0, 200), (1, 300)], t0 := 0 }
def regioned : State := withCtx (fun c => { c with region := some region0 }) { m with sched := twoGangs }
def atGang (ptp : Nat) : State := { regioned with ptp := ptp }
def gangAt (s : State) : Nat := (s.sched.entries.getD (instantAfter s.sched s.ptp).2 (0, 0)).1
def saving0 : State := { m with cohorts := [(0, { cohort0 with saving := true })], switching := some 1 }
def savingBusy : State := { saving0 with ctxs := [(0, { ctx0 with drain := [.store (.scratch [(0, 1)])] })] }
/-- Its committed stores go to memory. -/
def savingStores : State := { saving0 with ctxs := [(0, { ctx0 with drain := [.store (.mem word0 [])] })] }
/-- A transfer of the other gang has a leg in flight. -/
def legFlying : State := { m with switching := some 1, xfers := [(3, { xfer0 with st := 2, legs := [leg0], flying := [0] })] }
def restoring : State :=
  { m with runGang := 1, switching := some 0, cohorts := [(0, { cohort0 with saved := true })], frames := [], ctxs := [] }

theorem witness_gangs_take_turns :
    (gangAt (atGang 0) = 1 && (atGang 0).runGang ≠ 1 && gangAt (atGang 200000) = 0 && (atGang 200000).runGang = 0
    && regioned.switching.isNone && regioned.cohorts.all (fun p => !p.2.saved
      && (match aget regioned.launches p.2.launch with | some la => (viOf regioned la.vi).gangNew.isNone | none => false))
    && [{ twoGangs with t0 := 1 }].all (fun c => (instantAfter c 0).1 ≤ (instantAfter twoGangs 0).1)
    && regioned.pendScheds = []
    && [({ twoGangs with t0 := 300 } : Schedule), { twoGangs with t0 := 500 }].all (fun d =>
      (instantAfter { twoGangs with t0 := 1 } 0).1 ≤ (instantAfter d 0).1) = true
    && !saveWaits saving0 0 && saveWaits savingBusy 0 && !saveWaits savingStores 0 && arising saving0.ctxs && arising saving0.frames
    && legsLeft legFlying 1 && legFlying.cohorts.all (fun p => !p.2.saving)
    && aget saving0.frames (savedKey 0 0) = none && aget saving0.ctxs (savedKey 0 0) = none
    && saving0.cohorts.any (fun p => p.2.saving) && restoring.xfers = []
    && (let s1 := { restoring with runGang := 0, switching := none }
      (toRestore s1).map (·.1) = [0] && (coreFor s1 (packetOf restoring { cohort0 with saved := true })).isSome)
    && toRestore { m with switching := none } = [] && !m.syncLoss) = true := by decide +kernel

/-! ## Witnesses: copies (10) -/

/-- m with job 4 for its context. -/
def copying (f : Job → Job) : State := { withCtx (fun c => { c with nCp := 1 }) m with jobs := [(4, f job0)] }
def delivering : State :=
  copying (fun j => { j with multi := true, left := [], inflight := [(1, 16, [1, 2])], dests := [(1, 0, 0)] })
def staleDest : State :=
  copying (fun j => { j with multi := true, left := [], inflight := [(1, 16, [1, 2])], dests := [(1, 0, 99)] })

/-- Position 1 has its payload, position 2 has not. -/
def delivered : State :=
  copying (fun j => { j with multi := true, left := [], inflight := [(2, 16, [1])], dests := [(1, 0, 0), (2, 0, 0)] })

theorem witness_copies_move_their_bytes :
    (canGet (copying id) (jobEng job0) .copyIn (job0.addr + 16) 16 && job0.left.contains 1
    && canPut (copying (fun j => { j with kind := .linOut })) (jobEng job0) .copyOut (job0.addr + 16) 16
    && !scratchLock (copying id) job0.owners 0 (job0.so + 16) 16 && !scratchLock delivering [] 0 16 2
    && !scratchLock delivered [] 0 64 4 && !scratchLock (copying id) job0.owners 0 64 4
    && (engRead (copying id) (jobEng job0) .copyIn (0x7000000000 + 16) 16).toOption.isNone
    && (match aget (copying id).ctxs 0 with | some c => c.status = .running && c.fault.isNone && c.region.isNone | none => false)
    && [delivering, staleDest].all (fun s => (match aget s.jobs 4 with
      | some j => (j.inflight.find? (fun d => d.1 = 1)).isSome && (j.dests.find? (fun d => d.1 = 1)).isSome && j.stale = []
      | none => false))
    && destOf delivering 0 0 = some 0 && (destOf staleDest 0 99).isNone
    && (match aget delivered.jobs 4 with
      | some j => j.left = [] && j.inflight.all (fun d => d.1 ≠ 1) && j.inflight ≠ [] && j.cw.isSome && j.cwDone = []
      | none => false)
    && !isDz { job0 with left := [] } && (aget (copying id).groups 0).isSome) = true := by decide +kernel

-- 15 R372: position 1 has its completion word (1 at byte 64) while the delivery to position 2 has not arrived; 05 R123
theorem test_multicasts :
    (after (.multicastDelivery 4 1) delivered (fun t => (aget t.cohorts 0).any (fun co => agetD co.sp 0 64 = 1)
      && (aget t.jobs 4).any (fun j => j.cwDone = [1] && j.inflight ≠ []))
    && after (.multicastBoundExpiry 4) delivering (fun t => (aget t.ctxs 0).any (fun c => c.fault.any (fun f =>
      f.cause = 0x15 && f.sub = 5)))) = true := by decide +kernel

/-- Box copies of 4 x 1 elements of the region of `hrec`; accumulator copies of two rows, of which row 1 is poisoned. -/
def boxJob (k : JobKind) : Job := { job0 with kind := k, hrec := hrec, cols := 4, rows := 1, left := [0, 3] }
def boxing (k : JobKind) : State := copying (fun _ => boxJob k)
def accJob (k : JobKind) (cvt : Nat) : Job := { job0 with kind := k, cvt := cvt, ovt := 0x00155555 }
def accCopying (k : JobKind) (cvt : Nat) : State :=
  { copying (fun _ => accJob k cvt) with
    mem := tables, cohorts := [(0, { cohort0 with acc := [(63, 0x3F800000)], accPoison := [(64, true)] })] }

theorem witness_boxes_and_rows_move :
    ([0, 3].all (fun u => [(JobKind.boxIn, false), (.boxOut, true)].all (fun p =>
      let j := boxJob p.1
      let s := boxing p.1
      match spotOf s 0 0 hrec (if p.2 then .tensorStore else .tensorLoad) (if p.2 then 12 else 11)
          (recOrigin hrec 0 + j.c0 + u % 4) (recOrigin hrec 1 + j.c1 + u / 4) (recOrigin hrec 2 + j.c2) with
      | .place b _ dx _ _ ver => !bandBusy s b && !isStale s b ver && !isPoisoned s (lineOf dx.pa)
          && !engBlocked s (jobEng j) (xlatFill s 0 0 [dx]) [lineOf dx.pa] p.2
          && roomFor s 0 (xlatFill s 0 0 [dx]) [lineOf dx.pa] && !scratchLock s [0] 0 (j.so + 4 * u) 4
      | .bad .. => false))
    && [JobKind.accOutSp, .accOutMem].all (fun k => (aget (accCopying k 0).cohorts 0).any (fun co =>
      !rowPoisoned co 0 && rowPoisoned co 1))
    && [0, 1, 2].all (fun cvt => canPut (accCopying .accOutMem cvt) (jobEng (accJob .accOutMem cvt)) .copyOut job0.addr
      (accRowBytes cvt))
    && canGet (accCopying .accInMem 0) (jobEng (accJob .accInMem 0)) .copyIn (job0.addr + 256) 256
    && !scratchLock (accCopying .accInSp 0) [0] 0 (job0.so + 256) 256
    && (aget (accCopying .accInSp 0).ctxs 0).any (fun c => c.status = .running && c.fault.isNone)) = true := by decide +kernel

-- 10 R302: row 0 leaves in BF16, its last word 1.0; R301, 11 R339: row 1 fails its job, subcause 6; an inward row is clean again
theorem test_accumulator_copies :
    (after (.copyUnitTransfer 4 0) (accCopying .accOutMem 1) (fun t => readNat t (0x2000 + 126) 2 = 0x3F80)
    && after (.copyUnitTransfer 4 1) (accCopying .accOutSp 0) (fun t => (aget t.ctxs 0).any (fun c => c.fault.any (fun f =>
      f.cause = 0x15 && f.sub = 6)))
    && after (.copyUnitTransfer 4 1) (accCopying .accInMem 0) (fun t => (aget t.cohorts 0).any (fun co =>
      !rowPoisoned co 1))) = true := by decide +kernel

/-- A DZ job for 8 bytes of output: its card at 0x2000, its stream of n bytes at 0x2100, its output at 0x2200. -/
def dzCard0 (n fmt : Nat) : BitVec 512 := at_ 512 0 fmt ||| at_ 512 160 n ||| at_ 512 192 0x2100 ||| at_ 512 256 0x2200
def dzJob (k : JobKind) (d : Option DzState) : Job := { job0 with kind := k, len := 8, left := [], dz := d }
def dzState (n pos : Nat) (out : List Byte) : DzState := { card := dzCard0 n 1, pos := pos, out := out, status := none, todo := [] }
def decoding (k : JobKind) (d : Option DzState) (stream : Nat) : State :=
  withMem 0x2100 4 stream (withMem 0x2000 64 (dzCard0 4 1).toNat (copying (fun _ => dzJob k d)))
/-- Token, bytes that the stream has, output so far: a literal run cut off where it passes OUTLEN, a literal run of two whole, cut off, too long; a match whole, cut off,
with offsets 0 and 3, too long. -/
def tokens : List (Nat × Nat × List Byte) :=
  [(0x0B0A01, 2, List.replicate 7 1), (0x0B0A01, 3, []), (0x0B0A01, 2, []), (0x0B0A01, 3, List.replicate 7 1), (0x000280, 3, [1, 2]), (0x000280, 2, [1, 2]),
   (0x000080, 3, [1, 2]), (0x000380, 3, [1, 2]), (0x000180, 3, List.replicate 8 1)]

theorem witness_streams_decode :
    ([1, 2].all (fun fmt => let s := withMem 0x2000 64 (dzCard0 4 fmt).toNat (decoding .dzMem none 0)
      canGet s (jobEng (dzJob .dzMem none)) .scale 0x2000 64)
    && isDz (dzJob .dzMem none) && isDz (dzJob .dzSp none)
    && tokens.all (fun p =>
      let s := decoding .dzMem (some (dzState p.2.1 0 p.2.2)) p.1
      canGet s (jobEng (dzJob .dzMem none)) .scale 0x2100 1 && canGet s (jobEng (dzJob .dzMem none)) .scale 0x2100 p.2.1)
    && canPut (decoding .dzMem none 0) (jobEng (dzJob .dzMem none)) .copyOut 0x2200 4
    && !scratchLock (decoding .dzSp none 0) [0] 0 16 4 && !scratchLock (decoding .dzMem none 0) [0] 0 64 4
    && (let s := decoding .dzMem (some { dzState 0 0 (List.replicate 8 1) with status := some 0 }) 0
      canPut (setOwned s 4 (dzJob .dzMem none) []) (jobEng (dzJob .dzMem none)) .copyOut 0x2028 8)) = true := by decide +kernel

/-- The output and the status to which a token comes. -/
def decodesTo (p : Nat × Nat × List Byte) (out : List Byte) (status : Option Nat) : Bool :=
  let d := some (dzState p.2.1 0 p.2.2)
  match dzUnit (decoding .dzMem d p.1) 4 (dzJob .dzMem d) 0 with
  | .done t => ((aget t.jobs 4).bind (·.dz)).any (fun d => d.out = out && d.status = status)
  | _ => false

-- 10 R314, Table 10-8; the first: the bytes there before the stream ends pass OUTLEN
theorem test_dz_tokens :
    ((tokens.zip [(List.replicate 7 1 ++ [10], some 2), ([10, 11], none), ([], some 3), (List.replicate 7 1 ++ [10], some 2), ([1, 2, 1, 2, 1], none), ([1, 2], some 3),
      ([1, 2], some 1), ([1, 2], some 1), (List.replicate 8 1, some 2)]).all (fun p => decodesTo p.1 p.2.1 p.2.2)) = true := by
  decide +kernel

/-! ## Witnesses: bands and transfers (13; 20) -/

/-- The monitor of the band of the region of `hrec`, settled by its fields. -/
def band0 : Band := { bandOfRecord m bk 0 with geom := hrec }
def banded (f : Band → Band) : State := { m with bands := [(bk, f band0)] }
def bandReady (s : State) : Bool :=
  (bandAt s bk).st < 4 && (bandAt s bk).flips < 4 && (recordHeld s 0 bk hrec 0).isNone
  && roomFor s (bandDie bk) (fun _ => recordFill s 0 bk hrec 0) [lineOf (64 * bk)]

/-- Epochs that end: with nothing to do, with a better order, with a return to the last order, with that and no flips left. -/
def better : Amap Nat := [(0, 1000), (1, 1), (2, 2000)]
def due (f : Band → Band) : State := banded (fun b => f { b with epochDue := true })
def decided (s : State) : Decision := decisionOf { bandAt s bk with hyst := rrField (readRecord s bk) 64 16 } (bandAt s bk).geom
def job1 (o : BitVec 4) (pin : Bool) : MoveJob :=
  { order := o, target := if pin then 3 else 0, pin := pin, geom := hrec, vi := 0, bandIx := 0, ctxs := [], lines := [], flag := false }
/-- Eight bands of die 0 move. -/
def busyPavers (s : State) : State :=
  { s with bands := (List.range 8).map (fun k => (18 * k, { band0 with st := 1 })) ++ s.bands }
/-- A band whose tensor lies where no page is. -/
def farJob : MoveJob := { job1 1 true with geom := hrec ||| at_ 1024 384 0x7000000000 }
def moveLines : List Nat := (bandLinesOf (banded id) bk (job1 1 false)).getD []
def moving : State := banded (fun b => { b with st := 1, move := some { job1 1 false with lines := moveLines } })
def waitingPin (o : BitVec 4) : Band → Band := fun b => { b with pinWait := some (job1 o true) }
def queued (kind : Nat) (x : Word) : State := banded (fun b => { b with queue := [op0 kind x] })

theorem witness_bands_move :
    ([due id, due (fun b => { b with sums := better }),
      due (fun b => { b with sums := better, prev := 8, flag := true, flips := 3 }),
      banded (fun b => { b with windowDue := true }), banded (waitingPin 1), banded (waitingPin 0), moving,
      queued 0 16, queued 0 1, queued 1 0, queued 2 0x00010001, busyPavers (queued 0 1),
      busyPavers (due (fun b => { b with sums := better })), busyPavers (banded (waitingPin 1))].all bandReady
    && decided (due id) = .nothing && decided (due (fun b => { b with sums := better })) = .move 8 0 false
    && decided (due (fun b => { b with sums := better, prev := 8, flag := true, flips := 3 })) = .settle
    && moveAllowed (due id) bk (job1 8 false) && !enginesBusy (due id) bk
    && enginesBusy (busyPavers (due (fun b => { b with sums := better }))) bk
    && enginesBusy (busyPavers (banded id)) bk && moveAllowed (banded id) bk (pinMove (op0 0 1))
    && !moveAllowed (banded id) bk farJob
    && [(1, false, false), (0, true, false), (0, false, true)].all (fun p => let s := banded (fun b =>
        { waitingPin 1 b with st := p.1, epochDue := p.2.1, windowDue := p.2.2 })
      (bandAt s bk).pinWait = some (job1 1 true))
    && (bandAt (due (fun b => { b with windowDue := true })) bk).windowDue
    && moveLines.all (fun l => engineOwner moving l = none && !inService moving l && !moveLock moving bk l)
    && moveLines.any (isPoisoned { moving with poison := moveLines }) && bandReady { moving with poison := moveLines }
    && moveLines.all (fun l => !isPoisoned moving l) && holders moving none moveLines = [] && !moveLines.contains (lineOf (64 * bk)) && moving.memoryWf && moveLines ≠ []
    && [queued 0 16, queued 1 0, queued 2 0, busyPavers (queued 0 1)].all (fun s => !layoutWaits (bandAt s bk))) = true := by
  decide +kernel

-- 13 R351, R352: a line that is poisoned before the install ends the move, and the band stays as it is
theorem test_poisoned_moves :
    after (.paverMoveInstall bk) { moving with poison := moveLines } (fun t =>
      (bandAt t bk).st = 0 && (bandAt t bk).move = none && (bandAt t bk).version = (bandAt moving bk).version) = true := by
  decide +kernel

-- 13 R351, Table 13-8: while a pin waits for an engine, a move of the monitor leaves it waiting
theorem test_waiting_pins :
    after (.epochEnd bk) (due (fun b => { waitingPin 1 b with sums := better })) (fun t =>
      (bandAt t bk).st = 1 && (bandAt t bk).pinWait = some (job1 1 true)) = true := by decide +kernel

/-- m with the mesh descriptor of one rank at 0x4000 (node 5, record 0x1000), and the transfer. -/
def withXfer (x : Xfer) : State :=
  { m with
    xfers := [(3, x)]
    mem := [(0x1000, 0x10), (0x1008, 0x20), (0x100C, 0x04), (0x1010, 0x01), (0x1014, 0x20), (0x1016, 0x04), (0x1018, 0x20),
      (0x101C, 0x04), (0x1020, 0x01), (0x1033, 0x40), (0x103B, 0x80),
      (0x4000, 0x01), (0x4004, 0x01), (0x4006, 0x01), (0x4040, 0x05), (0x4049, 0x10),
      (0x10000, 0x01), (0x10001, 0x10), (0x10002, 0x01), (0x11000, 0x2F), (0x11008, 0x27), (0x1100B, 0x40), (0x1100F, 0x10),
      (0x11010, 0x27), (0x11013, 0x80), (0x11017, 0x20)] }
def planning (f : Xfer → Xfer) : State := withXfer (f xfer0)
/-- A leg of 4 columns. -/
def legS : Leg := { leg0 with ext0 := 4 }
def runningX : Xfer :=
  { xfer0 with st := 2, legs := [legS], srcRec := hrec, dstRec := hrec, srank := some 0, drank := some 0, flying := [0] }
def running (f : Xfer → Xfer) : State := withXfer (f runningX)
def pull0 (got : List Byte) : PullReq :=
  { port := none, srcNode := 5, srcVi := 0, dstVi := 0, xid := 99, leg := 0, tag := 3, got := got }
/-- The same; Junction has read its plan's two lines already. -/
def planned (x : Xfer) : State :=
  { withXfer x with
    sf := [(32, { st := 2, owner := 0, sharers := 1, age := 1 }), (128, { st := 2, owner := 0, sharers := 1, age := 0 })]
    l2 := [128, 32].foldl (fun l n => aput l (l2Key n 0) { st := .e, agents := 0x40000000000, set := n, way := 0, rank := 1 }) [] }

theorem witness_headers_are_written :
    ([none, some 9].all (fun k => let x := { xfer0 with hdr := false, clear := k }
      (recordWaits { withXfer x with mem := tables } x).isNone
      && (msWaits { withXfer x with mem := tables } x 256 (legBytes (k.getD 0))).isNone)) = true := by decide +kernel

theorem witness_planned_lines : planLines (planned xfer0) xfer0 = [128, 32] := by decide +kernel

theorem witness_plans_take_their_lines :
    (let t := engTake (planned xfer0) (jnEng xfer0) (planFill (planned xfer0) xfer0) [128, 32]
    t.sf = (planned xfer0).sf && (t.l2.map (fun p => (p.1, p.2.st, p.2.agents))) = [(256, .e, 0x40000000000), (1024, .e, 0x40000000000)]
    && t.mem = (planned xfer0).mem) = true := by decide +kernel

/-- The same transfer, of a `jnlaunch`. -/
def fresh0 : Xfer := { xfer0 with clear := some 0 }

theorem witness_fresh_lines : planLines (planned fresh0) fresh0 = [128, 32] := by decide +kernel

theorem witness_fresh_lines_are_free :
    engBlocked (planned fresh0) (jnEng fresh0) (planFill (planned fresh0) fresh0) [128, 32] false = false := by decide +kernel

theorem witness_fresh_record_is_free :
    (match derive_ (planned fresh0) 3 fresh0 with
    | .ok x' => msWaits (planned fresh0) fresh0 256 (if fresh0.clear.isNone then 0 else legBytes x'.legs.length)
    | .error _ => none) = none := by decide +kernel

theorem planWaits_of_lines {s : State} {n : Nat} {x : Xfer} {ls : List Nat} (hl : planLines s x = ls)
    (hb : engBlocked s (jnEng x) (planFill s x) ls false = false)
    (hd : (match derive_ s n x with
      | .ok x' => msWaits s x 256 (if x.clear.isNone then 0 else legBytes x'.legs.length)
      | .error _ => none) = none) : planWaits s n x = none := by
  subst hl
  unfold planWaits
  simp only [hb, Bool.false_eq_true, if_false]
  exact hd

theorem witness_plans_wait_for_nothing : planWaits (planned fresh0) 3 fresh0 = none :=
  planWaits_of_lines witness_fresh_lines witness_fresh_lines_are_free witness_fresh_record_is_free

theorem witness_transfers_run_plans :
    (match derive_ (planned xfer0) 3 xfer0 with
    | .ok x' => x'.legs = [leg0] && incoming x' = [0] && xfer0.flying = [] && markedNow (planned xfer0) x' = some []
    | .error _ => false) = true := by decide +kernel

theorem witness_invalid_plans :
    ((match derive_ (planned xfer0) 3 { xfer0 with card := 0 } with | .ok _ => false | .error _ => true)
    && markedNow (planned xfer0) { xfer0 with ms := 0x7000000000, legs := [leg0] } = none) = true := by decide +kernel

/-- Band bk holds an order that is illegal for its region. -/
def illegalBand : State := withMem 0x80000000 1 15 (running id)
def poisonedBand : State := { running id with poison := moveLines }
def rowAt (s : State) (org : Nat × Nat × Nat) (acc : Access) (r : Nat) : List (Nat × Spot) :=
  rowSpots s (jnEng runningX) hrec legS org acc r
/-- No port carries the pull. -/
def farPull : PullReq := { pull0 [] with port := some 0 }

theorem witness_transfers_run_pulls :
    (!portCarries m farPull.port && portCarries m (pull0 []).port && !takesFrom (running id) 0 4 0 && takesFrom (running id) 0 5 0
    && ((running (fun x => { x with st := 0 })).xfers.find? (fun q => q.2.vi = 0 && tcXid q.2.card = 99 && q.2.st ≠ 0)).isNone
    && ((running id).xfers.find? (fun q => q.2.vi = 0 && tcXid q.2.card = 99 && q.2.st ≠ 0)).isSome
    && gangServes (running id) 0 && !gangServes { running id with runGang := 1 } 0
    && gangServes { running id with switching := some 1, leaving := [0] } 0
    && !gangServes { running id with switching := some 1 } 0 && rowBytes hrec legS = 16
    && [0, 3].all (fun r => (rowReady (running id) (jnEng runningX) (rowAt (running id) legS.sOrg .tensorLoad r) false).isNone
      && !rowIllegal (running id) (jnEng runningX) hrec legS r (rowAt (running id) legS.sOrg .tensorLoad r)
      && (placedRow (rowAt (running id) legS.sOrg .tensorLoad r)).length = 4
      && (rowLines (rowAt (running id) legS.sOrg .tensorLoad r)).all (fun n => !isPoisoned (running id) n)
      && rowScales hrec legS legS.sOrg r = [])
    && rowIllegal illegalBand (jnEng runningX) hrec legS 0 (rowAt illegalBand legS.sOrg .tensorLoad 0)
    && (rowReady poisonedBand (jnEng runningX) (rowAt poisonedBand legS.sOrg .tensorLoad 0) false).isNone
    && (rowLines (rowAt poisonedBand legS.sOrg .tensorLoad 0)).any (isPoisoned poisonedBand)) = true := by decide +kernel

theorem witness_transfers_run_legs :
    ((legWaits (running id) runningX 0).isNone && (recordWaits (running id) runningX).isNone && runningX.flying.contains 0
    && 1 % rowBytes hrec legS ≠ 0 && legS.ext1 < (5 * 16) / rowBytes hrec legS
    && [0, 3].all (fun r => (match writeRow (running id) (jnEng runningX) hrec legS r (List.replicate 16 1)
        (fun s ls => .done (setLegOwned s 3 0 (ownedNext (legOwned runningX 0) ls (scalesAfter hrec legS r).contains))) with
      | .done _ => true
      | _ => false)
      && (rowReady (running id) (jnEng runningX) (rowAt (running id) legS.dOrg .tensorStore r) true).isNone
      && roomFor (running id) 0 (rowFill (running id) (jnEng runningX) (rowAt (running id) legS.dOrg .tensorStore r))
        (rowLines (rowAt (running id) legS.dOrg .tensorStore r)))
    && !recScales hrec && recFormat hrec ≠ 4 && gangRuns (running id) 0 && !gangRuns { running id with switching := some 1 } 0
    && (aget (running (fun x => { x with st := 4 })).xfers 3).map (·.st) = some 4) = true := by decide +kernel

-- 20 R464: an order that is illegal refuses a pull with 7, poison with 6; 04 R102: a served leg goes on at a switch
theorem test_pulls :
    (after (.junctionPullServe (pull0 [])) illegalBand (fun t => t.agenda = [.junctionPullRefusal 3 0 7])
    && after (.junctionPullServe (pull0 [])) poisonedBand (fun t => t.agenda = [.junctionPullRefusal 3 0 6])
    && after (.junctionPullServe (pull0 [])) { running id with switching := some 1, leaving := [0] } (fun t => t.agenda.any (fun i => match i with
      | .junctionPullServe p => p.got.length = 16
      | _ => false))) = true := by decide +kernel

/-! ## Witnesses: coherence messages (16) -/

/-- Line 64 at its home: held by dies in given states. -/
def filtered (st owner : Nat) (sharers : BitVec 8) (l2 : Amap L2Line) : State :=
  { m with sf := [(64, { st := st, owner := owner, sharers := sharers, age := 0 })], l2 := l2 }
def inL2 (st : L2State) : L2Line := { st := st, agents := 1, set := 0, way := 0, rank := 1 }
def anyWay : Fill := { ways := 0xFFFFFFFF, rank := 1, l1 := true }
def askOf (die : Nat) (getm : Bool) : Txn :=
  { cur := .get die getm anyWay, room := false, acks := [], data := false, queue := [] }
def inTxn (x : Txn) (s : State) : State := { s with txns := [(64, x)] }
/-- Sixteen entries of the set of line 64. -/
def fullSet : State :=
  { m with sf := (List.range 16).map (fun k => (64 + 65536 * (8 * k + 8), { st := 1, owner := 0, sharers := 1, age := k })) }
/-- An engine of die 0 owns the line; the slice of line 64 of die 1 is being gated. -/
def engOwned (line : Nat) (s : State) : State := { s with engOwn := [(0, 36, line)] }
def gated1 : State := { m with l2gPend := [(1, 1)] }

theorem witness_requests_are_served :
    ([1, 7].all (fun d => isPlace d 64) && (aget (inTxn (askOf 2 true) m).txns 64).any (fun x => !isAsked x 1 true && isAsked x 2 false)
    && (aget m.txns 64).isNone && needsNothing (filtered 2 1 2 [(l2Key 64 1, inL2 .m)]) 1 64 true
    && [true, false].all (fun g => !needsNothing m 1 64 g && !needsNothing gated1 1 64 g)
    && !gateWaits m 1 64 && gateWaits gated1 1 64
    && !needsNothing (filtered 1 0 1 [(l2Key 64 0, inL2 .s)]) 1 64 false && !needsNothing (filtered 3 0 3 []) 1 64 true
    && !needsNothing (filtered 2 0 1 []) 1 64 false && (sfVictim m 64).isNone && (sfVictim fullSet 64).isSome
    && !needsNothing fullSet 1 64 true && (aget fullSet.txns 64).isNone) = true := by decide +kernel

theorem witness_transactions_complete :
    ([L2State.m, .o, .e, .s].all (fun st =>
      let s := inTxn { askOf 1 false with acks := [0] } (filtered 2 0 1 [(l2Key 64 0, inL2 st)])
      !dieBlocked s 0 64 && (aget s.l2 (l2Key 64 0)).isSome)
    && (let s := inTxn { askOf 1 true with acks := [0, 2] } (filtered 2 0 5 [(l2Key 64 0, inL2 .m)])
      !invBlocked s 0 64 && !invBlocked s 2 64)
    && [true, false].all (fun g => [[], [(l2Key 64 1, inL2 .e)]].all (fun l2 =>
      let s := inTxn (askOf 1 g) (filtered 2 1 2 l2)
      (aget s.sf 64).isSome && (aget s.txns 64).map (·.data) = some false && !fillWaits s 1 anyWay 64
      && (!l2.isEmpty || freeWays s 1 anyWay 64 ≠ [])))
    && [true, false].all (fun g =>
      let s := inTxn { askOf 1 g with data := true } (filtered 2 1 2 [(l2Key 64 1, inL2 .e)])
      (aget s.txns 64).map (fun x => (x.acks, x.data, x.queue)) = some ([], true, []))
    && (let s := inTxn { askOf 1 false with data := true, queue := [.get 2 true anyWay] } (filtered 2 1 2 [(l2Key 64 1, inL2 .e)])
      !needsNothing s 2 64 true && (sfVictim s 64).isNone)) = true := by decide +kernel

/-- A host's line, owned by die 0. -/
def hostLine : Nat := 0x8000000000
def hosted (st : L2State) : State :=
  { m with sf := [(hostLine, { st := 2, owner := 0, sharers := 1, age := 0 })], l2 := [(l2Key hostLine 0, inL2 st)] }
def plainLine (s : State) (line : Nat) : Bool := s.memoryWf && (aget s.tolFmt line).isNone && (aget s.sealed line).isNone
/-- A request waits for room in the full set. -/
def waitsForRoom : State := inTxn { askOf 1 true with room := true } fullSet
def victim0 : Nat := 64 + 65536 * 8
/-- Another line of the set. -/
def line2 : Nat := 64 + 65536 * 8 * 17

theorem witness_homes_call_back :
    ([L2State.m, .e].all (fun st =>
      let s := filtered 2 0 1 [(l2Key 64 0, inL2 st)]
      (aget s.txns 64).isNone && !dieBlocked s 0 64 && plainLine s 64 && dieBlocked (engOwned 64 s) 0 64 && (aget s.sf 64).isSome
      && !binvBlocked s 64 && s.txns.all (fun p => !p.2.room)
      && (aget (inTxn (askOf 1 true) s).txns 64).any (fun x => x.cur ≠ .evict 0 (isDirty (some st)) && x.queue = []))
    && (aget waitsForRoom.sf victim0).isSome && !binvBlocked waitsForRoom victim0 && plainLine waitsForRoom victim0
    && sfVictim waitsForRoom 64 = some victim0 && 64 % 65536 = victim0 % 65536 && homeOf 64 = homeOf victim0 && !needsNothing waitsForRoom 1 64 true
    && (sfVictim (dropLine waitsForRoom victim0) 64).isNone
    && [L2State.m, .e].all (fun st => sfHost hostLine && (aget (hosted st).txns hostLine).isNone && plainLine (hosted st) hostLine
      && (aget (hosted st).sf hostLine).any (fun h => h.st = 2 && h.owner = 0) && (aget (hosted st).l2 (l2Key hostLine 0)).isSome
      && [true, false].all (fun own => !snoopBlocked (hosted st) hostLine own
        && snoopBlocked (engOwned hostLine (hosted st)) hostLine own)
      && (aget m.sf 64).isNone && m.txns.all (fun p => !p.2.room)
      && (aget { hosted st with txns := [(hostLine, askOf 1 true)] }.txns hostLine).any (fun x => x.queue = [])
      && (List.range 8).all (fun d => isDirty (l2State (hosted st) hostLine d) = (decide (st = .m) && d = 0)))) = true := by
  decide +kernel

-- 16 R384, R391: the host gets the bytes that die 0 holds modified; what waited for the room is served
theorem test_homes_call_back :
    (after (.hsnp hostLine false) { hosted .m with dirty := [(128 * hostLine + 1, 7)] } (fun t => t.snoopRsps.any (fun r =>
      r.data.any (fun l => l.length = 128 && l[1]? = some 7 && l[2]? = some 0)))
    && after (.binv victim0) waitsForRoom (fun t => (aget t.txns 64).any (fun x => !x.room) && (aget t.sf 64).isSome)
    && after (.binv victim0) { waitsForRoom with
        txns := waitsForRoom.txns ++ [(line2, { askOf 1 true with room := true })] } (fun t =>
      (aget t.txns line2).any (fun x => x.room) && (sfVictim t line2).any (fun v => t.agenda.contains (.binv v)))
    && after (.ack 0 hostLine) { hosted .m with txns := [(hostLine, { askOf 0 true with cur := .snoop true })] } (fun t =>
      t.snoopRsps.length = 1 && t.txns = [] && t.hostOwn.contains hostLine)) = true := by
  decide +kernel

def storing : State := withCtx (fun c => { c with nSt := 1, drain := [.store (.mem word0 [])] }) m
def readingLine : State := withCtx (fun c => { c with region := some { region0 with reads := [64] } }) m
def engine (agent : Nat) : Eng := { core := 0, vi := 0, agent := agent, mine := [] }

theorem witness_lines_move_in_a_die :
    ((storing.ctxs.find? (fun p => storeCore p.1 p.2 = 0 && writesNext storing p.2 64)).map (·.1) = some 0
    && canDrain storing 0 0 [] (markFill storing 0 []) (cellLines word0)
    && (let s := filtered 2 0 1 [(l2Key 64 0, inL2 .e)]
      !dieBlocked s 0 64 && (aget s.l2 (l2Key 64 0)).isSome && l1Room s 0 [64])
    && env readingLine (fun e => (match e.c.region with | some r => !r.nonspec && r.reads.contains 64 | none => false))
    && [36, 43].all (fun a => isPlace 0 64
      && (let s := filtered 2 0 1 [(l2Key 64 0, inL2 .e)]
        !dieBlocked s 0 64 && !engBlocked s (engine a) (fun _ => openFill s) [64] true && roomFor s 0 (fun _ => openFill s) [64]
        && !agentHas s 0 a 64 && agentHas s 0 0 64 && !s.engOwn.contains (0, a, 64)))
    && agentHas (engOwned 64 m) 0 36 64 && (engOwned 64 m).engOwn.contains (0, 36, 64)) = true := by decide +kernel

/-! ## Witnesses: the fabric and the links (20) -/

def fabbing (f : FabOp → FabOp) : State := { m with fabs := [(4, f fab0)] }
def fsigging (node : Word) : State := fabbing (fun o => { o with op := 2, sent := false, node := node })
def behind (f : FabOp → FabOp) : State := { m with fabs := [(2, f { fab0 with sent := false }), (4, { fab0 with op := 2, sent := false })] }
/-- 16 bytes that an `fget` brings. -/
def bytes16 : List Byte := List.replicate 16 1
def getting : FabOp := { fab0 with op := 1, left := [0], data := [(0, bytes16)] }

theorem witness_operations_end :
    ([id, fun o => { o with sent := true }, fun o => { o with failed := true, sent := true }, fun o => { o with op := 1, sent := true }].all
      (fun f => fsigWaits (behind f) 4 { fab0 with op := 2, sent := false })
    && [5, 6].all (fun n => !fsigWaits (fsigging n) 4 { fab0 with op := 2, sent := false, node := n })
    && !scratchLock m [0] 0 32 16 && (aget m.jobs 4).isNone
    && canPut (fabbing (fun _ => getting)) (fabEng getting) .copyOut 0x2000 16
    && nodeOf 5 = ownNode m && nodeOf 6 ≠ ownNode m && (aget (fabbing id).fabs 4).isSome && (aget m.cohorts 0).isSome
    && (aget (fabbing (fun o => { o with op := 1, left := [0] })).fabs 4).map (fun o => (o.op, o.data, o.left)) = some (1, [], [0])
    && (match aget (fabbing id).ctxs 0 with | some c => c.status = .running && c.fault.isNone | none => false)) = true := by
  decide +kernel

-- 20 R452: an fput reads unit 0 from the scratchpad, an fget writes it to memory; R453: the signal stays behind a failed operation; R456: the address
theorem test_operations_end :
    (after (.copyUnitTransfer 4 0) (fabbing (fun o => { o with scratch := true, so := 16, left := [0, 1] })) (fun t =>
      (aget t.fabs 4).any (fun o => (aget o.data 0).any (fun l => l.length = 16) && o.left = [1]))
    && after (.copyUnitTransfer 4 0) (fabbing (fun _ => { getting with bar := none, cw := none })) (fun t => readByte t 0x200F = 1)
    && after (.fsigWrite 4) (behind (fun o => { o with failed := true, sent := true })) (fun t => t.agenda = [.fsigWrite 4])
    && after (.fabricRefusal 4 (refusalWord 8 0x2010)) (fabbing id) (fun t => (aget t.ctxs 0).any (fun c =>
      c.fault.any (fun f => f.sub = 8 && f.addr = 0x2010)))) = true := by decide +kernel

def inbound (op : Nat) (a : Word64) (bytes : List Byte) : FabricIn :=
  { port := none, srcNode := 5, srcVi := 0, dstVi := 0, op := op, tag := 4, addr := a, len := 16, payload := bytes, done := []
    owned := [] }
theorem witness_operations_are_served :
    (!takesFrom m 0 4 0 && takesFrom m 0 5 0 && !portCarries m (some 0) && portCarries m none
    && unitsLeft (inbound 0 0x2000 bytes16) = [0]
    && unitsLeft (inbound 1 0x2000 []) = [0] && unitsLeft { inbound 0 0x2000 bytes16 with done := [(0, [])] } = []
    && canPut m (inbEng 0) .copyOut 0x2000 16 && canGet m (inbEng 0) .remoteRead 0x2000 16
    && (match engRead m (inbEng 0) .remoteRead 0x7000000000 16 with | .error (n, _) => n ≠ 3 | .ok _ => false)
    && (match engRead poisoned64 (inbEng 0) .remoteRead 0x2000 16 with | .error (n, _) => n = 3 | .ok _ => false)
    && canPut m (inbEng 0) .copyOut 0x2000 8 && canGet m (inbEng 0) .atomic 0x2000 8
    && canPut (engTake (owning64 m) (inbEng 0) (engFill (owning64 m) (inbEng 0) 0x2000 8) [64]) (inbEng 0) .copyOut 0x2000 8)
    = true := by decide +kernel

def frame1 (seq : Nat) : LinkFrame := { lane := 1, seq := seq, authOk := true, payload := [] }
def port0 : Port := { Port.reset with up := true, keyCur := [1], keyNext := [2], authRun := 14, replay := [frame1 0], rxSeq := [(1, 3)] }
def linked (p : Port) : State := { m with ports := [(47, p)] }

theorem witness_ports_carry_frames :
    (carries (portOf (linked port0) 47) && carries (portOf (linked { port0 with authRun := 15 }) 47)
    && port0.authRun + 1 < 16 && 16 ≤ { port0 with authRun := 15 }.authRun + 1 && !laneFull port0 1
    && [2, 3, 4].map (compare (agetD port0.rxSeq 0 1)) = [.gt, .eq, .lt]
    && unacked (portOf (linked port0) 47) 1 && unacked { port0 with replay := [], window := [(1, 0, 0, 96)] } 1
    && (portOf (linked port0) 47).keyNext ≠ [] && (linked port0).unsent = []
    && (portOf (linked { port0 with lanesLost := 1 }) 47).lanesLost < 2 && 2 ≤ (portOf (linked { port0 with lanesLost := 2 }) 47).lanesLost
    && agetD (portOf (linked { port0 with laneFaults := [(3, 1023)] }) 47).laneFaults 0 3 = 1023
    && inCxl (128 * 0x200000000)) = true := by decide +kernel

-- a lane whose buffer is full
theorem witness_full_lanes :
    laneFull { port0 with rxBuf := List.replicate (Config.rxRoom + 1) (frame1 0) } 1 = true := by
  simp [laneFull, laneHeld, frame1]

/-! ## Witnesses: errors, keys, reset and power (11; 16; 18; 23) -/

def res0 : Resource := { cls := 0, idx := 5 }
def gating : State := { m with l2gPend := [(0, 1)], l2 := [(l2Key 64 0, inL2 .e)] }
def gatingAsked : State := inTxn (askOf 0 true) gating
def hostHas : State := { m with hostOwn := [hostLine] }

theorem witness_errors_are_counted :
    ([0, 1, 2, 3, 4, 5, 6, 7, 8, 9].any (fun c => (faultLimit c).isSome) && (faultLimit 0).isSome && !m.retiring.contains res0
    && agetD m.spares 0 (spareKey res0) < (sparePool res0).2
    && (sparePool res0).2 ≤ agetD [(spareKey res0, (sparePool res0).2)] 0 (spareKey res0)
    && isDirty (l2State (filtered 2 0 1 [(l2Key 64 0, inL2 .m)]) 64 0) && !isDirty (l2State m 64 0)
    && agentHas (filtered 2 0 1 [(l2Key 64 0, inL2 .m)]) 0 0 64 && !agentHas (filtered 2 0 1 [(l2Key 64 0, inL2 .m)]) 0 1 64
    && !dirtyIn m 64 && dirtyIn (filtered 2 0 1 [(l2Key 64 0, inL2 .m)]) 64 && (aget m.frames 0).isSome && (aget m.ctxs 0).isSome
    && (aget m.cohorts 0).isSome && { m with retiring := [res0] }.retiring.contains res0
    && (gatedLines gating 0 1).all (fun l => !inService gating l && !dieBlocked gating 0 l) && !gateAsked gating 0 1
    && gateAsked gatingAsked 0 1 && (aget gatingAsked.l2gPend 0).isSome
    && hostHas.hostOwn.contains hostLine && !sfHost 64 && (aget m.sf 64).isNone && !m.hostOwn.contains hostLine && sfHost hostLine
    && (aget (filtered 2 0 1 [(l2Key 64 0, inL2 .m)]).sf 64).isSome) = true := by decide +kernel

def keyed (n : Nat) (sel : Word) : State :=
  { m with mgmt := { m.mgmt with keysel := sel, keyWords := List.replicate n 7 }, keys := [(3, [1])], lineKey := [(64, 3)] }

theorem witness_keys_and_reports :
    ([(0x050, 3), (0x054, 9), (0x058, 1), (0x0B0, 5), (0x0B4, 1), (0x0AC, 0x0001), (0x0AC, 0x0101)].all (fun p => toMgmt 8 p.1 p.2)
    && !(keyed 16 3).mgmt.keysel.getLsbD 31 && (keyed 16 3).mgmt.keyWords.length = 16 && (keyed 15 3).mgmt.keyWords.length ≠ 16
    && (keyed 16 3).vis.all (fun p => !(p.2.en && descKey p.2.desc = 3)) && descKey vi.desc = 0
    && aget (keyed 16 3).keys 3 = some [1] && aget (keyed 16 3).lineKey 64 = some 3 && (keyed 8 0x80008000).mgmt.keysel.getLsbD 31
    && (keyed 8 0x80008000).mgmt.keysel.getLsbD 15 && !(keyed 8 0x80000000).mgmt.keysel.getLsbD 15
    && (keyed 8 0x80000000).mgmt.keyWords.length = 8 && !m.attBusy && { m with attBusy := true }.attBusy
    && (0x0101#16).getLsbD 0 && (0x0101#16).getLsbD 8) = true := by decide +kernel

-- 16 R394: an agent that holds the line modified fails; one that holds no copy does not poison it; nor does a clean slice
theorem test_failing_agents :
    (let s := filtered 2 0 1 [(l2Key 64 0, inL2 .m)]
    [(0, true), (1, false), (44, true), (45, false), (52, false)].all (fun p =>
      after (.agentFailure p.1 64) s (fun t => isPoisoned t 64 = p.2))
    && [(0, true), (16, false)].all (fun p => after (.uncorrectableError { cls := 3, idx := p.1 } (.line 0x2000)) s (fun t =>
      isPoisoned t 64 = p.2))) = true := by decide +kernel

-- 23 R487: a line modified in a cache keeps its bytes when its slot gets another key, also once it is written back
theorem test_modified_lines_keep_their_bytes :
    (retireKey { keyed 16 3 with dirty := [(0x2000, 9)] } 3 [7] |> fun t =>
      (aget t.sealed 64).isSome && readByte t 0x2000 = 9 && readByte t 0x2004 = readByte m 0x2004
      && readByte (writeBackLine t 64) 0x2004 = readByte m 0x2004 && (aget (writeBackLine t 64).sealed 64).isNone
      && aget (writeBackLine t 64).lineKey 64 = some 3) = true := by decide +kernel

theorem witness_reset_and_power :
    (toMgmt 8 0x00C 0x00005253 && toMgmt 8 0x00C 0 && !{ m with powered := false }.powered && m.memoryWf
    && m.bands.all (fun p => p.2.move.isNone) && m.xfers.all (fun p => p.2.st ≠ 1 && p.2.st ≠ 2)
    && [300, 600].all (fun n => 300 ≤ n && n ≤ 600 && n % 50 = 0)) = true := by decide +kernel

end Sys2Proof.Tests
end

section
/-!
Uniform branches, calls and returns (07 R179 to R184): the transfer of control, the return stack and the traps of its
misuse.
-/

namespace Sys2Proof.Machine

open Sys2Proof.Claims

/-! ## Registers that opening a region leaves alone -/

section OpenedParts
variable (q : Req) (s : State) (e : Env)
@[simp] theorem rstack_opened : (openedEnv q s e).c.r.rstack = e.c.r.rstack := by
  obtain ⟨o, h⟩ := openedEnv_r q s e
  rw [h]
@[simp] theorem dstack_opened : (openedEnv q s e).c.r.dstack = e.c.r.dstack := by
  obtain ⟨o, h⟩ := openedEnv_r q s e
  rw [h]
end OpenedParts

theorem Acting.live {s s1 : State} {e e1 : Env} (ha : Acting s e s1 e1) : e1.c.live = e.c.live := by
  obtain ⟨reg, hc, -⟩ := ha.state
  rw [hc]
theorem Acting.arm {s s1 : State} {e e1 : Env} (ha : Acting s e s1 e1) : e1.c.arm = e.c.arm := by
  obtain ⟨reg, hc, -⟩ := ha.state
  rw [hc]

/-- An instruction that is ready, and opens a region if none is open, acts on its context with the region open. -/
theorem ready_acts {i : Instr} {act : Env → State → State} {s : State} {e : Env} (h : Ready i s e)
    (hx : exec i s = issue i (Claims.request i s) act s) (hs : (Claims.request i s).stall = false := by rfl)
    (hb : (Claims.request i s).bare = false := by rfl) :
    exec i s = .next (act (openedEnv (Claims.request i s) s e) (actState i s e))
    ∧ Acting s e (actState i s e) (openedEnv (Claims.request i s) s e) := by
  obtain ⟨he, hn⟩ := h
  exact ⟨hx.trans (issue_acts he hn), acting he hs hb⟩

/-! ## The context with its region open -/

/-- `t` is `s` but for the context of `e`, which has its region open and the registers `r`, with the overflow table in
force: the state in which an effect on the context alone is under way. -/
def Staged (s t : State) (e : Env) (r : CtxRegs) : Prop :=
  OnlyCtx s t e.key
  ∧ ∃ reg, aget t.ctxs e.key = some { e.c with r := { r with ovt := ovtInForce s e }, region := some reg }

theorem Acting.staged {s s1 : State} {e e1 : Env} (ha : Acting s e s1 e1) : Staged s s1 e e.c.r := by
  obtain ⟨reg, hc, rfl⟩ := ha.state
  exact ⟨⟨rfl, fun k hk => aget_aput_ne _ _ hk⟩, reg, by rw [setCtx_ctxs, aget_aput_same, hc]⟩

section Staged
variable {s t : State} {e : Env} {r : CtxRegs}

/-- A change of one context leaves the others and every other part of the state. -/
theorem onlyCtx_modCtx {key : Nat} (h : OnlyCtx s t key) (f : Ctx → Ctx) : OnlyCtx s (modCtx t key f) key := by
  obtain ⟨hs, hk⟩ := h
  exact ⟨by rw [hs]; rfl, fun k hne => (aget_amod_ne _ _ hne).trans (hk k hne)⟩

/-- A register change that does not touch the overflow table. -/
theorem Staged.modRegs (h : Staged s t e r) (g : CtxRegs → CtxRegs)
    (hg : ∀ r o, g { r with ovt := o } = { g r with ovt := o } := by intros; rfl) :
    Staged s (modRegs t e.key g) e (g r) := by
  obtain ⟨hs, reg, hc⟩ := h
  exact ⟨onlyCtx_modCtx hs _, reg, by rw [modRegs_ctxs, aget_amod_same, hc, Option.map_some, hg]⟩

/-- A transfer of control. -/
theorem Staged.jumps (h : Staged s t e r) {e1 : Env} (hk : e1.key = e.key) (pc : Word64) :
    Jumps s (jumpTo t e1 pc) e { r with pc := pc } := by
  obtain ⟨hs, reg, hc⟩ := h
  unfold jumpTo
  rw [hk]
  exact ⟨onlyCtx_modCtx hs _, _, by rw [modCtx_ctxs, aget_amod_same, hc]; rfl, rfl, rfl⟩

/-- The agenda holds an event that has been put on it once. -/
theorem contains_laterOnce (s : State) (i : Instr) : (laterOnce s i).agenda.contains i = true := by
  unfold laterOnce
  split
  · assumption
  · simp [later]

/-- Putting an event on the agenda changes nothing else. -/
theorem laterOnce_only (s : State) (i : Instr) : laterOnce s i = { s with agenda := (laterOnce s i).agenda } := by
  unfold laterOnce
  split <;> rfl

/-- A trap before the effect has changed any register. -/
theorem Staged.traps (h : Staged s t e e.c.r) {e1 : Env} (hk : e1.key = e.key) (info : TrapInfo) :
    Traps s (trapE t e1 info) e info := by
  obtain ⟨⟨hs, hne⟩, reg, hc⟩ := h
  unfold trapE
  rw [hk]
  have hctxs : (takeTrap t e.key info).ctxs = amod t.ctxs e.key (fun c =>
      { c with fault := some info, region := c.region.map (fun r => { r with ended := true }) }) := laterOnce_ctxs _ _
  have hframes : (takeTrap t e.key info).frames = s.frames := by rw [takeTrap_frames, hs]
  have hctx := aget_amod_same t.ctxs e.key (fun c =>
      { c with fault := some info, region := c.region.map (fun r => { r with ended := true }) })
  rw [← hctxs, hc, Option.map_some] at hctx
  refine ⟨⟨_, hctx, rfl, rfl⟩, contains_laterOnce _ _, ?_, ?_, ?_, ?_⟩
  · intro key n lane
    simp only [vReg, vPoison, hframes, and_self]
  · intro k hk
    rw [hctxs, aget_amod_ne _ _ hk, hne k hk]
  · unfold takeTrap
    rw [laterOnce_only, hs]
    rfl
  · intro pa
    refine readByte_of_memPart ?_ pa
    rw [memPart_takeTrap, hs]
    rfl

end Staged

/-! ## Branches -/

/-- A mask with no lane in it. -/
theorem mask_eq_zero_iff (m : LaneMask) : m = 0 ↔ ∀ l, l < 64 → m.getLsbD l = false := by
  constructor
  · rintro rfl l -
    exact BitVec.getLsbD_zero
  · intro h
    exact BitVec.eq_of_getLsbD_eq fun l hl => by rw [h l hl]; exact BitVec.getLsbD_zero.symm

/-- No lane of one mask lies in the other. -/
theorem and_eq_zero_iff (m k : LaneMask) :
    m &&& k = 0 ↔ ∀ l, l < 64 → m.getLsbD l = true → k.getLsbD l = false := by
  rw [mask_eq_zero_iff]
  refine forall₂_congr fun l _ => ?_
  rw [BitVec.getLsbD_and]
  cases m.getLsbD l <;> simp

/-- Every lane of one mask lies in the other. -/
theorem and_not_eq_zero_iff (m k : LaneMask) :
    m &&& ~~~k = 0 ↔ ∀ l, l < 64 → m.getLsbD l = true → k.getLsbD l = true := by
  rw [and_eq_zero_iff]
  refine forall₂_congr fun l hl => ?_
  simp [hl]

/-- The branch conditions of 07 Table 7-5, lane by lane. -/
theorem branchTaken_iff {cond : BitVec 4} (hc : cond.toNat ≤ 4) (m0 m : LaneMask) :
    branchTaken cond.toNat m0 m = true ↔ cond = 0
      ∨ (cond = 1 ∧ ∃ l, l < 64 ∧ m0.getLsbD l = true ∧ m.getLsbD l = true)
      ∨ (cond = 2 ∧ ∀ l, l < 64 → m0.getLsbD l = true → m.getLsbD l = true)
      ∨ (cond = 3 ∧ ∀ l, l < 64 → m0.getLsbD l = true → m.getLsbD l = false)
      ∨ (cond = 4 ∧ ∃ l, l < 64 ∧ m0.getLsbD l = true ∧ m.getLsbD l = false) := by
  have cases : cond = 0 ∨ cond = 1 ∨ cond = 2 ∨ cond = 3 ∨ cond = 4 := by bv_omega
  rcases cases with rfl | rfl | rfl | rfl | rfl
  · simp [branchTaken]
  · have h := not_congr (and_eq_zero_iff m0 m)
    simpa [branchTaken] using h
  · have h := and_not_eq_zero_iff m0 m
    simpa [branchTaken] using h
  · have h := and_eq_zero_iff m0 m
    simpa [branchTaken] using h
  · have h := not_congr (and_not_eq_zero_iff m0 m)
    simpa [branchTaken] using h

/-- The target of a slot is counted in lines from its own line, forwards or backwards (06 R142). -/
theorem lineTarget_eq (pc : Word64) (off : BitVec 32) (slot : BitVec 3) : lineTarget pc off slot = target pc off slot := by
  have hoff : off.signExtend 64 <<< 6 = BitVec.ofInt 64 (64 * off.toInt) := by
    rw [BitVec.shiftLeft_eq_mul_twoPow, BitVec.ofInt_mul, BitVec.mul_comm]
    rfl
  have hslot : slot.setWidth 64 = BitVec.ofInt 64 (slot.toNat : Int) := by
    rw [BitVec.ofInt_natCast, BitVec.ofNat_toNat]
  unfold lineTarget target
  rw [BitVec.ofInt_add, BitVec.ofInt_add, hoff, hslot, BitVec.ofInt_natCast]
  rfl

@[simp] theorem targetOf_opened (q : Req) (s : State) (e : Env) (f : FmtB) :
    targetOf (openedEnv q s e) f = target e.c.r.pc f.toff f.tslot := by
  rw [targetOf, ePc, pc_opened, lineTarget_eq]

theorem branches : Branches := by
  intro s e f m taken hready hm ht
  obtain ⟨hx, ha⟩ := ready_acts hready (exec_bra f s)
  have hcond : f.cond.toNat ≤ 4 := by
    have hok : braOk f = true := encodingOk_of_acts hready.2
    simp only [braOk, Bool.and_eq_true, decide_eq_true_eq] at hok
    obtain ⟨⟨-, hcond⟩, -⟩ := hok
    exact hcond
  have hiff : branchTaken f.cond.toNat e.c.r.m0 m = taken := by
    rw [Bool.eq_iff_iff, ht]
    exact branchTaken_iff hcond e.c.r.m0 m
  refine ⟨_, hx, ?_⟩
  simp only [m0_opened, maskOf_opened, ← hm, hiff]
  refine ⟨fun htaken => ?_, fun htaken => ?_⟩
  · rw [if_pos htaken, targetOf_opened]
    exact ha.staged.jumps ha.key _
  · obtain ⟨honly, hregs, hv⟩ := finish_id ha
    rw [if_neg (by simp [htaken])]
    exact ⟨honly, hv, hregs⟩

/-! ## Calls -/

/-- A return entry: the slot after the call, for each live lane (07 R183). -/
def linkEntry (e : Env) : Amap Word64 := (lanesOf e.c.live).map (fun l => (l, nextSlot e.c.r.pc))

section Calls
variable {q : Req} {s s1 : State} {e : Env}

theorem callTo_jumps (ha : Acting s e s1 (openedEnv q s e)) (hroom : e.c.r.rstack.length < 32) (pc : Word64) :
    Jumps s (callTo s1 (openedEnv q s e) pc) e { e.c.r with pc := pc, rstack := linkEntry e :: e.c.r.rstack } := by
  unfold callTo
  rw [rstack_opened, if_neg (by omega), ha.key, ha.live, ePc, pc_opened]
  exact (ha.staged.modRegs _).jumps ha.key pc

theorem callTo_traps (ha : Acting s e s1 (openedEnv q s e)) (hfull : 32 ≤ e.c.r.rstack.length) (pc : Word64) :
    Traps s (callTo s1 (openedEnv q s e) pc) e (plainTrap 0x07 e.c.r.pc) := by
  unfold callTo
  rw [rstack_opened, if_pos hfull, ePc, pc_opened]
  exact ha.staged.traps ha.key _

end Calls

/-! ## Returns -/

/-- The links of the top entry over the active lanes are one PC, and there is an active lane. -/
theorem commonLink_eq_some_iff (e : Env) (top : Amap Word64) (pc : Word64) :
    commonLink e top = some pc ↔ lanesOf e.c.r.m0 ≠ [] ∧ ∀ l ∈ lanesOf e.c.r.m0, agetD top 0 l = pc := by
  unfold commonLink
  cases lanesOf e.c.r.m0 with
  | nil => simp
  | cons a ls =>
    simp only [List.map_cons, List.all_map, List.all_eq_true, Function.comp_apply, decide_eq_true_eq, ne_eq, reduceCtorEq,
      not_false_eq_true, true_and, List.forall_mem_cons]
    split
    · next h =>
      rw [Option.some.injEq]
      exact ⟨fun ha => ⟨ha, fun l hl => (h l hl).trans ha⟩, fun ha => ha.1⟩
    · next h =>
      simp only [reduceCtorEq, false_iff]
      rintro ⟨ha, hr⟩
      exact h fun l hl => (hr l hl).trans ha.symm

theorem commonLink_eq_some {e : Env} {top : Amap Word64} {pc : Word64} (h0 : e.c.r.m0 ≠ 0)
    (h : ∀ l, l < 64 → e.c.r.m0.getLsbD l = true → agetD top 0 l = pc) : commonLink e top = some pc := by
  rw [commonLink_eq_some_iff]
  refine ⟨fun hnil => h0 ?_, fun l hl => h l (mem_lanesOf.1 hl).1 (mem_lanesOf.1 hl).2⟩
  rw [mask_eq_zero_iff]
  intro l hl
  by_contra hbit
  have hmem : l ∈ lanesOf e.c.r.m0 := mem_lanesOf.2 ⟨hl, by simpa using hbit⟩
  rw [hnil] at hmem
  cases hmem

theorem commonLink_eq_none {e : Env} {top : Amap Word64} {k l : Nat} (hk : k < 64) (hl : l < 64)
    (hkm : e.c.r.m0.getLsbD k = true) (hlm : e.c.r.m0.getLsbD l = true) (hne : agetD top 0 k ≠ agetD top 0 l) :
    commonLink e top = none := by
  rw [Option.eq_none_iff_forall_ne_some]
  intro pc hpc
  obtain ⟨-, hall⟩ := (commonLink_eq_some_iff e top pc).1 hpc
  exact hne ((hall k (mem_lanesOf.2 ⟨hk, hkm⟩)).trans (hall l (mem_lanesOf.2 ⟨hl, hlm⟩)).symm)

/-- A nest of the context, or the split that it is an arm of, began at call depth `depth`: it has to be joined before a
return from there (07 R184). -/
def OpenAtDepth (e : Env) (depth : Nat) : Prop :=
  (∃ d, e.c.r.dstack.head? = some d ∧ d.depth = depth)
  ∨ (e.c.arm ≠ .whole ∧ ∃ sp, e.g.split = some sp ∧ sp.depth = depth)

/-- The two tests of `ret` on the depth, as the machine makes them. -/
theorem openAtDepth_iff (e : Env) (depth : Nat) :
    OpenAtDepth e depth ↔ ((match e.c.r.dstack with | t :: _ => decide (t.depth = depth) | [] => false)
      || (decide (e.c.arm ≠ .whole) && (match e.g.split with | some sp => decide (sp.depth = depth) | none => false)))
      = true := by
  unfold OpenAtDepth
  cases e.c.r.dstack <;> cases e.g.split <;> simp

section Ret
variable {e : Env} {s : State} {top : Amap Word64} {rest : List (Amap Word64)}

theorem retDo_underflow (hr : e.c.r.rstack = []) : retDo e s = trapE s e (plainTrap cReturnUnderflow (ePc e)) := by
  simp only [retDo, hr]

theorem retDo_openAtDepth (hr : e.c.r.rstack = top :: rest) (ho : OpenAtDepth e (rest.length + 1)) :
    retDo e s = trapE s e (plainTrap cDivergentReturn (ePc e)) := by
  rw [openAtDepth_iff] at ho
  simp only [retDo, hr, List.length_cons]
  exact if_pos ho

theorem retDo_differ (hr : e.c.r.rstack = top :: rest) (hl : commonLink e top = none) :
    retDo e s = trapE s e (plainTrap cDivergentReturn (ePc e)) := by
  simp only [retDo, hr, hl, ite_self]

theorem retDo_pops {pc : Word64} (hr : e.c.r.rstack = top :: rest) (ho : ¬ OpenAtDepth e (rest.length + 1))
    (hl : commonLink e top = some pc) :
    retDo e s = jumpTo (modRegs s e.key (fun r => { r with rstack := rest })) e pc := by
  rw [openAtDepth_iff] at ho
  simp only [retDo, hr, hl, List.length_cons]
  exact if_neg ho

end Ret

/-- Opening a region leaves the nests and the split as they are. -/
theorem openAtDepth_of_acting {q : Req} {s s1 : State} {e : Env} (ha : Acting s e s1 (openedEnv q s e)) (depth : Nat) :
    OpenAtDepth (openedEnv q s e) depth ↔ OpenAtDepth e depth := by
  unfold OpenAtDepth
  rw [dstack_opened, ha.arm, openedEnv_g]

@[simp] theorem commonLink_opened (q : Req) (s : State) (e : Env) (top : Amap Word64) :
    commonLink (openedEnv q s e) top = commonLink e top := by
  unfold commonLink
  rw [m0_opened]

/-! ## The instructions -/

section Instructions
variable {s : State} {e : Env} {f : FmtB}

theorem call_jumps (h : Ready (.call f) s e) (hroom : e.c.r.rstack.length < 32) :
    ∃ t, exec (.call f) s = .next t ∧ Jumps s t e
      { e.c.r with pc := target e.c.r.pc f.toff f.tslot, rstack := linkEntry e :: e.c.r.rstack } := by
  obtain ⟨hx, ha⟩ := ready_acts h (exec_call f s)
  refine ⟨_, hx, ?_⟩
  rw [targetOf_opened]
  exact callTo_jumps ha hroom _

theorem call_traps (h : Ready (.call f) s e) (hfull : 32 ≤ e.c.r.rstack.length) :
    ∃ t, exec (.call f) s = .next t ∧ Traps s t e (plainTrap 0x07 e.c.r.pc) := by
  obtain ⟨hx, ha⟩ := ready_acts h (exec_call f s)
  exact ⟨_, hx, callTo_traps ha hfull _⟩

theorem calli_jumps (h : Ready (.calli f) s e) (hpc : (opPair e (f.joff.setWidth 9) 0).toNat % 64 < 5)
    (hroom : e.c.r.rstack.length < 32) :
    ∃ t, exec (.calli f) s = .next t ∧ Jumps s t e
      { e.c.r with pc := opPair e (f.joff.setWidth 9) 0, rstack := linkEntry e :: e.c.r.rstack } := by
  obtain ⟨hx, ha⟩ := ready_acts h (exec_calli f s)
  refine ⟨_, hx, ?_⟩
  simp only [calliReg, opPair_opened, pcOk, hpc, decide_true, Bool.not_true, Bool.false_eq_true, if_false]
  exact callTo_jumps ha hroom _

theorem calli_traps_target (h : Ready (.calli f) s e) (hpc : 5 ≤ (opPair e (f.joff.setWidth 9) 0).toNat % 64) :
    ∃ t, exec (.calli f) s = .next t ∧ Traps s t e (plainTrap 0x02 e.c.r.pc) := by
  obtain ⟨hx, ha⟩ := ready_acts h (exec_calli f s)
  refine ⟨_, hx, ?_⟩
  simp only [calliReg, opPair_opened, pcOk, hpc.not_gt, decide_false, Bool.not_false, if_true, ePc, pc_opened]
  exact ha.staged.traps ha.key _

theorem calli_traps_full (h : Ready (.calli f) s e) (hpc : (opPair e (f.joff.setWidth 9) 0).toNat % 64 < 5)
    (hfull : 32 ≤ e.c.r.rstack.length) :
    ∃ t, exec (.calli f) s = .next t ∧ Traps s t e (plainTrap 0x07 e.c.r.pc) := by
  obtain ⟨hx, ha⟩ := ready_acts h (exec_calli f s)
  refine ⟨_, hx, ?_⟩
  simp only [calliReg, opPair_opened, pcOk, hpc, decide_true, Bool.not_true, Bool.false_eq_true, if_false]
  exact callTo_traps ha hfull _

theorem ret_underflows (h : Ready (.ret f) s e) (hr : e.c.r.rstack = []) :
    ∃ t, exec (.ret f) s = .next t ∧ Traps s t e (plainTrap 0x05 e.c.r.pc) := by
  obtain ⟨hx, ha⟩ := ready_acts h (exec_ret f s)
  refine ⟨_, hx, ?_⟩
  rw [retDo_underflow (by rw [rstack_opened, hr]), ePc, pc_opened]
  exact ha.staged.traps ha.key _

variable {top : Amap Word64} {rest : List (Amap Word64)}

theorem ret_traps_openAtDepth (h : Ready (.ret f) s e) (hr : e.c.r.rstack = top :: rest)
    (ho : OpenAtDepth e (rest.length + 1)) :
    ∃ t, exec (.ret f) s = .next t ∧ Traps s t e (plainTrap 0x06 e.c.r.pc) := by
  obtain ⟨hx, ha⟩ := ready_acts h (exec_ret f s)
  refine ⟨_, hx, ?_⟩
  rw [retDo_openAtDepth (by rw [rstack_opened, hr]) ((openAtDepth_of_acting ha _).2 ho), ePc, pc_opened]
  exact ha.staged.traps ha.key _

theorem ret_traps_differ (h : Ready (.ret f) s e) (hr : e.c.r.rstack = top :: rest) (hl : commonLink e top = none) :
    ∃ t, exec (.ret f) s = .next t ∧ Traps s t e (plainTrap 0x06 e.c.r.pc) := by
  obtain ⟨hx, ha⟩ := ready_acts h (exec_ret f s)
  refine ⟨_, hx, ?_⟩
  rw [retDo_differ (by rw [rstack_opened, hr]) (by rw [commonLink_opened, hl]), ePc, pc_opened]
  exact ha.staged.traps ha.key _

theorem ret_jumps (h : Ready (.ret f) s e) (hr : e.c.r.rstack = top :: rest) (ho : ¬ OpenAtDepth e (rest.length + 1))
    {pc : Word64} (hl : commonLink e top = some pc) :
    ∃ t, exec (.ret f) s = .next t ∧ Jumps s t e { e.c.r with pc := pc, rstack := rest } := by
  obtain ⟨hx, ha⟩ := ready_acts h (exec_ret f s)
  refine ⟨_, hx, ?_⟩
  rw [retDo_pops (by rw [rstack_opened, hr]) (mt (openAtDepth_of_acting ha _).1 ho) (by rw [commonLink_opened, hl]),
    openedEnv_key]
  exact (ha.staged.modRegs _).jumps ha.key pc

end Instructions

theorem callsAndReturns : CallsAndReturns := by
  intro s e f link hlink
  obtain rfl : link = linkEntry e := hlink
  refine ⟨call_jumps, ?_, ?_, fun h => ⟨ret_underflows h, ?_, ?_, ?_⟩⟩
  · rintro _ h rfl
    exact ⟨calli_jumps h, calli_traps_target h⟩
  · rintro i (rfl | ⟨rfl, hpc⟩) h hfull
    · exact call_traps h hfull
    · exact calli_traps_full h hpc hfull
  · intro top rest pc hr h0 hnest hsplit hall
    refine ret_jumps h hr ?_ (commonLink_eq_some h0 hall)
    rintro (⟨d, hd, hdepth⟩ | ⟨harm, sp, hsp, hdepth⟩)
    · exact hnest d hd hdepth
    · exact hsplit.elim harm fun hs => hs sp hsp hdepth
  · exact fun top rest hr ho => ret_traps_openAtDepth h hr ho
  · exact fun top rest k l hr hk hl hkm hlm hne => ret_traps_differ h hr (commonLink_eq_none hk hl hkm hlm hne)

/-- Settles O30, from the effect of each instruction on the context with its region open. -/
theorem branchesAndCalls : Obligations.branches_and_calls := ⟨branches, callsAndReturns⟩

end Sys2Proof.Machine
end

section
/-!
Instructions that are ready and write one destination or one mask; bit fields (08 R214).
-/

namespace Sys2Proof.Machine

open Sys2Proof.Claims

/-! ## What an instruction that is ready leaves -/

section Ready
variable {i : Instr} {s : State} {e : Env} {d : Spec}

/-- A ready instruction whose effect is to write destination D leaves there what the effect computes. -/
theorem ready_writesD {x : Env → State → Nat → Word} (h : Ready i s e)
    (hx : exec i s = issue i (Claims.request i s) (fun e s => writeD s e d (x e s)) s)
    (hs : (Claims.request i s).stall = false := by rfl) (hb : (Claims.request i s).bare = false := by rfl) :
    ∃ t, exec i s = .next t ∧ OnlyRegs s t e ∧ DestIs s t e d (x (actEnv i s e) (actState i s e)) := by
  obtain ⟨hn, ha⟩ := ready_acts h hx hs hb
  exact ⟨_, hn, writeD_dest ha d _⟩

/-- A ready instruction whose effect is to write mask D leaves there the bits that the effect computes. -/
theorem ready_writesMask {x : Env → Nat → Bool} (h : Ready i s e)
    (hx : exec i s = issue i (Claims.request i s) (fun e s => writeMask s e d (x e)) s) (hd : kOf d ≠ 0)
    (hs : (Claims.request i s).stall = false := by rfl) (hb : (Claims.request i s).bare = false := by rfl) :
    ∃ t, exec i s = .next t ∧ OnlyRegs s t e ∧ MaskIs s t e (kOf d) (x (actEnv i s e)) := by
  obtain ⟨hn, ha⟩ := ready_acts h hx hs hb
  exact ⟨_, hn, writeMask_mask ha hd _⟩

/-- Opening a region changes no operand, in any lane. -/
theorem opWord_opened_all (q : Req) (s : State) (e : Env) (rt : Nat) (imm : Word) (sp : Spec) :
    opWord (openedEnv q s e) rt imm sp = opWord e rt imm sp := funext fun l => opWord_opened q s e rt imm sp l

/-- A mask that may be written is not m0. -/
theorem kOf_ne_zero_of_isMaskDst (h : isMaskDst d = true) : kOf d ≠ 0 := by
  simp only [isMaskDst, Bool.and_eq_true, decide_eq_true_eq] at h
  unfold kOf
  omega

end Ready

/-! ## Bit fields (08 R214) -/

/-- The control operand has the offset in bits [4:0] and the width in bits [13:8]. -/
theorem fieldOf_eq (ctl : Word) :
    fieldOf ctl = ((ctl.extractLsb' 0 5).toNat,
      min (ctl.extractLsb' 8 6).toNat (32 - (ctl.extractLsb' 0 5).toNat)) := by
  simp only [fieldOf, BitVec.extractLsb'_toNat, Nat.shiftRight_eq_div_pow, Nat.reducePow, Nat.div_one]

/-- The top bit of a number of w bits tells whether it reaches half of their range. -/
theorem testBit_top_iff {x w : Nat} (hw : 0 < w) (hx : x < 2 ^ w) : x.testBit (w - 1) = true ↔ 2 ^ (w - 1) ≤ x := by
  refine ⟨Nat.ge_two_pow_of_testBit, fun h => ?_⟩
  obtain ⟨k, rfl⟩ : ∃ k, w = k + 1 := ⟨w - 1, by omega⟩
  rw [Nat.pow_succ] at hx
  have hdiv : x / 2 ^ k = 1 := Nat.div_eq_of_lt_le (by simpa using h) (by omega)
  simp [Nat.testBit_eq_decide_div_mod_eq, hdiv]

/-- Bits of a number of w bits extended with ones. -/
theorem testBit_add_ones {x w : Nat} (hx : x < 2 ^ w) (hw : w ≤ 32) {i : Nat} (hi : i < 32) :
    (x + (2 ^ 32 - 2 ^ w)).testBit i = if i < w then x.testBit i else true := by
  have hsplit : x + (2 ^ 32 - 2 ^ w) = 2 ^ w * (2 ^ (32 - w) - 1) + x := by
    rw [Nat.mul_sub, ← Nat.pow_add, Nat.add_sub_cancel' hw, Nat.mul_one, Nat.add_comm]
  rw [hsplit, Nat.testBit_two_pow_mul_add _ hx, Nat.testBit_two_pow_sub_one]
  split
  · rfl
  · exact decide_eq_true (by omega)

/-- Bits of the field that `bfx` extracts. -/
theorem getLsbD_bfxWord (signed : Bool) (a ctl : Word) {o w i : Nat} (hf : fieldOf ctl = (o, w)) (hw : w ≤ 32)
    (hi : i < 32) :
    (bfxWord signed a ctl).getLsbD i =
      if i < w then a.getLsbD (o + i) else signed && decide (0 < w) && a.getLsbD (o + w - 1) := by
  have hlt : a.toNat / 2 ^ o % 2 ^ w < 2 ^ w := Nat.mod_lt _ (Nat.two_pow_pos w)
  have hbit : ∀ k, (a.toNat / 2 ^ o % 2 ^ w).testBit k = (decide (k < w) && a.getLsbD (o + k)) := by
    intro k
    rw [Nat.testBit_mod_two_pow, Nat.testBit_div_two_pow, BitVec.getLsbD, Nat.add_comm]
  have hext : (signed && decide (0 < w) && decide (2 ^ (w - 1) ≤ a.toNat / 2 ^ o % 2 ^ w))
      = (signed && decide (0 < w) && a.getLsbD (o + w - 1)) := by
    by_cases hw0 : 0 < w
    · congr 1
      rw [Bool.eq_iff_iff, decide_eq_true_eq, ← testBit_top_iff hw0 hlt, hbit, decide_eq_true (by omega : w - 1 < w),
        Bool.true_and, Nat.add_sub_assoc hw0]
    · simp only [hw0, decide_false, Bool.and_false, Bool.false_and]
  simp only [bfxWord, hf, hext]
  cases signed && decide (0 < w) && a.getLsbD (o + w - 1) with
  | true =>
    rw [if_pos rfl, BitVec.getLsbD_ofNat, testBit_add_ones hlt hw hi, hbit, decide_eq_true hi, Bool.true_and]
    split
    · next hiw => rw [decide_eq_true hiw, Bool.true_and]
    · rfl
  | false =>
    rw [if_neg Bool.false_ne_true, BitVec.getLsbD_ofNat, hbit, decide_eq_true hi, Bool.true_and]
    split
    · next hiw => rw [decide_eq_true hiw, Bool.true_and]
    · next hiw => rw [decide_eq_false hiw, Bool.false_and]

/-- Bits of the word in which `bfi` has replaced the field. -/
theorem getLsbD_bfiWord (a b ctl : Word) {o w i : Nat} (hf : fieldOf ctl = (o, w)) (hi : i < 32) :
    (bfiWord a b ctl).getLsbD i = if o ≤ i ∧ i < o + w then b.getLsbD (i - o) else a.getLsbD i := by
  simp only [bfiWord, hf, BitVec.getLsbD_or, BitVec.getLsbD_and, BitVec.getLsbD_not, BitVec.getLsbD_ofNat, hi,
    decide_true, Bool.true_and, Nat.testBit_mul_two_pow, Nat.testBit_two_pow_sub_one, Nat.testBit_mod_two_pow]
  by_cases h : o ≤ i ∧ i < o + w
  · have hiw : i - o < w := by omega
    simp [h, hiw, BitVec.getLsbD]
  · rw [if_neg h]
    by_cases ho : o ≤ i
    · have hiw : ¬ i - o < w := by omega
      simp [hiw, BitVec.getLsbD]
    · simp [ho, BitVec.getLsbD]

/-- Settles O4, from the bits of the two words. -/
theorem bitFields : Obligations.bit_fields := by
  intro s e f
  refine ⟨fun h => ?_, fun h => ?_⟩
  · obtain ⟨t, hx, honly, hdest⟩ := ready_writesD h (exec_bfx f s)
    simp only [actEnv, opWord_opened] at hdest
    refine ⟨t, _, hx, honly, hdest, ?_⟩
    rintro l o wd rfl rfl i hi
    rw [getLsbD_bfxWord _ _ _ (fieldOf_eq _) (by omega) hi]
  · obtain ⟨t, hx, honly, hdest⟩ := ready_writesD h (exec_bfi f s)
    simp only [actEnv, opWord_opened] at hdest
    refine ⟨t, _, hx, honly, hdest, ?_⟩
    rintro l o wd rfl rfl i hi
    exact getLsbD_bfiWord _ _ _ (fieldOf_eq _) hi

end Sys2Proof.Machine
end

section
/-!
Comparisons and classes (08 R216, R219, R220): the condition that each lane writes into its bit of a mask.
-/

namespace Sys2Proof.Machine

open Sys2Proof.Claims

/-- The integer conditions of 08 Table 8-5. -/
theorem intCond_iff {cc : Nat} (hcc : cc ≤ 5) (a b : Int) : intCond cc a b = true ↔ IntHolds cc a b := by
  interval_cases cc <;> simp [intCond, IntHolds]

@[simp] theorem numIsNan_eq_true {a : Num} : numIsNan a = true ↔ a = .nan := by cases a <;> simp [numIsNan]

/-- A NaN is unordered with every value: only NE and the test for it hold (08 R219). -/
theorem floatHolds_of_unordered {cc : Nat} {a b : Num} (h : a = .nan ∨ b = .nan) :
    FloatHolds cc a b ↔ cc = 7 ∨ cc = 1 := by
  have hn : ¬ (a ≠ .nan ∧ b ≠ .nan) := by tauto
  unfold FloatHolds
  rw [← and_assoc (a := a ≠ .nan), and_iff_left h, and_iff_left h]
  tauto

/-- Values that are no NaN are compared as numbers. -/
theorem floatHolds_of_ordered {cc : Nat} {a b : Num} (ha : a ≠ .nan) (hb : b ≠ .nan) :
    FloatHolds cc a b ↔ (cc = 0 ∧ numCmp a b = .eq) ∨ (cc = 1 ∧ numCmp a b ≠ .eq) ∨ (cc = 2 ∧ numCmp a b = .lt)
      ∨ (cc = 3 ∧ (numCmp a b = .lt ∨ numCmp a b = .eq)) ∨ (cc = 4 ∧ numCmp a b = .gt)
      ∨ (cc = 5 ∧ (numCmp a b = .gt ∨ numCmp a b = .eq)) ∨ cc = 6 := by
  simp only [FloatHolds, ha, hb, or_self, and_false, false_or, ne_eq, not_false_eq_true, true_and]

/-- The floating conditions of 08 Table 8-7. -/
theorem floatCond_iff {cc : Nat} (hcc : cc ≤ 7) (a b : Num) : floatCond cc a b = true ↔ FloatHolds cc a b := by
  by_cases h : a = .nan ∨ b = .nan
  · have huno : (numIsNan a || numIsNan b) = true := by simpa using h
    rw [floatHolds_of_unordered h]
    interval_cases cc <;> simp [floatCond, huno]
  · obtain ⟨ha, hb⟩ := not_or.1 h
    have hord : (numIsNan a || numIsNan b) = false := by simpa [← Bool.not_eq_true] using h
    rw [floatHolds_of_ordered ha hb]
    unfold floatCond
    generalize numCmp a b = c
    interval_cases cc <;> cases c <;> simp [hord]

section Compare
variable {f : FmtA}

theorem icmp_dst_and_code (h : encodingOk (.icmp f) = true) : kOf f.d ≠ 0 ∧ f.c.toNat ≤ 5 := by
  simp only [encodingOk, icmpOk, codeOk, Bool.and_eq_true, decide_eq_true_eq] at h
  obtain ⟨⟨⟨⟨-, hd⟩, -⟩, -⟩, hc⟩ := h
  exact ⟨kOf_ne_zero_of_isMaskDst hd, hc⟩

theorem fcmp_dst_and_code (h : encodingOk (.fcmp f) = true) : kOf f.d ≠ 0 ∧ f.c.toNat ≤ 7 := by
  simp only [encodingOk, fcmpOk, codeOk, Bool.and_eq_true, decide_eq_true_eq] at h
  obtain ⟨⟨⟨⟨-, hd⟩, -⟩, -⟩, hc⟩ := h
  exact ⟨kOf_ne_zero_of_isMaskDst hd, hc⟩

theorem fcls_dst (h : encodingOk (.fcls f) = true) : kOf f.d ≠ 0 := by
  simp only [encodingOk, fclsOk, Bool.and_eq_true] at h
  obtain ⟨⟨⟨⟨-, hd⟩, -⟩, -⟩, -⟩ := h
  exact kOf_ne_zero_of_isMaskDst hd

end Compare

/-- Settles O5, from the conditions that each instruction evaluates in a lane. -/
theorem compareWritesMask : Obligations.compare_writes_mask := by
  intro s e f
  refine ⟨fun h => ?_, fun h => ?_, fun h => ?_⟩
  · obtain ⟨hd, hc⟩ := icmp_dst_and_code (encodingOk_of_acts h.2)
    obtain ⟨t, hx, honly, hmask⟩ := ready_writesMask h (exec_icmp f s) hd
    refine ⟨t, _, hx, honly, hmask, fun l => ?_⟩
    simp only [actEnv, ivalA, ivalB, opWord_opened, op4Mask_opened, Bool.and_eq_true, intCond_iff hc, intVal_eq]
    exact and_comm
  · obtain ⟨hd, hc⟩ := fcmp_dst_and_code (encodingOk_of_acts h.2)
    obtain ⟨t, hx, honly, hmask⟩ := ready_writesMask h (exec_fcmp f s) hd
    refine ⟨t, _, hx, honly, hmask, fun l => ?_⟩
    simp only [actEnv, fvalA, fvalB, opWord_opened, op4Mask_opened, Bool.and_eq_true, floatCond_iff hc]
    exact and_comm
  · obtain ⟨t, hx, honly, hmask⟩ := ready_writesMask h (exec_fcls f s) (fcls_dst (encodingOk_of_acts h.2))
    refine ⟨t, _, hx, honly, hmask, fun l => ?_⟩
    simp only [actEnv, fbitsA, opWord_opened, op4Mask_opened, Bool.and_eq_true]
    exact and_comm

end Sys2Proof.Machine
end

section
/-!
Moves and reads of state (06 R158; 08 R215, R239 to R243), the latch of the time register among them.
-/

namespace Sys2Proof.Machine

open Sys2Proof.Claims

section ModRegs
variable {s t : State} {e : Env}

/-- A further change of the registers of the executing context. -/
theorem onlyRegs_modRegs (h : OnlyRegs s t e) (g : CtxRegs → CtxRegs) : OnlyRegs s (modRegs t e.key g) e := by
  obtain ⟨hs, hk, hfk, ⟨c, hc, hcr, hreg⟩, hf, hmem⟩ := h
  refine ⟨?_, fun k hne => ?_, hfk, ⟨{ c with r := g c.r }, ?_, ?_, hreg⟩, hf, hmem⟩
  · rw [hs]; rfl
  · exact (aget_amod_ne _ _ hne).trans (hk k hne)
  · exact (aget_amod_same _ _ _).trans (by rw [hc]; rfl)
  · rw [hcr]

theorem regsOf_modRegs {r : CtxRegs} {key : Nat} (h : regsOf t key = some r) (g : CtxRegs → CtxRegs) :
    regsOf (modRegs t key g) key = some (g r) := by
  simp only [regsOf, modRegs_ctxs, aget_amod_same, Option.map_map] at h ⊢
  obtain ⟨c, hc, rfl⟩ := Option.map_eq_some_iff.1 h
  rw [hc]
  rfl

end ModRegs

section Rsr
variable {s : State} {e : Env} {f : FmtA}

/-- Opening a region changes no special register. -/
theorem specialWord_opened (q : Req) (s t : State) (e : Env) (n lane : Nat) (ht : t.time = s.time) :
    specialWord t (openedEnv q s e) n lane = specialWord s e n lane := by
  obtain ⟨o, h⟩ := openedEnv_r q s e
  simp only [specialWord, eCore, eDie, eVi, openedEnv_key, openedEnv_g, openedEnv_co, openedEnv_la, openedEnv_fr, h, ht]

/-- The high word of the time: the word kept, if any (06 R158). -/
theorem specialWord_timehi (s : State) (e : Env) (lane : Nat) :
    specialWord s e 396 lane = e.c.r.latch.getD (BitVec.ofNat 32 (s.time / 2 ^ 32)) := by
  unfold specialWord
  cases e.c.r.latch <;> rfl

/-- A read of a special register writes its word to D and, where some lane takes part, moves the latch of `s.timehi`. -/
theorem rsr_reads (h : Ready (.rsr f) s e) :
    ∃ t r, exec (.rsr f) s = .next t ∧ OnlyRegs s t e ∧ VDestIs s t e f.d (specialWord s e f.a.toNat)
      ∧ GDestIs e.c.r r f.d (specialWord s e f.a.toNat 0)
      ∧ r = { stepped s e with g := r.g, gpoison := r.gpoison, wroteG := r.wroteG }
      ∧ regsOf t e.key = some (if movUniform f || decide (e.exec ≠ 0) then latchAfter s f.a.toNat r else r) := by
  obtain ⟨hx, ha⟩ := ready_acts h (exec_rsr f s)
  obtain ⟨honly, hv, r, hr, hstep, hg⟩ := writeD_dest ha f.d (specialWord s e f.a.toNat)
  have hw : specialWord (actState (.rsr f) s e) (openedEnv (Claims.request (.rsr f) s) s e) f.a.toNat
      = specialWord s e f.a.toNat := funext fun l => specialWord_opened _ _ _ _ _ _ rfl
  refine ⟨_, r, hx, ?_⟩
  rw [hw, ha.exec, ha.key]
  split
  · exact ⟨onlyRegs_modRegs honly _, hv, hg, hstep, regsOf_modRegs hr _⟩
  · exact ⟨honly, hv, hg, hstep, hr⟩

/-- Only reads of the time registers touch the latch. -/
theorem latchAfter_of_ne {n : Nat} (hlo : n ≠ 395) (hhi : n ≠ 396) (s : State) (r : CtxRegs) : latchAfter s n r = r := by
  unfold latchAfter
  split
  · exact absurd rfl hlo
  · exact absurd rfl hhi
  · rfl

theorem rsr_dest (h : Ready (.rsr f) s e) (hlo : f.a ≠ 395) (hhi : f.a ≠ 396) :
    ∃ t, exec (.rsr f) s = .next t ∧ OnlyRegs s t e ∧ DestIs s t e f.d (specialWord s e f.a.toNat) := by
  obtain ⟨t, r, hx, honly, hv, hg, hstep, hr⟩ := rsr_reads h
  rw [latchAfter_of_ne (by bv_omega) (by bv_omega), ite_self] at hr
  exact ⟨t, hx, honly, hv, r, hr, hstep, hg⟩

end Rsr

section Mpop

/-- The lanes of a mask are as many as its one bits. -/
theorem length_lanesOf (m : LaneMask) : (lanesOf m).length = countOnes m := rfl

/-- The lowest set bit: none below it is set, and it is, unless the mask is empty. -/
theorem lowestBit_spec (m : LaneMask) :
    lowestBit m ≤ 64 ∧ (∀ i, i < lowestBit m → m.getLsbD i = false)
    ∧ (lowestBit m < 64 → m.getLsbD (lowestBit m) = true) := by
  have hsorted : (lanesOf m).Pairwise (· < ·) := List.Pairwise.filter _ List.pairwise_lt_range
  have hnot : ∀ i, i < 64 → i ∉ lanesOf m → m.getLsbD i = false := fun i hi hn => by
    simpa [mem_lanesOf, hi] using hn
  unfold lowestBit
  split
  · next hnil => exact ⟨le_rfl, fun i hi => hnot i hi (by simp [hnil]), fun h => absurd h (lt_irrefl _)⟩
  · next l ls hcons =>
    obtain ⟨hl, hbit⟩ := mem_lanesOf.1 (hcons ▸ List.mem_cons_self : l ∈ lanesOf m)
    rw [hcons, List.pairwise_cons] at hsorted
    refine ⟨hl.le, fun i hi => hnot i (hi.trans hl) ?_, fun _ => hbit⟩
    rw [hcons, List.mem_cons, not_or]
    exact ⟨hi.ne, fun hmem => absurd (hsorted.1 i hmem) hi.asymm⟩

section Codes
variable {f : FmtA} (r : CtxRegs)

/-! What `mpop` computes, by its code. -/

theorem mpopWord_count (hc : f.c = 0) : mpopWord f r = BitVec.ofNat 32 (countOnes (maskOf r (kOf f.a))) := by
  rw [mpopWord, hc]
  exact congrArg (BitVec.ofNat 32) (length_lanesOf _)

theorem toNat_mpopWord_lowest (hc : f.c = 1) : (mpopWord f r).toNat = lowestBit (maskOf r (kOf f.a)) := by
  obtain ⟨hle, -⟩ := lowestBit_spec (maskOf r (kOf f.a))
  rw [mpopWord, hc]
  exact (BitVec.toNat_ofNat ..).trans (Nat.mod_eq_of_lt (by omega))

theorem mpopWord_low (hc : f.c = 2) : mpopWord f r = (maskOf r (kOf f.a)).extractLsb' 0 32 := by
  rw [mpopWord, hc]
  exact BitVec.setWidth_eq_extractLsb' (by decide)

theorem mpopWord_high (hc : f.c = 3) : mpopWord f r = (maskOf r (kOf f.a)).extractLsb' 32 32 := by
  rw [mpopWord, hc]
  exact BitVec.eq_of_getLsbD_eq fun i hi => by simp [hi]

end Codes

@[simp] theorem mpopWord_opened (q : Req) (s : State) (e : Env) (f : FmtA) :
    mpopWord f (openedEnv q s e).c.r = mpopWord f e.c.r := by
  rw [mpopWord, maskOf_opened, mpopWord]

theorem mpop_reads {s : State} {e : Env} {f : FmtA} (h : Ready (.mpop f) s e) :
    ∃ t w, exec (.mpop f) s = .next t ∧ OnlyRegs s t e ∧ DestIs s t e f.d (fun _ => w)
      ∧ ((f.c = 0 ∧ w = BitVec.ofNat 32 (countOnes (maskOf e.c.r (kOf f.a))))
        ∨ (f.c = 1 ∧ w.toNat ≤ 64 ∧ (∀ i, i < w.toNat → (maskOf e.c.r (kOf f.a)).getLsbD i = false)
          ∧ (w.toNat < 64 → (maskOf e.c.r (kOf f.a)).getLsbD w.toNat = true))
        ∨ (f.c = 2 ∧ w = (maskOf e.c.r (kOf f.a)).extractLsb' 0 32)
        ∨ (f.c = 3 ∧ w = (maskOf e.c.r (kOf f.a)).extractLsb' 32 32)) := by
  have hcode : f.c = 0 ∨ f.c = 1 ∨ f.c = 2 ∨ f.c = 3 := by
    have hok : mpopOk f = true := encodingOk_of_acts h.2
    simp only [mpopOk, codeOk, Bool.and_eq_true, decide_eq_true_eq] at hok
    obtain ⟨-, hc⟩ := hok
    bv_omega
  obtain ⟨t, hx, honly, hdest⟩ := ready_writesD h (exec_mpop f s)
  simp only [actEnv, mpopWord_opened] at hdest
  refine ⟨t, mpopWord f e.c.r, hx, honly, hdest, ?_⟩
  rcases hcode with hc | hc | hc | hc
  · exact .inl ⟨hc, mpopWord_count _ hc⟩
  · rw [toNat_mpopWord_lowest _ hc]
    exact .inr (.inl ⟨hc, lowestBit_spec _⟩)
  · exact .inr (.inr (.inl ⟨hc, mpopWord_low _ hc⟩))
  · exact .inr (.inr (.inr ⟨hc, mpopWord_high _ hc⟩))

end Mpop

theorem selectsMovesAndReads : MovesAndReads := by
  intro s e f
  refine ⟨fun h => ?_, fun h => ?_, fun h => ?_, rsr_dest, fun h => ?_, mpop_reads⟩
  · simpa only [actEnv, maskOf_opened, opWord_opened] using ready_writesD h (exec_sel f s)
  · simpa only [actEnv, opWord_opened_all] using ready_writesD h (exec_mov f s)
  · simpa only [actEnv, opWord_opened_all] using ready_writesD h (exec_movi f s)
  · simpa only [actEnv, fmt_opened] using ready_writesD h (exec_fmtr f s)

theorem timeLatch : TimeLatch := by
  intro s e f h ha hlane
  obtain ⟨t, r, hx, honly, hv, hg, hstep, hr⟩ := rsr_reads h
  rw [if_pos (by simpa using hlane)] at hr
  rcases ha with ha | ha <;> rw [ha] at hv hg hr
  · refine ⟨t, _, BitVec.ofNat 32 s.time, hx, honly, hv, hr, ?_, hg, fun _ => ⟨rfl, rfl⟩, fun h' => ?_⟩
    · rw [hstep]; rfl
    · exact absurd (ha.symm.trans h') (by decide)
  · have hw : specialWord s e (396 : Spec).toNat = fun _ => e.c.r.latch.getD (BitVec.ofNat 32 (s.time / 2 ^ 32)) :=
      funext fun l => specialWord_timehi s e l
    rw [hw] at hv hg
    refine ⟨t, _, _, hx, honly, hv, hr, ?_, hg, fun h' => ?_, fun _ => ⟨rfl, rfl⟩⟩
    · rw [hstep]; rfl
    · exact absurd (ha.symm.trans h') (by decide)

/-- Settles O6, from the word that each instruction writes to D and what a read of the time does to the latch. -/
theorem movesAndReads : Obligations.moves_and_reads := ⟨selectsMovesAndReads, timeLatch⟩

end Sys2Proof.Machine
end

section
/-!
Floating selections (08 R217, R218): `fmin` and `fmax`, the sign bits, integral values.
-/

namespace Sys2Proof.Machine

open Sys2Proof.Claims

/-! ## Operands as numbers (08 R217) -/

section FloatOperands
variable (q : Req) (s : State) (e : Env) (f : FmtA) (l j : Nat)

/-- The containers that the model and the statements compute with are the same. -/
theorem fvalA_eq : fvalA e f l j = floatA e f l j := by rw [fvalA, floatA, elem_eq]
theorem fvalB_eq : fvalB e f l j = floatB e f l j := by rw [fvalB, floatB, elem_eq]

@[simp] theorem fvalA_opened : fvalA (openedEnv q s e) f l j = floatA e f l j := by
  rw [← fvalA_eq, fvalA, opWord_opened, fvalA]
@[simp] theorem fvalB_opened : fvalB (openedEnv q s e) f l j = floatB e f l j := by
  rw [← fvalB_eq, fvalB, opWord_opened, fvalB]
@[simp] theorem fbitsA_opened : fbitsA (openedEnv q s e) f l j
    = (el (elemBits f.ty.toNat) j (opWord e f.ty.toNat f.imm f.a l)).toNat := by
  rw [fbitsA, opWord_opened, elem_eq]

end FloatOperands

/-! ## The order of `fmin` and `fmax` (08 R218) -/

section Order
variable {a b : Num}

theorem numCmp_self (a : Num) : numCmp a a = .eq := by
  cases a <;> simp [numCmp]

theorem numCmp_swap (ha : a ≠ .nan) (hb : b ≠ .nan) : numCmp b a = (numCmp a b).swap := by
  match a, b with
  | .nan, _ => exact absurd rfl ha
  | _, .nan => exact absurd rfl hb
  | .inf x, .inf y => cases x <;> cases y <;> rfl
  | .inf x, .fin .. => cases x <;> rfl
  | .fin .., .inf y => cases y <;> rfl
  | .fin _ _ ea, .fin _ _ eb =>
    simp only [numCmp, min_comm eb ea]
    exact Std.OrientedCmp.eq_swap

theorem numLt_irrefl (a : Num) : numLt a a = false := by
  simp [numLt, numCmp_self]

theorem numLt_asymm (ha : a ≠ .nan) (hb : b ≠ .nan) (h : numLt a b = true) : numLt b a = false := by
  unfold numLt at h ⊢
  rw [numCmp_swap ha hb]
  cases hc : numCmp a b <;> simp_all

theorem numMinMax_nan_left (mx : Bool) (b : Num) : numMinMax mx .nan b = b := rfl

theorem numMinMax_nan_right (mx : Bool) (a : Num) : numMinMax mx a .nan = a := by cases a <;> rfl

theorem numMinMax_min (ha : a ≠ .nan) (hb : b ≠ .nan) : numMinMax false a b = if numLt b a then b else a := by
  simp [numMinMax, ha, hb]

theorem numMinMax_max (ha : a ≠ .nan) (hb : b ≠ .nan) : numMinMax true a b = if numLt a b then b else a := by
  simp [numMinMax, ha, hb]

/-- One of the two operands, and neither of them comes before it, or after it for `fmax`. -/
theorem numMinMax_spec (mx : Bool) (ha : a ≠ .nan) (hb : b ≠ .nan) :
    (numMinMax mx a b = a ∨ numMinMax mx a b = b)
    ∧ numLt (if mx then numMinMax mx a b else a) (if mx then a else numMinMax mx a b) = false
    ∧ numLt (if mx then numMinMax mx a b else b) (if mx then b else numMinMax mx a b) = false := by
  cases mx with
  | false =>
    rw [numMinMax_min ha hb]
    split
    · next h => exact ⟨.inr rfl, numLt_asymm hb ha h, numLt_irrefl b⟩
    · next h => exact ⟨.inl rfl, numLt_irrefl a, by simpa using h⟩
  | true =>
    rw [numMinMax_max ha hb]
    split
    · next h => exact ⟨.inr rfl, numLt_asymm ha hb h, numLt_irrefl b⟩
    · next h => exact ⟨.inl rfl, numLt_irrefl a, by simpa using h⟩

end Order

section MinMax
variable {s : State} {e : Env} {f : FmtA} {mx : Bool} {i : Instr}

theorem minMax_dest (hi : i = if mx then .fmax f else .fmin f) (h : Ready i s e) :
    ∃ t, exec i s = .next t ∧ OnlyRegs s t e
      ∧ DestIs s t e f.d (fun l => exactResult f (fun j => numMinMax mx (floatA e f l j) (floatB e f l j))) := by
  cases mx with
  | false =>
    obtain rfl : i = .fmin f := hi
    simpa only [actEnv, fvalA_opened, fvalB_opened] using ready_writesD h (exec_fmin f s)
  | true =>
    obtain rfl : i = .fmax f := hi
    simpa only [actEnv, fvalA_opened, fvalB_opened] using ready_writesD h (exec_fmax f s)

end MinMax

theorem floatMinMax : FloatMinMax := by
  intro s e f mx i hi h
  obtain ⟨t, hx, honly, hdest⟩ := minMax_dest hi h
  refine ⟨t, _, fun l j => numMinMax mx (floatA e f l j) (floatB e f l j), hx, honly, hdest, fun l j hj =>
    ⟨el_mapElems _ _ _ hj, fun ha => ?_, fun hb => ?_, numMinMax_spec mx⟩⟩
  · simp only [ha, numMinMax_nan_left]
  · simp only [hb, numMinMax_nan_right]

/-! ## Signs (08 R217; 03 R62) -/

section Sign
variable {f : Nat}

theorem signBit_eq (hf : f ≤ 2) : signBit f = 2 ^ (elemBits f - 1) := by
  interval_cases f <;> rfl

theorem nanBits_lt (hf : f ≤ 2) : nanBits f < 2 ^ elemBits f := by
  interval_cases f <;> decide

theorem elemBits_pos (f : Nat) : 0 < elemBits f := by
  rcases elemBits_cases f with h | h | h <;> omega

/-- The encodings of a NaN (03 R60). -/
theorem ieeeVal_eq_nan_iff (f bits : Nat) : ieeeVal f bits = .nan ↔ infBits f < bits % signBit f := by
  unfold ieeeVal
  simp only
  split
  · simpa
  · split
    · simp_all
    · split <;> simp_all

theorem absBits_of_nan {bits : Nat} (h : ieeeVal f bits = .nan) : absBits f bits = nanBits f :=
  if_pos ((ieeeVal_eq_nan_iff f bits).1 h)
theorem negBits_of_nan {bits : Nat} (h : ieeeVal f bits = .nan) : negBits f bits = nanBits f :=
  if_pos ((ieeeVal_eq_nan_iff f bits).1 h)
theorem absBits_of_ne_nan {bits : Nat} (h : ieeeVal f bits ≠ .nan) : absBits f bits = bits % signBit f :=
  if_neg (mt (ieeeVal_eq_nan_iff f bits).2 h)
theorem negBits_of_ne_nan {bits : Nat} (h : ieeeVal f bits ≠ .nan) :
    negBits f bits = (bits + signBit f) % (2 * signBit f) :=
  if_neg (mt (ieeeVal_eq_nan_iff f bits).2 h)

/-- The canonical NaN fits its container. -/
theorem toNat_ofNat_nanBits (hf : f ≤ 2) : (BitVec.ofNat (elemBits f) (nanBits f)).toNat = nanBits f :=
  (BitVec.toNat_ofNat ..).trans (Nat.mod_eq_of_lt (nanBits_lt hf))

theorem toNat_absBits_of_nan (hf : f ≤ 2) {bits : Nat} (h : ieeeVal f bits = .nan) :
    (BitVec.ofNat (elemBits f) (absBits f bits)).toNat = nanBits f := by
  rw [absBits_of_nan h, toNat_ofNat_nanBits hf]

theorem toNat_negBits_of_nan (hf : f ≤ 2) {bits : Nat} (h : ieeeVal f bits = .nan) :
    (BitVec.ofNat (elemBits f) (negBits f bits)).toNat = nanBits f := by
  rw [negBits_of_nan h, toNat_ofNat_nanBits hf]

variable (b : BitVec (elemBits f)) {k : Nat}

/-- `fabs` of a number clears the top bit and keeps the others. -/
theorem getLsbD_absBits (hf : f ≤ 2) (hb : ieeeVal f b.toNat ≠ .nan) (hk : k < elemBits f) :
    (BitVec.ofNat (elemBits f) (absBits f b.toNat)).getLsbD k = (b.getLsbD k && decide (k + 1 < elemBits f)) := by
  have hiff : k < elemBits f - 1 ↔ k + 1 < elemBits f := by omega
  rw [absBits_of_ne_nan hb, signBit_eq hf, BitVec.getLsbD_ofNat, Nat.testBit_mod_two_pow, decide_eq_true hk, Bool.true_and,
    decide_eq_decide.2 hiff, Bool.and_comm]
  rfl

/-- `fneg` of a number inverts the top bit and keeps the others. -/
theorem getLsbD_negBits (hf : f ≤ 2) (hb : ieeeVal f b.toNat ≠ .nan) (hk : k < elemBits f) :
    (BitVec.ofNat (elemBits f) (negBits f b.toNat)).getLsbD k = (b.getLsbD k != decide (k + 1 = elemBits f)) := by
  have hpos := elemBits_pos f
  rw [negBits_of_ne_nan hb, signBit_eq hf, ← Nat.pow_succ', Nat.succ_eq_add_one, Nat.sub_add_cancel hpos,
    BitVec.getLsbD_ofNat, Nat.testBit_mod_two_pow, decide_eq_true hk, Bool.true_and, Bool.true_and, Nat.add_comm]
  by_cases htop : k + 1 = elemBits f
  · obtain rfl : k = elemBits f - 1 := by omega
    rw [Nat.testBit_two_pow_add_eq, decide_eq_true htop, Bool.bne_true]
    rfl
  · rw [Nat.testBit_two_pow_add_gt (by omega), decide_eq_false htop, Bool.bne_false]
    rfl

end Sign

/-- A ready instruction that maps the bits of each container of A. -/
theorem ready_mapsContainers {i : Instr} {s : State} {e : Env} {f : FmtA} (g : Nat → Nat) (h : Ready i s e)
    (hx : exec i s = issue i (Claims.request i s)
      (fun e s => writeD s e f.d (fun l => mapElems f.ty.toNat (fun j => g (fbitsA e f l j)))) s)
    (hs : (Claims.request i s).stall = false := by rfl) (hb : (Claims.request i s).bare = false := by rfl) :
    ∃ t w, exec i s = .next t ∧ OnlyRegs s t e ∧ DestIs s t e f.d w ∧ ∀ l j, j < nc f.ty.toNat →
      el (elemBits f.ty.toNat) j (w l)
        = BitVec.ofNat _ (g (el (elemBits f.ty.toNat) j (opWord e f.ty.toNat f.imm f.a l)).toNat) := by
  obtain ⟨t, hn, honly, hdest⟩ := ready_writesD h hx hs hb
  simp only [actEnv, fbitsA_opened] at hdest
  exact ⟨t, _, hn, honly, hdest, fun l j hj => el_mapElems _ _ _ hj⟩

theorem ty_le_of_flt1Ok {f : FmtA} {sf : Bool} (h : flt1Ok f sf = true) : f.ty.toNat ≤ 2 := by
  simp only [flt1Ok, isFloatTy, Bool.and_eq_true, decide_eq_true_eq] at h
  obtain ⟨⟨⟨⟨⟨-, hty⟩, -⟩, -⟩, -⟩, -⟩ := h
  exact hty

/-! ## Integral values (08 R217) -/

theorem frndNum_of_not_fin {mode : Nat} {x : Num} (h : ∀ neg m y, x ≠ .fin neg m y) : frndNum mode x = x := by
  cases x with
  | nan | inf => rfl
  | fin neg m y => exact absurd rfl (h neg m y)

theorem floatSignAndIntegral : FloatSignAndIntegral := by
  intro s e f
  refine ⟨fun h => ?_, fun h => ?_, fun h => ?_⟩
  · have hty := ty_le_of_flt1Ok (encodingOk_of_acts h.2)
    obtain ⟨t, w, hx, honly, hdest, hw⟩ := ready_mapsContainers (absBits f.ty.toNat) h (exec_fabs f s)
    refine ⟨t, w, hx, honly, hdest, ?_⟩
    rintro l j hj b rfl
    rw [hw l j hj]
    exact ⟨toNat_absBits_of_nan hty, fun hnum k hk => getLsbD_absBits _ hty hnum hk⟩
  · have hty := ty_le_of_flt1Ok (encodingOk_of_acts h.2)
    obtain ⟨t, w, hx, honly, hdest, hw⟩ := ready_mapsContainers (negBits f.ty.toNat) h (exec_fneg f s)
    refine ⟨t, w, hx, honly, hdest, ?_⟩
    rintro l j hj b rfl
    rw [hw l j hj]
    exact ⟨toNat_negBits_of_nan hty, fun hnum k hk => getLsbD_negBits _ hty hnum hk⟩
  · obtain ⟨t, hx, honly, hdest⟩ := ready_writesD h (exec_frnd f s)
    simp only [actEnv, fvalA_opened, modeOf_opened] at hdest
    refine ⟨t, _, hx, honly, hdest, fun l j hj => ?_⟩
    rw [exactResult, el_mapElems _ _ _ hj]
    refine ⟨fun neg m x hx => ?_, fun hx => ?_⟩
    · rw [hx]; rfl
    · rw [frndNum_of_not_fin hx]

/-- Settles O10, from the order of the operands, the sign bits and the integral values, container by container. -/
theorem floatSelections : Obligations.float_selections := ⟨floatMinMax, floatSignAndIntegral⟩

end Sys2Proof.Machine
end

section
/-!
The matrix engine (11 R317 to R340): the checks that a matrix instruction passes at issue, how an accumulator write is
held, the rows that `accrd` reads, and the words that a completed write leaves.
-/

namespace Sys2Proof.Machine

open Sys2Proof.Claims

/-! ## Checks at issue (11 Table 11-5) -/

section Checks
variable {e : Env} {f : FmtX} {rows : Nat}

theorem slotTrap_eq_none {en : Bool} {slot : Nat} {mask : BitVec 8}
    (h : en = true → e.g.slots.getLsbD slot = false) : slotTrap e en slot mask = none := by
  unfold slotTrap
  cases en with
  | false => rfl
  | true => rw [h rfl]; rfl

theorem matrixTrap_eq_none (h : MatrixOk e f rows) : matrixTrap e f rows = none := by
  obtain ⟨hwidth, hmask, hrows, hslot⟩ := h
  have hfull : fullMask e = true := by simp [fullMask, hwidth, hmask]
  simp only [matrixTrap, hfull, slotTrap_eq_none hslot, accLimit, hrows.not_gt, Bool.not_true, Bool.false_eq_true,
    if_false, Option.orElse_none]

/-- No register of the fragments is poisoned in any lane (11 R339). -/
theorem fragPoison_eq_none {regs : List Nat} (h : CleanRegs e regs) : fragPoison e regs = none := by
  rw [fragPoison, List.findSome?_eq_none_iff]
  intro l hl
  rw [Option.map_eq_none_iff, List.find?_eq_none]
  intro n hn
  obtain ⟨-, hclean⟩ := h n hn
  simp [hclean l (List.mem_range.1 hl)]

/-! Opening a region leaves what the checks look at. -/

theorem matrixOk_opened (q : Req) (s : State) : MatrixOk (openedEnv q s e) f rows ↔ MatrixOk e f rows := by
  simp only [MatrixOk, openedEnv_g, openedEnv_la, m0_opened]

theorem cleanRegs_opened (q : Req) (s : State) (regs : List Nat) :
    CleanRegs (openedEnv q s e) regs ↔ CleanRegs e regs := by
  simp only [CleanRegs, openedEnv_la, openedEnv_fr]

end Checks

/-! ## Holding an accumulator write (11 R331) -/

section Hold
variable {s : State} {e : Env} {i : Instr}

theorem busySlot_eq (s : State) (e : Env) (en : Bool) (slot : Nat) :
    busySlot s e en slot = { s with groups := (busySlot s e en slot).groups } := by
  unfold busySlot
  split <;> rfl

theorem aget_busySlot_groups (s : State) (e : Env) (en : Bool) (slot n : Nat) :
    aget (busySlot s e en slot).groups n = if n = e.c.group ∧ en = true
      then (aget s.groups n).map (fun g => { g with slots := g.slots ||| (1#8 <<< slot) }) else aget s.groups n := by
  unfold busySlot
  cases en with
  | false => simp
  | true =>
    rw [if_pos rfl, modGroup_groups, aget_amod]
    by_cases hn : n = e.c.group
    · subst hn; simp
    · simp [hn]

/-- Putting an operation into the region and going to the next slot; the groups may have changed before. -/
theorem holds_finish_holdOp (ha : Acting s e (actState i s e) (actEnv i s e)) (groups : Amap Group) (h : Held) :
    Holds s (finish (holdOp { actState i s e with groups := groups } (actEnv i s e) h) (actEnv i s e) id) i e h 0 := by
  obtain ⟨r, hr, hs⟩ := ha.state
  have hctxs : (finish (holdOp { actState i s e with groups := groups } (actEnv i s e) h) (actEnv i s e) id).ctxs
      = amod (amod (aput s.ctxs e.key (actEnv i s e).c) (actEnv i s e).key
          (fun c => { c with region := c.region.map (fun r => { r with items := r.items ++ [.held h] }) }))
          (actEnv i s e).key (fun c => { c with r := advance c.r }) := rfl
  rw [ha.key] at hctxs
  refine ⟨rfl, fun k hk => ?_, _, r, by rw [hr], ?_, rfl⟩
  · rw [hctxs, aget_amod_ne _ _ hk, aget_amod_ne _ _ hk, aget_aput_ne _ _ hk]
  · rw [hctxs, aget_amod_same, aget_amod_same, aget_aput_same, hr]
    rfl

/-- Every accumulator write is held with the row, the format, the sign and the overflow table of its issue, whatever
register words it has read. -/
theorem holdAcc_holdsAcc (ha : Acting s e (actState i s e) (actEnv i s e)) (f : FmtX) (kind : AccKind)
    (wa was wb wbs : List (List Word)) :
    HoldsAcc s (holdAcc (actState i s e) (actEnv i s e) f
        { accBase_ (actEnv i s e) f kind with a := wa, as_ := was, b := wb, bs := wbs }) i e f kind
      { accBase_ (actEnv i s e) f kind with a := wa, as_ := was, b := wb, bs := wbs } := by
  have hheld := holds_finish_holdOp ha
    (busySlot (actState i s e) (actEnv i s e) f.seten f.setslot.toNat).groups
    (.acc { accBase_ (actEnv i s e) f kind with a := wa, as_ := was, b := wb, bs := wbs })
  rw [← busySlot_eq] at hheld
  obtain ⟨r, hr, -⟩ := ha.state
  refine ⟨hheld, rfl, ?_, ?_, rfl, rfl, ?_, rfl, ?_, rfl, fun n => ?_⟩
  · exact congrArg (fun k => [k]) ha.key
  · exact congrArg Frame.tag ha.fr
  · simp only [accBase_, hr]
  · simp only [accBase_, hr]
  · have hgroup : (actEnv i s e).c.group = e.c.group := by rw [hr]
    exact (aget_busySlot_groups _ _ _ _ n).trans (by rw [hgroup]; rfl)

/-- A product whose checks pass is held with its fragments, and with the scale fragments that are in use (11 R319,
R325). -/
theorem product_held {f : FmtX} {kind : AccKind} (hready : Ready i s e)
    (hx : exec i s = issue i (Claims.request i s) (productDo kind f) s) (hok : MatrixOk e f 64)
    (hfits : fmtFits f.shape.toNat e.c.r.fmt = true) (hclean : CleanRegs e (productRegs f e.c.r.fmt))
    (hs : (Claims.request i s).stall = false) (hb : (Claims.request i s).bare = false) :
    ∃ t a, exec i s = .next t ∧ HoldsAcc s t i e f kind a
      ∧ a.a = wordsOf e (fragList f.abase.toNat f.shape.toNat) ∧ a.b = wordsOf e (fragList f.bbase.toNat f.shape.toNat)
      ∧ a.as_ = (if f.shape ≠ 2 ∧ e.c.r.fmt.getLsbD 12 = true
        then wordsOf e (fragList (f.abase.toNat + fragRegs f.shape.toNat) f.shape.toNat) else [])
      ∧ a.bs = (if f.shape ≠ 2 ∧ e.c.r.fmt.getLsbD 13 = true
        then wordsOf e (fragList (f.bbase.toNat + fragRegs f.shape.toNat) f.shape.toNat) else []) := by
  obtain ⟨hn, ha⟩ := ready_acts hready hx hs hb
  -- no register of a fragment lies beyond VREGS, and no check traps
  have hbelow : (productRegs f e.c.r.fmt).any (fun n => pkVregs e.la.pkt ≤ n) = false := by
    rw [List.any_eq_false]
    intro n hn
    obtain ⟨hlt, -⟩ := hclean n hn
    simpa using hlt
  have htrap := matrixTrap_eq_none ((matrixOk_opened (Claims.request i s) s).2 hok)
  have hpoison := fragPoison_eq_none ((cleanRegs_opened (Claims.request i s) s _).2 hclean)
  have hshape : f.shape ≠ 2 ↔ f.shape.toNat ≠ 2 := by bv_omega
  have hwords : ∀ base, fragWords (openedEnv (Claims.request i s) s e) base f.shape.toNat
      = wordsOf e (fragList base f.shape.toNat) := fun base => by
    simp only [fragWords, wordsOf, openedEnv_fr]
  simp only [productDo, fmt_opened, openedEnv_la, hfits, hbelow, htrap, hpoison, Bool.not_true, Bool.or_self,
    Bool.false_eq_true, if_false, Option.orElse_none] at hn
  refine ⟨_, _, hn, holdAcc_holdsAcc ha f kind _ _ _ _, hwords _, hwords _, ?_, ?_⟩
  · simp only [useAsc, hwords, hshape, Bool.and_eq_true, decide_eq_true_eq]
  · simp only [useBsc, hwords, hshape, Bool.and_eq_true, decide_eq_true_eq]

theorem accz_held {f : FmtX} (hready : Ready (.accz f) s e) (hok : MatrixOk e f 64) :
    ∃ t a, exec (.accz f) s = .next t ∧ HoldsAcc s t (.accz f) e f .accz a := by
  obtain ⟨hn, ha⟩ := ready_acts hready (exec_accz f s)
  rw [matrixTrap_eq_none ((matrixOk_opened _ s).2 hok)] at hn
  exact ⟨_, _, hn, holdAcc_holdsAcc ha f .accz [] [] [] []⟩

theorem accwr_held {f : FmtX} (hready : Ready (.accwr f) s e) (hok : MatrixOk e f 8)
    (hclean : CleanRegs e (eightRegs f.bbase.toNat)) :
    ∃ t a, exec (.accwr f) s = .next t ∧ HoldsAcc s t (.accwr f) e f .accwr a
      ∧ a.a = wordsOf e (eightRegs f.bbase.toNat) := by
  obtain ⟨hn, ha⟩ := ready_acts hready (by rw [exec_accwr]; unfold execAccwr; rfl)
  rw [matrixTrap_eq_none ((matrixOk_opened _ s).2 hok), fragPoison_eq_none ((cleanRegs_opened _ s _).2 hclean)] at hn
  refine ⟨_, _, hn, holdAcc_holdsAcc ha f .accwr _ [] [] [], ?_⟩
  simp only [wordsOf, openedEnv_fr]

end Hold

/-! ## Reading rows (11 R329) -/

section Read
variable {s : State} {e : Env}

theorem mem_rowWords {co : Cohort} {base row k : Nat} {w : Word} :
    (k, w) ∈ rowWords co base row ↔
      ∃ i n, i < 8 ∧ n < 64 ∧ k = 64 * (base + i) + n ∧ w = agetD co.acc 0 ((row + i) * 64 + n) := by
  simp only [rowWords, accWord, List.mem_flatMap, List.mem_map, List.mem_range, Prod.mk.injEq]
  constructor
  · rintro ⟨i, hi, n, hn, rfl, rfl⟩
    exact ⟨i, n, hi, hn, rfl, rfl⟩
  · rintro ⟨i, n, hi, hn, rfl, rfl⟩
    exact ⟨i, hi, n, hn, rfl, rfl⟩

theorem mem_rowPoison {co : Cohort} {base row k : Nat} :
    k ∈ rowPoison co base row ↔
      ∃ i n, i < 8 ∧ n < 64 ∧ k = 64 * (base + i) + n ∧ agetD co.accPoison false ((row + i) * 64 + n) = true := by
  simp only [rowPoison, List.mem_flatMap, List.mem_filterMap, List.mem_range,
    Option.ite_none_right_eq_some, Option.some.injEq]
  constructor
  · rintro ⟨i, hi, n, hn, hp, rfl⟩
    exact ⟨i, n, hi, hn, rfl, hp⟩
  · rintro ⟨i, n, hi, hn, rfl, hp⟩
    exact ⟨i, hi, n, hn, hp, rfl⟩

/-- A key of the v words names one register and one lane. -/
theorem vKey_inj {n m l k : Nat} (hl : l < 64) (hk : k < 64) (h : 64 * n + l = 64 * m + k) : n = m ∧ l = k := by
  omega

theorem rowWords_functional (co : Cohort) (base row : Nat) :
    ∀ p ∈ rowWords co base row, ∀ q ∈ rowWords co base row, p.1 = q.1 → p.2 = q.2 := by
  rintro ⟨k, w⟩ hp ⟨k', w'⟩ hq (rfl : k = k')
  obtain ⟨i, n, -, hn, rfl, rfl⟩ := mem_rowWords.1 hp
  obtain ⟨i', n', -, hn', hk, rfl⟩ := mem_rowWords.1 hq
  obtain ⟨hi, rfl⟩ := vKey_inj hn hn' hk
  obtain rfl : i = i' := by omega
  rfl

/-- The poison of a word after listed words have been marked in both halves. -/
theorem agetD_foldl_mark (ks : List Nat) (m : Amap (BitVec 2)) (k : Nat) :
    agetD (ks.foldl (fun m k => aput m k 3#2) m) 0 k = if k ∈ ks then 3 else agetD m 0 k := by
  induction ks generalizing m with
  | nil => simp
  | cons j r ih =>
    rw [List.foldl_cons, ih, agetD_aput]
    by_cases hk : k = j
    · subst hk; simp
    · simp [hk]

/-- The frame after v words are written whole and some are then marked poisoned. -/
def markedFrame (fr : Frame) (vals : List (Nat × Word)) (keys : List Nat) : Frame :=
  { fr with
    v := vals.foldl (fun m p => asetD m 0 p.1 p.2) fr.v
    vpoison := keys.foldl (fun m k => aput m k 3#2)
      (vals.foldl (fun m p => asetD m 0 p.1 (agetD m 0 p.1 &&& ~~~(3 : BitVec 2))) fr.vpoison) }

/-- What writing v words, marking some of them and going to the next slot leaves. -/
theorem finish_poisonV_writeV {s1 : State} {e1 : Env} (ha : Acting s e s1 e1) (vals : List (Nat × Word))
    (keys : List Nat) :
    OnlyRegs s (finish (poisonV (writeV s1 e1.key 3 vals) e1.key keys) e1 id) e
    ∧ regsOf (finish (poisonV (writeV s1 e1.key 3 vals) e1.key keys) e1 id) e.key = some (stepped s e)
    ∧ aget (finish (poisonV (writeV s1 e1.key 3 vals) e1.key keys) e1 id).frames (frameKeyOf e.key)
      = some (markedFrame e.fr vals keys) := by
  obtain ⟨r, hr, rfl⟩ := ha.state
  obtain ⟨r', hr'⟩ := shadowV_region (c := e1.c) (by rw [hr]) e.fr (vals.map (·.1))
  rw [ha.key, writeV_eq (aget_aput_same _ _ _) (show aget (setCtx s e.key e1.c).frames _ = _ from ha.frame) 3 vals, hr']
  set t := finish (poisonV _ e.key keys) e1 id with ht
  have hctxs : t.ctxs = amod (aput (aput s.ctxs e.key e1.c) e.key { e1.c with region := some r' }) e.key
      (fun c => { c with r := advance c.r }) := by
    rw [ht, ← ha.key]; rfl
  have hframes : t.frames = amod (aput s.frames (frameKeyOf e.key) { e.fr with
      v := vals.foldl (fun m p => asetD m 0 p.1 p.2) e.fr.v
      vpoison := vals.foldl (fun m p => asetD m 0 p.1 (agetD m 0 p.1 &&& ~~~(3 : BitVec 2))) e.fr.vpoison })
      (frameKeyOf e.key) (fun f => { f with vpoison := keys.foldl (fun m k => aput m k 3#2) f.vpoison }) := rfl
  have hctx : aget t.ctxs e.key = some { e1.c with r := advance e1.c.r, region := some r' } := by
    rw [hctxs, aget_amod_same, aget_aput_same]; rfl
  have hframe : aget t.frames (frameKeyOf e.key) = some (markedFrame e.fr vals keys) := by
    rw [hframes, aget_amod_same, aget_aput_same]; rfl
  refine ⟨onlyRegs_of (r := r') rfl (fun k hk => ?_) (fun k hk => ?_) hctx ?_ hframe rfl, ?_, hframe⟩
  · rw [hctxs, aget_amod_ne _ _ hk, aget_aput_ne _ _ hk, aget_aput_ne _ _ hk]
  · rw [hframes, aget_amod_ne _ _ hk, aget_aput_ne _ _ hk]
  · rw [hr]
  · rw [regsOf, hctx, hr]; rfl

/-- A word of the eight registers holds the word and the poison of its row; every other word is as it was. -/
theorem markedFrame_rows (fr : Frame) (co : Cohort) (base row : Nat) {n l : Nat} (hl : l < 64) :
    (base ≤ n ∧ n < base + 8 →
      vAt (markedFrame fr (rowWords co base row) (rowPoison co base row)) n l
        = agetD co.acc 0 ((row + (n - base)) * 64 + l)
      ∧ vPoisonAt (markedFrame fr (rowWords co base row) (rowPoison co base row)) n l
        = if agetD co.accPoison false ((row + (n - base)) * 64 + l) then 3 else 0)
    ∧ (¬ (base ≤ n ∧ n < base + 8) →
      vAt (markedFrame fr (rowWords co base row) (rowPoison co base row)) n l = vAt fr n l
      ∧ vPoisonAt (markedFrame fr (rowWords co base row) (rowPoison co base row)) n l = vPoisonAt fr n l) := by
  obtain ⟨hin, hout⟩ := agetD_foldl_pairs (rowWords co base row) fr.v (64 * n + l) (rowWords_functional co base row)
  have hclear : ∀ x : BitVec 2, x &&& ~~~(3 : BitVec 2) = 0 := by decide
  simp only [vAt, vPoisonAt, markedFrame, agetD_foldl_mark, agetD_foldl_halves]
  refine ⟨fun hn => ?_, fun hn => ?_⟩
  · have hword : (64 * n + l, agetD co.acc 0 ((row + (n - base)) * 64 + l)) ∈ rowWords co base row :=
      mem_rowWords.2 ⟨n - base, l, by omega, hl, by omega, rfl⟩
    have hpoison : 64 * n + l ∈ rowPoison co base row
        ↔ agetD co.accPoison false ((row + (n - base)) * 64 + l) = true := by
      rw [mem_rowPoison]
      constructor
      · rintro ⟨i, k, -, hk, hkey, hp⟩
        obtain ⟨rfl, rfl⟩ := vKey_inj hl hk hkey
        rwa [Nat.add_sub_cancel_left]
      · exact fun hp => ⟨n - base, l, by omega, hl, by omega, hp⟩
    have hwritten : ∃ w, (64 * n + l, w) ∈ rowWords co base row := ⟨_, hword⟩
    rw [hin _ hword, if_pos hwritten, hclear]
    simp only [hpoison, and_self]
  · have hword : ∀ w, (64 * n + l, w) ∉ rowWords co base row := fun w hw => by
      obtain ⟨i, k, hi, hk, hkey, -⟩ := mem_rowWords.1 hw
      exact hn (by omega)
    have hpoison : 64 * n + l ∉ rowPoison co base row := fun hp => by
      obtain ⟨i, k, hi, hk, hkey, -⟩ := mem_rowPoison.1 hp
      exact hn (by omega)
    rw [hout (fun p hp hk => hword p.2 (hk ▸ hp)), if_neg hpoison, if_neg (fun ⟨w, hw⟩ => hword w hw)]
    exact ⟨rfl, rfl⟩

/-- Opening a region holds no accumulator write. -/
theorem ownRows_opened (q : Req) (s : State) (e : Env) (row : Nat) :
    ownRows (openedEnv q s e).c row = ownRows e.c row := by
  have hitems : regionItems (openedEnv q s e).c = regionItems e.c := by
    unfold openedEnv opened
    split
    · rfl
    · cases h : e.c.region <;> simp [regionItems, newRegion, h]
  simp only [ownRows, hitems]

theorem rowsPending_actState (i : Instr) (s : State) (e : Env) (row : Nat) :
    rowsPending (actState i s e) (openedEnv (Claims.request i s) s e) row = rowsPending s e row := by
  simp only [rowsPending, openedEnv_key]
  rfl

theorem accrd_reads {f : FmtX} (hready : Ready (.accrd f) s e) (hok : MatrixOk e f 8)
    (hown : ownRows e.c f.accrow.toNat = false) (hpend : rowsPending s e f.accrow.toNat = false) :
    ∃ t, exec (.accrd f) s = .next t ∧ OnlyRegs s t e ∧ regsOf t e.key = some (stepped s e)
      ∧ ∀ n l, l < 64 →
        (f.abase.toNat ≤ n ∧ n < f.abase.toNat + 8 →
          vReg t e.key n l = agetD e.co.acc 0 ((f.accrow.toNat + (n - f.abase.toNat)) * 64 + l)
          ∧ vPoison t e.key n l
            = if agetD e.co.accPoison false ((f.accrow.toNat + (n - f.abase.toNat)) * 64 + l) then 3 else 0)
        ∧ (¬ (f.abase.toNat ≤ n ∧ n < f.abase.toNat + 8) →
          vReg t e.key n l = vReg s e.key n l ∧ vPoison t e.key n l = vPoison s e.key n l) := by
  obtain ⟨hn, ha⟩ := ready_acts hready (by rw [exec_accrd]; unfold execAccrd; rfl)
  rw [matrixTrap_eq_none ((matrixOk_opened _ s).2 hok)] at hn
  simp only [ownRows_opened, hown, rowsPending_actState, hpend, Bool.false_eq_true, if_false, openedEnv_co] at hn
  obtain ⟨honly, hregs, hframe⟩ := finish_poisonV_writeV ha (rowWords e.co f.abase.toNat f.accrow.toNat)
    (rowPoison e.co f.abase.toNat f.accrow.toNat)
  refine ⟨_, hn, honly, hregs, fun n l hl => ?_⟩
  simp only [vReg, vPoison, hframe, ha.frame]
  exact markedFrame_rows e.fr e.co f.abase.toNat f.accrow.toNat hl

end Read

theorem matrixOperationsIssue : MatrixOperationsIssue := by
  intro s e f
  refine ⟨?_, accz_held, accwr_held, accrd_reads⟩
  rintro i kind (⟨rfl, rfl⟩ | ⟨rfl, rfl⟩) hready hok hfits hclean
  · exact product_held hready (exec_mma f s) hok hfits hclean rfl rfl
  · exact product_held hready (exec_mmaz f s) hok hfits hclean rfl rfl

/-! ## Completion (11 R325 to R331, R339, R340) -/

section Complete
variable (a : AccOp)

/-- The place in the cohort's accumulator of a cell: its row, counted from the write's own, and its column. -/
def accKey (p : Nat × Nat) : Nat := (a.row + p.1) * 64 + p.2

/-- The cells that an accumulator write writes. -/
def accCells : List (Nat × Nat) := List.range (accRows a) ×ˢ List.range 64

/-- One cell written. -/
def writeAccCell (co : Cohort) (p : Nat × Nat) : Cohort :=
  { co with
    acc := asetD co.acc 0 (accKey a p) (accNew a (agetD co.acc 0 (accKey a p)) p.1 p.2)
    accPoison := if a.kind = .mma then co.accPoison else aerase co.accPoison (accKey a p) }

theorem applyAcc_eq (co : Cohort) : applyAcc a co = (accCells a).foldl (writeAccCell a) co := rfl

theorem accRows_eq : accRows a = if a.kind = .accwr then 8 else 64 := by
  unfold accRows
  cases a.kind <;> rfl

theorem mem_accCells {p : Nat × Nat} : p ∈ accCells a ↔ p.1 < accRows a ∧ p.2 < 64 := by
  obtain ⟨m, n⟩ := p
  simp [accCells, List.mem_product]

theorem accKey_div {p : Nat × Nat} (h : p.2 < 64) : accKey a p / 64 = a.row + p.1 := by
  unfold accKey
  omega

/-- Two cells never share a place. -/
theorem nodup_map_accKey : ((accCells a).map (accKey a)).Nodup := by
  refine List.Nodup.map_on ?_ (List.nodup_range.product List.nodup_range)
  intro p hp q hq hkey
  obtain ⟨-, hp2⟩ := (mem_accCells a).1 hp
  obtain ⟨-, hq2⟩ := (mem_accCells a).1 hq
  unfold accKey at hkey
  exact Prod.ext (by omega) (by omega)

/-- A cell leaves every other place as it was. -/
theorem writeAccCell_ne (co : Cohort) {p : Nat × Nat} {k : Nat} (h : k ≠ accKey a p) :
    agetD (writeAccCell a co p).acc 0 k = agetD co.acc 0 k
    ∧ agetD (writeAccCell a co p).accPoison false k = agetD co.accPoison false k := by
  refine ⟨agetD_asetD_ne _ _ _ h, ?_⟩
  unfold writeAccCell
  split
  · rfl
  · simp only [agetD, aget_aerase_ne _ h]

/-- A cell holds the new word; only a product that adds keeps its poison (11 R339). -/
theorem writeAccCell_same (co : Cohort) (p : Nat × Nat) :
    agetD (writeAccCell a co p).acc 0 (accKey a p) = accNew a (agetD co.acc 0 (accKey a p)) p.1 p.2
    ∧ (a.kind ≠ .mma → agetD (writeAccCell a co p).accPoison false (accKey a p) = false) := by
  refine ⟨agetD_asetD_same _ _ _ _, fun hk => ?_⟩
  simp only [writeAccCell, hk, if_false, agetD, aget_aerase_same, Option.getD_none]

theorem foldl_writeAccCell_of_notMem (ps : List (Nat × Nat)) (co : Cohort) {k : Nat} (h : k ∉ ps.map (accKey a)) :
    agetD (ps.foldl (writeAccCell a) co).acc 0 k = agetD co.acc 0 k
    ∧ agetD (ps.foldl (writeAccCell a) co).accPoison false k = agetD co.accPoison false k := by
  induction ps generalizing co with
  | nil => exact ⟨rfl, rfl⟩
  | cons p ps ih =>
    rw [List.map_cons, List.mem_cons, not_or] at h
    obtain ⟨hp, hps⟩ := h
    obtain ⟨hword, hpoison⟩ := writeAccCell_ne a co hp
    obtain ⟨hrest, hrestPoison⟩ := ih (writeAccCell a co p) hps
    exact ⟨hrest.trans hword, hrestPoison.trans hpoison⟩

theorem foldl_writeAccCell_of_mem (ps : List (Nat × Nat)) (co : Cohort) (hn : (ps.map (accKey a)).Nodup)
    {p : Nat × Nat} (hp : p ∈ ps) :
    agetD (ps.foldl (writeAccCell a) co).acc 0 (accKey a p) = accNew a (agetD co.acc 0 (accKey a p)) p.1 p.2
    ∧ (a.kind ≠ .mma → agetD (ps.foldl (writeAccCell a) co).accPoison false (accKey a p) = false) := by
  induction ps generalizing co with
  | nil => cases hp
  | cons q ps ih =>
    rw [List.map_cons, List.nodup_cons] at hn
    obtain ⟨hq, hps⟩ := hn
    rw [List.foldl_cons]
    rcases List.mem_cons.1 hp with rfl | hmem
    · obtain ⟨hword, hpoison⟩ := foldl_writeAccCell_of_notMem a ps (writeAccCell a co p) hq
      rw [hword, hpoison]
      exact writeAccCell_same a co p
    · have hne : accKey a p ≠ accKey a q := fun h => hq (h ▸ List.mem_map_of_mem hmem)
      obtain ⟨hword, -⟩ := writeAccCell_ne a co hne
      have hrest := ih (writeAccCell a co q) hps hmem
      rwa [hword] at hrest

theorem foldl_writeAccCell_only (ps : List (Nat × Nat)) (co : Cohort) :
    ps.foldl (writeAccCell a) co = { co with
      acc := (ps.foldl (writeAccCell a) co).acc, accPoison := (ps.foldl (writeAccCell a) co).accPoison } := by
  induction ps generalizing co with
  | nil => rfl
  | cons p ps ih => exact ih (writeAccCell a co p)

/-- An accumulator write changes nothing of its cohort but the accumulator. -/
theorem applyAcc_only (co : Cohort) :
    applyAcc a co = { co with acc := (applyAcc a co).acc, accPoison := (applyAcc a co).accPoison } :=
  foldl_writeAccCell_only a (accCells a) co

/-- Every cell of its rows holds the new word (11 R325 to R330). -/
theorem applyAcc_cell (co : Cohort) {m n : Nat} (hm : m < accRows a) (hn : n < 64) :
    agetD (applyAcc a co).acc 0 ((a.row + m) * 64 + n) = accNew a (agetD co.acc 0 ((a.row + m) * 64 + n)) m n
    ∧ (a.kind ≠ .mma → agetD (applyAcc a co).accPoison false ((a.row + m) * 64 + n) = false) := by
  have hkey : (a.row + m) * 64 + n = accKey a (m, n) := rfl
  rw [hkey, applyAcc_eq]
  exact foldl_writeAccCell_of_mem a (accCells a) co (nodup_map_accKey a) ((mem_accCells a).2 ⟨hm, hn⟩)

/-- Every cell of another row is as it was. -/
theorem applyAcc_otherRow (co : Cohort) {k : Nat} (h : k / 64 < a.row ∨ a.row + accRows a ≤ k / 64) :
    agetD (applyAcc a co).acc 0 k = agetD co.acc 0 k
    ∧ agetD (applyAcc a co).accPoison false k = agetD co.accPoison false k := by
  refine foldl_writeAccCell_of_notMem a (accCells a) co fun hk => ?_
  obtain ⟨p, hp, rfl⟩ := List.mem_map.1 hk
  obtain ⟨hrow, hcol⟩ := (mem_accCells a).1 hp
  rw [accKey_div a hcol] at h
  omega

end Complete

section Completion
variable (s : State) (fk : Nat) (a : AccOp) (rest : List AccOp)

/-- The state after the head of a queue has written its rows. -/
def rowsWritten : State := modCohort { s with accQ := asetD s.accQ [] fk rest } a.tag (applyAcc a)

@[simp] theorem rowsWritten_accQ : (rowsWritten s fk a rest).accQ = asetD s.accQ [] fk rest := rfl
@[simp] theorem rowsWritten_cohorts : (rowsWritten s fk a rest).cohorts = amod s.cohorts a.tag (applyAcc a) := rfl

/-- The state after the set slot of a completed write is cleared in the group of its context. -/
def slotReleased : State :=
  match a.owners with
  | k :: _ =>
    match aget s.ctxs k with
    | some c => modGroup s c.group (fun g => { g with slots := clearSlot g.slots a.setSlot })
    | none => s
  | [] => s

theorem exec_completion_of_queue {s : State} {fk : Nat} {a : AccOp} {rest : List AccOp}
    (hq : aget s.accQ fk = some (a :: rest)) :
    exec (.matrixInstructionCompletion fk) s = .next (slotReleased (rowsWritten s fk a rest) a) := by
  have hhead : agetD s.accQ [] fk = a :: rest := by rw [agetD, hq]; rfl
  rw [exec_matrixInstructionCompletion, execMatrixInstructionCompletion, hhead]
  rfl

/-- Clearing a slot changes the groups only. -/
theorem slotReleased_only : slotReleased s a = { s with groups := (slotReleased s a).groups } := by
  unfold slotReleased
  split
  · split <;> rfl
  · rfl

@[simp] theorem slotReleased_cohorts : (slotReleased s a).cohorts = s.cohorts := by rw [slotReleased_only]
@[simp] theorem slotReleased_accQ : (slotReleased s a).accQ = s.accQ := by rw [slotReleased_only]

/-- The set slot of the write is free in the group of its context. -/
theorem slotReleased_group {s : State} {a : AccOp} {k : Nat} {c : Ctx} {g : Group} (hk : a.owners.head? = some k)
    (hc : aget s.ctxs k = some c) (hg : aget s.groups c.group = some g) :
    aget (slotReleased s a).groups c.group = some { g with slots := clearSlot g.slots a.setSlot } := by
  obtain ⟨ks, hks⟩ := List.head?_eq_some_iff.1 hk
  simp only [slotReleased, hks, hc, modGroup_groups, aget_amod_same, hg, Option.map_some]

end Completion

theorem accumulatorWritesComplete : AccumulatorWritesComplete := by
  intro s fk a rest co hq hco
  have hcohort : aget (slotReleased (rowsWritten s fk a rest) a).cohorts a.tag = some (applyAcc a co) := by
    simp [hco]
  simp only [← accRows_eq]
  refine ⟨_, applyAcc a co, exec_completion_of_queue hq, ?_, ?_, hcohort, fun k hk => ?_, applyAcc_only a co, ?_, ?_, ?_⟩
  · rw [slotReleased_only]; rfl
  · simp
  · simp [aget_amod_ne _ _ hk]
  · rintro m n hm hn old sum rfl rfl
    obtain ⟨hword, hpoison⟩ := applyAcc_cell a co hm hn
    refine ⟨hword.trans ?_, hpoison⟩
    unfold accNew
    cases a.kind <;> rfl
  · exact fun k hk => applyAcc_otherRow a co hk
  · exact fun k c g hk hc hg =>
      (slotReleased_group (s := rowsWritten s fk a rest) hk hc hg).trans (by unfold clearSlot; cases a.setSlot <;> rfl)

/-- Settles O29: at issue from the checks that pass and the state with the region open, at completion cell by cell. -/
theorem matrixOperations : Obligations.matrix_operations := ⟨matrixOperationsIssue, accumulatorWritesComplete⟩

end Sys2Proof.Machine
end
